-- ==== Sys2Proof/Word.lean ====
section
/-!
DEFINITION. Sys2Proof/Word.lean: the words of the machine and their plainest arithmetic (00 R7 to R9).
Bits are numbered from 0, least significant (00 R7).
-/

namespace Sys2Proof

/-- One byte of any memory (00 R8). -/
abbrev Byte := BitVec 8
/-- One 32-bit register element, and one instruction word (04 R40, R55). -/
abbrev W32 := BitVec 32
/-- One scalar register, program counter or mode (04 R40, R49). -/
abbrev W64 := BitVec 64
/-- One record of a record table (06 R103). -/
abbrev W256 := BitVec 256
/-- One bit of each lane of a group, bit i for lane i (04 R41). -/
abbrev Mask := BitVec 64

/-- A Bool as a one-bit word. -/
def bit (b : Bool) : BitVec 1 := if b then 1 else 0

/-- The lanes below a width (00 R11, WIDTHMASK). -/
def widthMask (w : Nat) : Mask := if 64 ≤ w then BitVec.allOnes 64 else BitVec.ofNat 64 (2 ^ w - 1)

/-- The lanes of a mask in ascending order (00 R11). -/
def lanesOf (m : Mask) : List Nat := (List.range 64).filter fun i => m.getLsbD i

/-- The lowest set bit of a mask, 64 for none. -/
def lowestBit (m : BitVec w) : Nat := ((List.range w).find? fun i => m.getLsbD i).getD w

/-- The mask of one lane. -/
def laneBit (i : Nat) : Mask := BitVec.ofNat 64 (2 ^ i)

/-- The mask of a list of lanes. -/
def maskOf (l : List Nat) : Mask := l.foldl (fun m i => m ||| laneBit i) 0

/-- Number of set bits of a word. -/
def popCount (m : BitVec w) : Nat := ((List.range w).filter fun i => m.getLsbD i).length

/-- Number of leading zeros of a word, its width for zero. -/
def clzOf (x : BitVec w) : Nat :=
  if x = 0 then w else w - 1 - x.toNat.log2

end Sys2Proof
end

