-- ==== Sys2Proof/Syntax.lean ====
section
/-!
DEFINITION. Sys2Proof/Syntax.lean: the steps of the machine, one constructor for each row of spec/opcode_table.json.
The first 232 are instruction words of 04 R56 to R60, each field at the width its format gives it.
The other 84 are the steps of agents (95): they have no encoding, and carry the objects they act on.
-/

namespace Sys2Proof

/-- A gang: its context's virtual function, its launch's LAUNCHSEQ and its index (03 R20). -/
structure GangRef where
  vf : BitVec 7
  seq : W64
  gang : BitVec 32
  deriving DecidableEq, Repr, Inhabited

/-- A group of a gang (03 R20). -/
structure GroupRef where
  gang : GangRef
  group : BitVec 5
  deriving DecidableEq, Repr, Inhabited

/-- The registers outside a group that software writes and that have no behaviour of their own
(16 R258, 18 R292, 19 R301, 22 R340, R345, R347, R351; 16 R262 for the export table, by halves). -/
inductive RegName where
  | lqBase (vf : BitVec 7) | lqSize (vf : BitVec 7) | ptRoot (vf : BitVec 7) | rtBase (vf : BitVec 7)
  | ctxCtl (vf : BitVec 7) | lwImg (vf : BitVec 7)
  | fqBase (vf : BitVec 7) | fqSize (vf : BitVec 7)
  | csBase (vf : BitVec 7) | dlBase (vf : BitVec 7) | dlSize (vf : BitVec 7) | dlHead (vf : BitVec 7)
  | dbgMask (vf : BitVec 7) | dmt0 (vf : BitVec 7) | dmt1 (vf : BitVec 7) | dmData (vf : BitVec 7)
  | trBase (die : BitVec 3) | trSize (die : BitVec 3) | trHead (die : BitVec 3)
  | smCtl (die : BitVec 3) | smBase (die : BitVec 3) | smSize (die : BitVec 3) | smHead (die : BitVec 3)
  | exportLo (entry : BitVec 8) | exportHi (entry : BitVec 8)
  deriving DecidableEq, Repr, Inhabited

/-- The arithmetic of an atomic at its location (06 R132). -/
inductive AtomFn where
  | add | min | max | and | or | xor | xchg | cas
  deriving DecidableEq, Repr

/-- What a remote access message asks of the target (16 R263). -/
inductive RemoteKind where
  | load (n : Nat)
  | store (data : List Byte)
  | atomic (fn : AtomFn) (fmt : BitVec 5) (operand compare : W64)
  deriving DecidableEq, Repr

/-- A remote access message: the sender's device number, the offset in the export aperture, the access (16 R261 to R263). -/
structure RemoteMsg where
  sender : BitVec 12
  offset : BitVec 39
  kind : RemoteKind
  deriving DecidableEq, Repr

/-- A remote push message: the target's control block, the queue's capacity and slots, and the records (16 R264). -/
structure RemotePush where
  ctl : BitVec 29
  capLog : BitVec 5
  slots : BitVec 39
  recBytes : Nat
  records : List (List Byte)
  deriving DecidableEq, Repr

/-- A remote pmt.get (get) or pmt.ret message, with the holder it names (16 R265). -/
structure RemotePmt where
  get : Bool
  context : BitVec 7
  gang : GangRef
  queue : BitVec 10
  ctl : BitVec 29
  count : BitVec 16
  deriving DecidableEq, Repr

/-- Where RESTORE puts one gang (19 R306). -/
structure Placement where
  seq : W64
  gang : BitVec 32
  die : BitVec 3
  core : BitVec 7
  deriving DecidableEq, Repr

/-- The steps of the machine: every row of the table of operations and events. -/
inductive Instr where
  /-- R74. Has no effect except to advance the split's PC by 4. -/
  | nop
  /-- R74. Marks every active lane exited, frees an emptied split entry and re-runs COVERCHECK. -/
  | exit
  /-- R75. Moves the whole split to PC + 4 × DISP18. -/
  | bra (d : BitVec 18)
  /-- R75. Sends the mask-selected lanes of the split to the target, dividing the split or pushing an overflow entry when only some are taken. -/
  | brmAny (s : BitVec 6) (w : BitVec 1) (d : BitVec 18)
  /-- R75. Moves the whole split to the target when every lane of its mask is set in sS. -/
  | brmAll (s : BitVec 6) (w : BitVec 1) (d : BitVec 18)
  /-- R75. Moves the whole split to the target when no lane of its mask is set in sS. -/
  | brmNone (s : BitVec 6) (w : BitVec 1) (d : BitVec 18)
  /-- R75. Moves the whole split to the target when all 64 bits of sS are zero. -/
  | brz (s : BitVec 6) (w : BitVec 1) (d : BitVec 18)
  /-- R75. Moves the whole split to the target when sS is not zero. -/
  | brnz (s : BitVec 6) (w : BitVec 1) (d : BitVec 18)
  /-- R76. Writes PC + 4 into the link register and moves the whole split to the target. -/
  | call (s : BitVec 6) (d : BitVec 18)
  /-- R76. Moves the split to the address in sA, or traps PC_ALIGN on a misaligned target. -/
  | ret (a : BitVec 6)
  /-- R76. Moves the split to sA + 4k, or traps PC_ALIGN on a misaligned target. -/
  | jmp (a : BitVec 6) (k : BitVec 13)
  /-- R25. Makes an arriving split pass, wait or merge at the join under the rejoin mask, trapping on disagreement or deadlock. -/
  | join (a : BitVec 6)
  /-- R78. Replaces the split's MODE with sA, or traps MODE_VALUE on a refused value. -/
  | setm (a : BitVec 6)
  /-- R78. Copies the split's MODE into sD. -/
  | getm (d : BitVec 6)
  /-- R79. Advances the PC and makes the split not ready until every other ready split has been picked once. -/
  | yield
  /-- R79. Makes a yielded split ready again after 64 cycles. -/
  | yieldExpiry (g : GroupRef) (k : BitVec 2)
  /-- R80. Blocks the split until a timeout in nanoseconds or one of the selected events. -/
  | sleep (d : BitVec 6) (a : BitVec 6) (e : BitVec 3)
  /-- R80. Wakes a sleeping split when TIME reaches its deadline and writes status 0. -/
  | sleepTimeout (g : GroupRef) (k : BitVec 2)
  /-- R80. Wakes a sleeping split on a selected counter, barrier-phase or granule event and writes 1 + k. -/
  | sleepEventWake (g : GroupRef) (k : BitVec 2)
  /-- R81. Writes sA + sB modulo 2^64. -/
  | sadd (d : BitVec 6) (a : BitVec 6) (b : BitVec 6) (x : BitVec 1) (y : BitVec 1)
  /-- R81. Writes sA − sB. -/
  | ssub (d : BitVec 6) (a : BitVec 6) (b : BitVec 6) (x : BitVec 1) (y : BitVec 1)
  /-- R81. Writes bits [63:0] of sA × sB. -/
  | smul (d : BitVec 6) (a : BitVec 6) (b : BitVec 6) (x : BitVec 1) (y : BitVec 1)
  /-- R81. Writes bits [127:64] of the signed product. -/
  | smulh (d : BitVec 6) (a : BitVec 6) (b : BitVec 6) (x : BitVec 1) (y : BitVec 1)
  /-- R81. Writes sA AND sB. -/
  | sand (d : BitVec 6) (a : BitVec 6) (b : BitVec 6) (x : BitVec 1) (y : BitVec 1)
  /-- R81. Writes sA OR sB. -/
  | sor (d : BitVec 6) (a : BitVec 6) (b : BitVec 6) (x : BitVec 1) (y : BitVec 1)
  /-- R81. Writes sA XOR sB. -/
  | sxor (d : BitVec 6) (a : BitVec 6) (b : BitVec 6) (x : BitVec 1) (y : BitVec 1)
  /-- R81. Writes sA shifted left by sB[5:0]. -/
  | sshl (d : BitVec 6) (a : BitVec 6) (b : BitVec 6) (x : BitVec 1) (y : BitVec 1)
  /-- R81. Writes sA shifted right logically by sB[5:0]. -/
  | sshr (d : BitVec 6) (a : BitVec 6) (b : BitVec 6) (x : BitVec 1) (y : BitVec 1)
  /-- R81. Writes sA shifted right arithmetically by sB[5:0]. -/
  | ssra (d : BitVec 6) (a : BitVec 6) (b : BitVec 6) (x : BitVec 1) (y : BitVec 1)
  /-- R81. Writes the signed minimum of sA and sB. -/
  | smin (d : BitVec 6) (a : BitVec 6) (b : BitVec 6) (x : BitVec 1) (y : BitVec 1)
  /-- R81. Writes the signed maximum of sA and sB. -/
  | smax (d : BitVec 6) (a : BitVec 6) (b : BitVec 6) (x : BitVec 1) (y : BitVec 1)
  /-- R81. Writes 1 when sA < sB signed, else 0. -/
  | sslt (d : BitVec 6) (a : BitVec 6) (b : BitVec 6) (x : BitVec 1) (y : BitVec 1)
  /-- R81. Writes 1 when sA equals sB, else 0. -/
  | sseq (d : BitVec 6) (a : BitVec 6) (b : BitVec 6) (x : BitVec 1) (y : BitVec 1)
  /-- R81. Writes the number of set bits of sA. -/
  | spop (d : BitVec 6) (a : BitVec 6) (x : BitVec 1)
  /-- R81. Writes the number of leading zeros of sA. -/
  | sclz (d : BitVec 6) (a : BitVec 6) (x : BitVec 1)
  /-- R81. Writes the index of the lowest set bit of sA, or 64. -/
  | sffs (d : BitVec 6) (a : BitVec 6) (x : BitVec 1)
  /-- R82. Writes sA plus a sign-extended 13-bit immediate. -/
  | saddi (d : BitVec 6) (a : BitVec 6) (i : BitVec 13)
  /-- R82. Writes IMM18 sign-extended to 64 bits. -/
  | sli (d : BitVec 6) (i : BitVec 18)
  /-- R82. Writes sD shifted left by 18 OR the unsigned IMM18. -/
  | sliHi (d : BitVec 6) (i : BitVec 18)
  /-- R54. Reads a special register into a scalar register, zero-extended. -/
  | rdsr (d : BitVec 6) (n : BitVec 5)
  /-- R54. Writes each active lane's index into vD. -/
  | rdsrLane (d : BitVec 7)
  /-- R54. Writes sA into a writable special register. -/
  | wrsr (a : BitVec 6) (n : BitVec 5)
  /-- R83. Writes a lane mask of lanes whose elements compare equal. -/
  | vcmpEq (d : BitVec 6) (a : BitVec 7) (b : BitVec 7) (x : BitVec 1) (y : BitVec 1)
  /-- R83. Writes a lane mask of lanes whose elements differ. -/
  | vcmpNe (d : BitVec 6) (a : BitVec 7) (b : BitVec 7) (x : BitVec 1) (y : BitVec 1)
  /-- R83. Writes a lane mask of lanes where A < B. -/
  | vcmpLt (d : BitVec 6) (a : BitVec 7) (b : BitVec 7) (x : BitVec 1) (y : BitVec 1)
  /-- R83. Writes a lane mask of lanes where A ≤ B. -/
  | vcmpLe (d : BitVec 6) (a : BitVec 7) (b : BitVec 7) (x : BitVec 1) (y : BitVec 1)
  /-- R83. Writes a lane mask of lanes whose float pair is unordered. -/
  | vcmpUn (d : BitVec 6) (a : BitVec 7) (b : BitVec 7) (x : BitVec 1) (y : BitVec 1)
  /-- R84. Writes sA AND sB as a mask. -/
  | mand (d : BitVec 6) (a : BitVec 6) (b : BitVec 6) (x : BitVec 1) (y : BitVec 1)
  /-- R84. Writes sA OR sB as a mask. -/
  | mor (d : BitVec 6) (a : BitVec 6) (b : BitVec 6) (x : BitVec 1) (y : BitVec 1)
  /-- R84. Writes sA XOR sB as a mask. -/
  | mxor (d : BitVec 6) (a : BitVec 6) (b : BitVec 6) (x : BitVec 1) (y : BitVec 1)
  /-- R84. Writes NOT sA as a mask. -/
  | mnot (d : BitVec 6) (a : BitVec 6) (x : BitVec 1)
  /-- R84. Writes LIVE into sD. -/
  | mlive (d : BitVec 6)
  /-- R84. Writes all ones or zero into vD per lane from the bits of sA. -/
  | mexpand (d : BitVec 7) (a : BitVec 6) (x : BitVec 1)
  /-- R86. Adds elements per lane under MODE.T. -/
  | add (d : BitVec 7) (a : BitVec 7) (b : BitVec 7) (x : BitVec 1) (y : BitVec 1)
  /-- R86. Subtracts elements per lane under MODE.T. -/
  | sub (d : BitVec 7) (a : BitVec 7) (b : BitVec 7) (x : BitVec 1) (y : BitVec 1)
  /-- R86. Writes the per-element minimum. -/
  | min (d : BitVec 7) (a : BitVec 7) (b : BitVec 7) (x : BitVec 1) (y : BitVec 1)
  /-- R86. Writes the per-element maximum. -/
  | max (d : BitVec 7) (a : BitVec 7) (b : BitVec 7) (x : BitVec 1) (y : BitVec 1)
  /-- R86. Multiplies elements per lane. -/
  | mul (d : BitVec 7) (a : BitVec 7) (b : BitVec 7) (x : BitVec 1) (y : BitVec 1)
  /-- R89. Writes the high half of the exact integer product. -/
  | mulh (d : BitVec 7) (a : BitVec 7) (b : BitVec 7) (x : BitVec 1) (y : BitVec 1)
  /-- R87. Divides elements per lane, with defined division by zero. -/
  | div (d : BitVec 7) (a : BitVec 7) (b : BitVec 7) (x : BitVec 1) (y : BitVec 1)
  /-- R87. Writes the integer remainder per lane. -/
  | rem (d : BitVec 7) (a : BitVec 7) (b : BitVec 7) (x : BitVec 1) (y : BitVec 1)
  /-- R86. Writes d + a × b with one rounding. -/
  | fma (d : BitVec 7) (a : BitVec 7) (b : BitVec 7) (x : BitVec 1) (y : BitVec 1)
  /-- R86. Writes a × b − d with one rounding. -/
  | fms (d : BitVec 7) (a : BitVec 7) (b : BitVec 7) (x : BitVec 1) (y : BitVec 1)
  /-- R86. Writes d − a × b with one rounding. -/
  | fnma (d : BitVec 7) (a : BitVec 7) (b : BitVec 7) (x : BitVec 1) (y : BitVec 1)
  /-- R88. Writes the absolute value per element. -/
  | abs (d : BitVec 7) (a : BitVec 7) (x : BitVec 1)
  /-- R88. Writes the negated value per element. -/
  | neg (d : BitVec 7) (a : BitVec 7) (x : BitVec 1)
  /-- R88. Rounds floats to an integral value, or copies integers. -/
  | rnd (d : BitVec 7) (a : BitVec 7) (x : BitVec 1)
  /-- R88. Writes the bitwise complement per element. -/
  | not (d : BitVec 7) (a : BitVec 7) (x : BitVec 1)
  /-- R89. Writes the bitwise AND per element. -/
  | and (d : BitVec 7) (a : BitVec 7) (b : BitVec 7) (x : BitVec 1) (y : BitVec 1)
  /-- R89. Writes the bitwise OR per element. -/
  | or (d : BitVec 7) (a : BitVec 7) (b : BitVec 7) (x : BitVec 1) (y : BitVec 1)
  /-- R89. Writes the bitwise XOR per element. -/
  | xor (d : BitVec 7) (a : BitVec 7) (b : BitVec 7) (x : BitVec 1) (y : BitVec 1)
  /-- R89. Shifts each element left by b mod w. -/
  | shl (d : BitVec 7) (a : BitVec 7) (b : BitVec 7) (x : BitVec 1) (y : BitVec 1)
  /-- R89. Shifts each element right logically by b mod w. -/
  | shr (d : BitVec 7) (a : BitVec 7) (b : BitVec 7) (x : BitVec 1) (y : BitVec 1)
  /-- R89. Shifts each element right arithmetically by b mod w. -/
  | sra (d : BitVec 7) (a : BitVec 7) (b : BitVec 7) (x : BitVec 1) (y : BitVec 1)
  /-- R89. Rotates each element left by b mod w. -/
  | rol (d : BitVec 7) (a : BitVec 7) (b : BitVec 7) (x : BitVec 1) (y : BitVec 1)
  /-- R89. Writes the set-bit count per element. -/
  | popc (d : BitVec 7) (a : BitVec 7) (x : BitVec 1)
  /-- R89. Writes the leading-zero count per element. -/
  | clz (d : BitVec 7) (a : BitVec 7) (x : BitVec 1)
  /-- R89. Reverses the bits of each element. -/
  | brev (d : BitVec 7) (a : BitVec 7) (x : BitVec 1)
  /-- R90. Extracts a bit field of a selected by offset and length in b. -/
  | bfe (d : BitVec 7) (a : BitVec 7) (b : BitVec 7) (x : BitVec 1) (y : BitVec 1)
  /-- R90. Inserts the low bits of a into a field of d. -/
  | bfi (d : BitVec 7) (a : BitVec 7) (b : BitVec 7) (x : BitVec 1) (y : BitVec 1)
  /-- R92. Writes vA into vD in the lanes set in sB. -/
  | sel (d : BitVec 7) (a : BitVec 7) (b : BitVec 6) (x : BitVec 1) (y : BitVec 1)
  /-- R92. Copies vA, or a pair under a 64-bit type, into vD. -/
  | mov (d : BitVec 7) (a : BitVec 7) (x : BitVec 1)
  /-- R92. Writes a scalar register's value into vD of every active lane. -/
  | movs (d : BitVec 7) (a : BitVec 6) (x : BitVec 1)
  /-- R92. Writes the lane index into vD. -/
  | lid (d : BitVec 7)
  /-- R92. Writes a sign-extended 18-bit immediate into vD. -/
  | li (d : BitVec 7) (i : BitVec 18)
  /-- R91. Adds a sign-extended immediate to each element. -/
  | addI (d : BitVec 7) (a : BitVec 7) (w : BitVec 1) (i : BitVec 10)
  /-- R91. Multiplies each element by an immediate. -/
  | mulI (d : BitVec 7) (a : BitVec 7) (w : BitVec 1) (i : BitVec 10)
  /-- R91. ANDs each element with an immediate. -/
  | andI (d : BitVec 7) (a : BitVec 7) (w : BitVec 1) (i : BitVec 10)
  /-- R91. ORs each element with an immediate. -/
  | orI (d : BitVec 7) (a : BitVec 7) (w : BitVec 1) (i : BitVec 10)
  /-- R91. XORs each element with an immediate. -/
  | xorI (d : BitVec 7) (a : BitVec 7) (w : BitVec 1) (i : BitVec 10)
  /-- R91. Shifts each element left by an immediate count. -/
  | shlI (d : BitVec 7) (a : BitVec 7) (w : BitVec 1) (i : BitVec 10)
  /-- R91. Shifts each element right logically by an immediate count. -/
  | shrI (d : BitVec 7) (a : BitVec 7) (w : BitVec 1) (i : BitVec 10)
  /-- R91. Shifts each element right arithmetically by an immediate count. -/
  | sraI (d : BitVec 7) (a : BitVec 7) (w : BitVec 1) (i : BitVec 10)
  /-- R94. Converts one value per lane from the source type to MODE.T. -/
  | cvt (d : BitVec 7) (a : BitVec 7) (w : BitVec 1) (t : BitVec 5)
  /-- R95. Packs the low bytes of four registers into one. -/
  | pk8 (d : BitVec 7) (a : BitVec 7) (x : BitVec 1)
  /-- R95. Unpacks four bytes into four registers. -/
  | upk8 (d : BitVec 7) (a : BitVec 7) (x : BitVec 1)
  /-- R95. Packs the low nibbles of eight registers into one. -/
  | pk4 (d : BitVec 7) (a : BitVec 7) (x : BitVec 1)
  /-- R95. Unpacks eight nibbles into eight registers. -/
  | upk4 (d : BitVec 7) (a : BitVec 7) (x : BitVec 1)
  /-- R95. Packs 21 six-bit elements into a register quadruple. -/
  | pk6 (d : BitVec 7) (a : BitVec 7) (x : BitVec 1)
  /-- R95. Unpacks a register quadruple into 21 six-bit elements. -/
  | upk6 (d : BitVec 7) (a : BitVec 7) (x : BitVec 1)
  /-- R96. Writes the correctly rounded reciprocal. -/
  | rcp (d : BitVec 7) (a : BitVec 7) (x : BitVec 1)
  /-- R96. Writes the correctly rounded reciprocal square root. -/
  | rsq (d : BitVec 7) (a : BitVec 7) (x : BitVec 1)
  /-- R96. Writes the correctly rounded square root. -/
  | sqrt (d : BitVec 7) (a : BitVec 7) (x : BitVec 1)
  /-- R96. Writes 2^x correctly rounded. -/
  | exp2 (d : BitVec 7) (a : BitVec 7) (x : BitVec 1)
  /-- R96. Writes e^x correctly rounded. -/
  | exp (d : BitVec 7) (a : BitVec 7) (x : BitVec 1)
  /-- R96. Writes log2 x correctly rounded. -/
  | log2 (d : BitVec 7) (a : BitVec 7) (x : BitVec 1)
  /-- R96. Writes ln x correctly rounded. -/
  | log (d : BitVec 7) (a : BitVec 7) (x : BitVec 1)
  /-- R96. Writes sin(2πx) correctly rounded. -/
  | sin2pi (d : BitVec 7) (a : BitVec 7) (x : BitVec 1)
  /-- R96. Writes cos(2πx) correctly rounded. -/
  | cos2pi (d : BitVec 7) (a : BitVec 7) (x : BitVec 1)
  /-- R96. Writes tanh x correctly rounded. -/
  | tanh (d : BitVec 7) (a : BitVec 7) (x : BitVec 1)
  /-- R96. Writes erf x correctly rounded. -/
  | erf (d : BitVec 7) (a : BitVec 7) (x : BitVec 1)
  /-- R99. Joins on the membership, then reads each lane's value from an indexed lane, filling with zero. -/
  | permZ (d : BitVec 7) (a : BitVec 7) (b : BitVec 6) (x : BitVec 1) (y : BitVec 1)
  /-- R99. Joins on the membership, then reads each lane's value from an indexed lane, filling with its own value. -/
  | permS (d : BitVec 7) (a : BitVec 7) (b : BitVec 6) (x : BitVec 1) (y : BitVec 1)
  /-- R100. Joins on the membership and writes the lowest member lane's value into every active lane. -/
  | bcast (d : BitVec 7) (a : BitVec 7) (b : BitVec 6) (x : BitVec 1) (y : BitVec 1)
  /-- R101. Joins and sums the members' values by a fixed butterfly into a scalar. -/
  | reduAdd (d : BitVec 6) (a : BitVec 7) (b : BitVec 6) (x : BitVec 1) (y : BitVec 1)
  /-- R101. Joins and writes the members' minimum into a scalar. -/
  | reduMin (d : BitVec 6) (a : BitVec 7) (b : BitVec 6) (x : BitVec 1) (y : BitVec 1)
  /-- R101. Joins and writes the members' maximum into a scalar. -/
  | reduMax (d : BitVec 6) (a : BitVec 7) (b : BitVec 6) (x : BitVec 1) (y : BitVec 1)
  /-- R102. Joins and writes each lane the inclusive prefix sum in ascending lane order. -/
  | scanAdd (d : BitVec 7) (a : BitVec 7) (b : BitVec 6) (x : BitVec 1) (y : BitVec 1)
  /-- R62. Kills the group of an issued illegal or out-of-range word and records CTXERR. -/
  | illegalWord (range : Bool)
  /-- R114. Loads one element per active lane through a buffer record, marking vD empty until it lands. -/
  | ld (d : BitVec 7) (r : BitVec 10) (a : BitVec 7) (w : BitVec 1)
  /-- R114. Stores the low bytes of vD per active lane through a buffer record. -/
  | st (d : BitVec 7) (r : BitVec 10) (a : BitVec 7) (w : BitVec 1)
  /-- R115. Loads one element into a scalar register once for the split. -/
  | ldS (d : BitVec 6) (r : BitVec 10) (a : BitVec 6) (w : BitVec 1)
  /-- R115. Stores the low bytes of a scalar register once for the split. -/
  | stS (d : BitVec 6) (r : BitVec 10) (a : BitVec 6) (w : BitVec 1)
  /-- R116. Loads a 64-bit element per lane into an even register pair. -/
  | ldW (d : BitVec 7) (r : BitVec 10) (a : BitVec 7) (w : BitVec 1)
  /-- R116. Stores a 64-bit element per lane from an even register pair. -/
  | stW (d : BitVec 7) (r : BitVec 10) (a : BitVec 7) (w : BitVec 1)
  /-- R117. Loads as ld with acquire ordering at the record's scope. -/
  | ldAcq (d : BitVec 7) (r : BitVec 10) (a : BitVec 7) (w : BitVec 1)
  /-- R117. Stores as st with release ordering at the record's scope. -/
  | stRel (d : BitVec 7) (r : BitVec 10) (a : BitVec 7) (w : BitVec 1)
  /-- R121. Waits for a full granule, loads the element and empties the granule. -/
  | ldC (d : BitVec 7) (r : BitVec 10) (a : BitVec 7) (w : BitVec 1)
  /-- R121. Waits for a full granule and loads the element, keeping it full. -/
  | ldK (d : BitVec 7) (r : BitVec 10) (a : BitVec 7) (w : BitVec 1)
  /-- R121. Stores as st and then sets every granule written full. -/
  | stF (d : BitVec 7) (r : BitVec 10) (a : BitVec 7) (w : BitVec 1)
  /-- R122. Sets n granules full, waking loads that wait on them. -/
  | feSet (a : BitVec 6) (n : BitVec 11)
  /-- R122. Makes n granules empty. -/
  | feClr (a : BitVec 6) (n : BitVec 11)
  /-- R122. Reads the full/empty bits of 64 granules into sD. -/
  | feRd (d : BitVec 6) (a : BitVec 6)
  /-- R125. Hands each lane's copy of up to 32 bytes into gang memory to the copy engine and raises the tag counter. -/
  | cpA (v : BitVec 7) (s : BitVec 8) (d : BitVec 8) (g : BitVec 2)
  /-- R126. Hands a block copy between any spaces to the engine, with optional barrier credit. -/
  | cpB (v : BitVec 6) (s : BitVec 8) (d : BitVec 8) (g : BitVec 2)
  /-- R127. Hands a gather of rows or tiles by an index list to the gather engine. -/
  | gth (v : BitVec 6) (i : BitVec 8) (d : BitVec 8)
  /-- R124. Blocks the split until the selected counter is at most n. -/
  | waitc (c : BitVec 2) (t : BitVec 2) (n : BitVec 8)
  /-- R124. Writes the present value of a counter into sD. -/
  | cnt (d : BitVec 6) (c : BitVec 2) (t : BitVec 2)
  /-- R129. Initialises a byte-counting barrier with EXPECTED. -/
  | barInit (a : BitVec 6) (b : BitVec 6) (x : BitVec 1) (y : BitVec 1)
  /-- R129. Adds expected bytes to a barrier's PENDING. -/
  | barExp (a : BitVec 6) (b : BitVec 6) (x : BitVec 1) (y : BitVec 1)
  /-- R129. Returns the phase and counts one arrival at a barrier. -/
  | barArr (d : BitVec 6) (a : BitVec 6) (x : BitVec 1)
  /-- R129. Blocks until the barrier's PHASE differs from the given bit. -/
  | barWait (a : BitVec 6) (b : BitVec 6) (x : BitVec 1) (y : BitVec 1)
  /-- R130. Joins the group's splits and arrives at a gang or band barrier, waiting for the phase. -/
  | barSync (a : BitVec 6) (k : BitVec 1) (b : BitVec 4)
  /-- R131. Blocks until the group's earlier accesses are performed at the scope. -/
  | fence (s : BitVec 3)
  /-- R119. Hints a byte range be brought to L1, L2 or tier 1. -/
  | pf (l : BitVec 6) (a : BitVec 6) (v : BitVec 2) (n : BitVec 10)
  /-- R119. Invalidates the core's L1 lines holding a byte range of a record. -/
  | cinv (l : BitVec 6) (a : BitVec 6) (n : BitVec 10)
  /-- R119. Invalidates the whole L1 of the core. -/
  | cinvAll
  /-- R132. Adds each lane's operand at its location indivisibly and returns the old value. -/
  | atomAdd (d : BitVec 7) (r : BitVec 8) (a : BitVec 7) (w : BitVec 1)
  /-- R132. Takes the minimum at each location indivisibly and returns the old value. -/
  | atomMin (d : BitVec 7) (r : BitVec 8) (a : BitVec 7) (w : BitVec 1)
  /-- R132. Takes the maximum at each location indivisibly and returns the old value. -/
  | atomMax (d : BitVec 7) (r : BitVec 8) (a : BitVec 7) (w : BitVec 1)
  /-- R132. ANDs at each location indivisibly and returns the old value. -/
  | atomAnd (d : BitVec 7) (r : BitVec 8) (a : BitVec 7) (w : BitVec 1)
  /-- R132. ORs at each location indivisibly and returns the old value. -/
  | atomOr (d : BitVec 7) (r : BitVec 8) (a : BitVec 7) (w : BitVec 1)
  /-- R132. XORs at each location indivisibly and returns the old value. -/
  | atomXor (d : BitVec 7) (r : BitVec 8) (a : BitVec 7) (w : BitVec 1)
  /-- R132. Exchanges each location with the operand and returns the old value. -/
  | atomXchg (d : BitVec 7) (r : BitVec 8) (a : BitVec 7) (w : BitVec 1)
  /-- R132. Compares and swaps each location and returns the old value. -/
  | atomCas (d : BitVec 7) (r : BitVec 8) (a : BitVec 7) (w : BitVec 1)
  /-- R132. Adds at each location without returning, counting on the bank class. -/
  | redAdd (d : BitVec 7) (r : BitVec 8) (a : BitVec 7) (w : BitVec 1)
  /-- R132. Takes the minimum at each location without returning. -/
  | redMin (d : BitVec 7) (r : BitVec 8) (a : BitVec 7) (w : BitVec 1)
  /-- R132. Takes the maximum at each location without returning. -/
  | redMax (d : BitVec 7) (r : BitVec 8) (a : BitVec 7) (w : BitVec 1)
  /-- R133. Replaces a packed score word at the bank when the candidate ranks higher. -/
  | bankMx (d : BitVec 7) (r : BitVec 8) (a : BitVec 7) (w : BitVec 1)
  /-- R133. Writes EMPTY over a packed word whose index matches. -/
  | bankSup (d : BitVec 7) (r : BitVec 8) (a : BitVec 7) (w : BitVec 1)
  /-- R134. Adds lanes into 64-byte granules at the bank, one indivisible step per granule. -/
  | bankVadd (d : BitVec 7) (r : BitVec 8) (a : BitVec 7) (w : BitVec 1)
  /-- R135. Hands out the next loop range from a bank counter word. -/
  | chunk (d : BitVec 6) (r : BitVec 8) (a : BitVec 6) (w : BitVec 1)
  /-- R132. Performs an issued atomic, reduction or bank operation at its serving point and decrements its counter. -/
  | bankOperationPerform (g : GroupRef) (id : Nat) (lanes : Mask)
  /-- R136. Loads a 32-byte record image into a table entry, advancing GEN. -/
  | recLd (a : BitVec 6) (n : BitVec 10)
  /-- R136. Stores a table entry to memory. -/
  | recSt (a : BitVec 6) (n : BitVec 10)
  /-- R136. Drops the core's cached copies of shared entries. -/
  | recInv (a : BitVec 6) (n : BitVec 10)
  /-- R137. Writes one field of a BUF or TILE record and advances GEN. -/
  | recSet (r : BitVec 6) (a : BitVec 6) (f : BitVec 6)
  /-- R137. Reads one field of a BUF or TILE record into sD. -/
  | recGet (d : BitVec 6) (r : BitVec 6) (f : BitVec 6)
  /-- R138. Loads the 768-byte CB2 codebook into the gang's table and the context's image. -/
  | cbld (a : BitVec 6)
  /-- R211. Loads a dense tile image from a buffer into a tile. -/
  | tld (c : BitVec 8) (a : BitVec 8) (b : BitVec 6)
  /-- R212. Loads a factor image into a low-rank tile, then rounds its rank. -/
  | tldf (c : BitVec 8) (a : BitVec 8) (b : BitVec 6)
  /-- R213. Stores a tile's value as a dense image. -/
  | tst (c : BitVec 8) (a : BitVec 8) (b : BitVec 6)
  /-- R213. Stores a low-rank tile's factor image. -/
  | tstf (c : BitVec 8) (a : BitVec 8) (b : BitVec 6)
  /-- R215. Accumulates C + A·B by kind, rounding and capping the result. -/
  | tmm (c : BitVec 8) (a : BitVec 8) (b : BitVec 8)
  /-- R215. Accumulates C − A·B by kind, rounding and capping the result. -/
  | tmms (c : BitVec 8) (a : BitVec 8) (b : BitVec 8)
  /-- R216. Writes A + B into tile C. -/
  | tadd (c : BitVec 8) (a : BitVec 8) (b : BitVec 8)
  /-- R216. Writes A − B into tile C. -/
  | tsub (c : BitVec 8) (a : BitVec 8) (b : BitVec 8)
  /-- R214. Makes a tile zero, freeing its segments and setting its factor-column count. -/
  | tz (c : BitVec 8) (b : BitVec 6)
  /-- R214. Copies tile A into tile C. -/
  | tcp (c : BitVec 8) (a : BitVec 8)
  /-- R217. Writes s·A into tile C. -/
  | tscl (c : BitVec 8) (a : BitVec 8) (b : BitVec 6)
  /-- R217. Writes the transpose of A into tile C. -/
  | ttr (c : BitVec 8) (a : BitVec 8)
  /-- R214. Re-rounds a low-rank tile's rank under MODE. -/
  | trnd (c : BitVec 8)
  /-- R203. Compresses a dense tile in place to low rank by one-sided Jacobi. -/
  | tlr (c : BitVec 8)
  /-- R214. Forces a tile to dense. -/
  | tden (c : BitVec 8)
  /-- R218. Factorises a dense square tile in place with partial pivoting and writes pivots. -/
  | tlu (c : BitVec 8) (a : BitVec 8)
  /-- R219. Applies L⁻¹·P to tile C using factors from tlu. -/
  | ttrsmL (c : BitVec 8) (a : BitVec 8) (b : BitVec 8)
  /-- R219. Applies U⁻¹ from the right to tile C. -/
  | ttrsmU (c : BitVec 8) (a : BitVec 8)
  /-- R220. Replaces a dense square tile with its lower Cholesky factor. -/
  | tchol (c : BitVec 8)
  /-- R326. Accumulates a moment product into an mf32 moment tile. -/
  | tmmM (c : BitVec 8) (a : BitVec 8) (b : BitVec 8)
  /-- R222. Reads one row segment of a tile into a vector register. -/
  | tv (d : BitVec 7) (a : BitVec 8) (b : BitVec 6)
  /-- R223. Writes one row segment of a tile from a vector register. -/
  | vt (c : BitVec 8) (a : BitVec 7) (b : BitVec 6)
  /-- R226. Asks for more pool segments, waiting until granted or refused. -/
  | tsal (d : BitVec 6) (a : BitVec 6)
  /-- R226. Grants or refuses more pool segments at once. -/
  | tsalNw (d : BitVec 6) (a : BitVec 6)
  /-- R226. Returns free pool segments to the core. -/
  | tsfr (d : BitVec 6) (a : BitVec 6)
  /-- R224. Writes a summary of a tile record into sD. -/
  | tinfo (d : BitVec 6) (n : BitVec 8)
  /-- R225. Asks the core to load a tile into an array's shadow plane. -/
  | tls (n : BitVec 8)
  /-- R192. Grants a waiting tsal when unreserved segments cover its request. -/
  | tsalGrant (g : GroupRef) (k : BitVec 2)
  /-- R192. Refuses the youngest launch's waiting tsal when every holding gang is blocked in tsal. -/
  | tsalRefusal (die : BitVec 3) (core : BitVec 7)
  /-- R194. Retires a tile operation, changing its destination in one indivisible step and decrementing the matrix counter. -/
  | tileRetirement (g : GroupRef) (id : Nat) (part : Option (Nat × Nat))
  /-- R317. Adds moment pairs with the covariance term. -/
  | madd (d : BitVec 5) (a : BitVec 5) (b : BitVec 5) (x : BitVec 1) (y : BitVec 1)
  /-- R317. Subtracts moment pairs with the covariance term. -/
  | msub (d : BitVec 5) (a : BitVec 5) (b : BitVec 5) (x : BitVec 1) (y : BitVec 1)
  /-- R317. Multiplies moment pairs with the covariance term. -/
  | mmul (d : BitVec 5) (a : BitVec 5) (b : BitVec 5) (x : BitVec 1) (y : BitVec 1)
  /-- R317. Multiplies moment pairs and adds the product to mD. -/
  | mfma (d : BitVec 5) (a : BitVec 5) (b : BitVec 5) (x : BitVec 1) (y : BitVec 1)
  /-- R317. Scales a moment pair by an f32 scalar. -/
  | mscl (d : BitVec 5) (a : BitVec 5) (b : BitVec 6) (x : BitVec 1) (y : BitVec 1)
  /-- R319. Moment-matches exp of a pair. -/
  | mexp (d : BitVec 5) (a : BitVec 5) (x : BitVec 1)
  /-- R319. Moment-matches the rectifier of a pair. -/
  | mrelu (d : BitVec 5) (a : BitVec 5) (x : BitVec 1)
  /-- R319. Moment-matches the sigmoid of a pair. -/
  | msig (d : BitVec 5) (a : BitVec 5) (x : BitVec 1)
  /-- R323. Forms a moment pair from a vector register pair. -/
  | mset (d : BitVec 5) (a : BitVec 7) (x : BitVec 1)
  /-- R323. Writes a pair's mean and standard deviation into a vector pair. -/
  | mcol (d : BitVec 7) (a : BitVec 5) (x : BitVec 1)
  /-- R323. Writes a pair's variance into a vector register. -/
  | mvar (d : BitVec 7) (a : BitVec 5) (x : BitVec 1)
  /-- R324. Loads one moment pair per lane from an mf32 or mbf16 record. -/
  | mld (d : BitVec 5) (r : BitVec 8) (a : BitVec 7) (w : BitVec 1)
  /-- R324. Stores one moment pair per lane to an mf32 or mbf16 record. -/
  | mst (d : BitVec 5) (r : BitVec 8) (a : BitVec 7) (w : BitVec 1)
  /-- R248. Fences and submits a launch record, blocking until accepted and writing its LAUNCHSEQ. -/
  | launch (d : BitVec 6) (a : BitVec 6)
  /-- R249. Pushes one record per active lane to a queue at its bank, all or nothing. -/
  | qpush (d : BitVec 6) (v : BitVec 6) (n : BitVec 10)
  /-- R250. Pops one record from a plain queue into scalar registers, blocking while empty. -/
  | qpop (d : BitVec 6) (n : BitVec 10)
  /-- R250. Gives a waiting pop the record at CLAIM at the bank once a record is available. -/
  | qpopClaim (g : GroupRef) (k : BitVec 2)
  /-- R252. Asks for a trigger decision on a node. -/
  | qflush (n : BitVec 10)
  /-- R253. Registers a node as a successor of the issuing launch. -/
  | done (n : BitVec 10)
  /-- R254. Takes capacity permits from a queue into the gang's holder table. -/
  | pmtGet (d : BitVec 6) (a : BitVec 6) (n : BitVec 10)
  /-- R254. Returns held capacity permits to a queue. -/
  | pmtRet (a : BitVec 6) (n : BitVec 10)
  /-- R295. Raises a software trap with cause 0x1E0 + c. -/
  | trap (c : BitVec 5)
  /-- R296. Restores the frame's splits and re-injects the replay queue, leaving the handler. -/
  | rte
  /-- R295. Writes the replay-entry count into sD. -/
  | rqN (d : BitVec 6)
  /-- R295. Reads a selected doubleword of a replay entry or the frame. -/
  | rqRd (d : BitVec 6) (a : BitVec 6)
  /-- R295. Writes a selected writable doubleword of a replay entry or the frame. -/
  | rqWr (d : BitVec 6) (a : BitVec 6)
  /-- R295. Removes a replay entry, setting its destination full. -/
  | rqDrop (a : BitVec 6)
  /-- R298. Pops the oldest error-log record into a scalar pair. -/
  | elog (d : BitVec 6)
  /-- R295. Raises a software trap with cause BRK. -/
  | brk
  /-- R289. Takes a deferred trap at the group's next boundary, filling the replay queue and frame and entering the handler. -/
  | trapEntry (g : GroupRef)
  /-- R339. Arms a watch predicate from a watch record on every core of the context. -/
  | wpSet (d : BitVec 6) (a : BitVec 6) (p : BitVec 4)
  /-- R339. Disarms one watch predicate. -/
  | wpClr (p : BitVec 4)
  /-- R339. Disarms every watch predicate. -/
  | wpClrAll
  /-- R339. Writes a predicate's armed state, matches and firings. -/
  | wpSt (d : BitVec 6) (p : BitVec 4)
  /-- R339. Pops the oldest watch-log record into a scalar pair. -/
  | wpStLog (d : BitVec 6)
  /-- R341. Holds a target lane, group or gang at its next boundary. -/
  | dbgHalt (d : BitVec 6) (a : BitVec 6) (s : BitVec 2)
  /-- R341. Releases every held split within the target scope. -/
  | dbgGo (d : BitVec 6) (a : BitVec 6) (s : BitVec 2)
  /-- R343. Runs the next instruction of a held target lane alone. -/
  | dbgStep (d : BitVec 6) (a : BitVec 6)
  /-- R342. Reads a target register with a status. -/
  | dbgRd (d : BitVec 6) (a : BitVec 6) (g : BitVec 9)
  /-- R342. Writes a target register of a held target, refusing an empty one. -/
  | dbgWr (d : BitVec 6) (a : BitVec 6) (g : BitVec 9)
  /-- R342. Forces a write to a target register, cancelling a pending producer's write. -/
  | dbgWrF (d : BitVec 6) (a : BitVec 6) (g : BitVec 9)
  /-- R344. Lists the i-th held split of a context with its hit record and target pair. -/
  | dbgLs (d : BitVec 6) (a : BitVec 6)
  /-- R350. Emits a MARK trace packet when marks and trace are enabled. -/
  | trMark (a : BitVec 6) (k : BitVec 9)
  /-- R334. Evaluates a returned load value against predicates and lands any action after its skid. -/
  | watchLoadValueEvaluation (g : GroupRef)
  /-- R45. Writes a long-latency producer's active lanes and marks its destination full. -/
  | producerCompletion (g : GroupRef) (id : Nat) (lanes : Mask)
  /-- R147. Performs a queued store at its point of coherence. -/
  | storePerform (g : GroupRef) (id : Nat) (lanes : Mask)
  /-- R126. Lands copy bytes, sets granules full, credits barriers and decrements the copy counter at completion. -/
  | copyLanding (g : GroupRef) (id : Nat) (first : Nat) (n : Nat)
  /-- R127. Lands bytes of one gather entry (the entry, its first byte, how many) and completes the gather when all have landed. -/
  | gatherEntryLanding (g : GroupRef) (id : Nat) (part : Nat × Nat × Nat)
  /-- R242. Promotes a split whose age reaches 32 ahead of other ready splits. -/
  | splitPromotion (g : GroupRef) (k : BitVec 2)
  /-- R241. Moves a group not ready for 256 cycles from the active to the backing file. -/
  | groupMoveOut (g : GroupRef)
  /-- R241. Moves a group with a ready split into the active set, forcibly after 4,096 cycles. -/
  | groupMoveIn (g : GroupRef)
  /-- R36. Retires a group whose lanes have exited and whose operations have completed. -/
  | groupRetirement (g : GroupRef)
  /-- R232. Completes a launch, writing its completion word once after its effects reach device scope. -/
  | launchCompletion (vf : BitVec 7) (seq : W64)
  /-- R234. Accepts a launch record, giving it the next LAUNCHSEQ or completing it refused. -/
  | launchAcceptance (vf : BitVec 7) (fromQueue : Bool)
  /-- R235. Admits the next fitting candidate gang onto a core when resources are released. -/
  | gangAdmission (g : GangRef) (die : BitVec 3) (core : BitVec 7)
  /-- R236. Admits a band onto distinct cores of one die, reserving its bank region and writing d255. -/
  | bandAdmission (vf : BitVec 7) (seq : W64) (band : BitVec 32) (die : BitVec 3) (cores : List (BitVec 7)) (base : BitVec 29)
  /-- R235. Makes a candidate that has waited 1 ms reserve, stopping later admissions of equal or lower priority. -/
  | candidateReservation (g : GangRef)
  /-- R243. Evicts a wholly blocked gang to make room, saving its image with wake conditions. -/
  | gangEviction (g : GangRef)
  /-- R244. Makes an evicted gang a woken candidate when one group's wake condition is met. -/
  | gangWake (g : GangRef)
  /-- R239. Decides whether a node creates launches over its unclaimed records. -/
  | triggerDecision (vf : BitVec 7) (node : BitVec 10)
  /-- R239. Starts a trigger decision when a node's flush timer expires. -/
  | flushTimerExpiry (vf : BitVec 7) (node : BitVec 10)
  /-- R285. Hub firmware copies a migrate-on-touch page into tier 1 and releases held accesses. -/
  | migrateOnTouchService (die : BitVec 3) (slot : BitVec 12) (frame : Option (BitVec 52))
  /-- R284. Retries a faulting access held without a record when a buffer slot frees. -/
  | faultBufferRetry (g : GroupRef) (id : Nat)
  /-- R263. Performs or refuses a remote load, store or atomic message at the target. -/
  | remoteAccess (m : RemoteMsg)
  /-- R264. Acts on a remote push message at the target queue's bank. -/
  | remoteQpush (sender : BitVec 12) (p : RemotePush)
  /-- R265. Acts on a remote pmt.get or pmt.ret message at the target. -/
  | remotePermit (sender : BitVec 12) (p : RemotePmt)
  /-- R265. Returns a reset or down sender's remote permits to PAVAIL. -/
  | remotePermitReturn (sender : BitVec 12) (context : Option (BitVec 7))
  /-- R263. Declares a target down 10 ms after the first failed attempt. -/
  | fabricDown (device : BitVec 12)
  /-- R266. Slews TIME onto fabric time from IEEE 1588 messages. -/
  | timeAlignment (t : W64)
  /-- R257, R309. Serves a host access to tier-1 memory through CXL.mem, by physical address or through a context's mapping. -/
  | hostCxlMemAccess (mapping : Option (BitVec 7)) (addr : W64) (data : Option (List Byte)) (n : Nat)
  /-- R349. Emits a TS trace packet every 65,536 cycles while trace is on. -/
  | traceTs (g : GroupRef)
  /-- R351. Writes a 32-byte sample record for the next group every N cycles. -/
  | sample (die : BitVec 3) (core : BitVec 7) (quad : BitVec 2)
  /-- R233. Submits launch-queue slots up to the written index for acceptance. -/
  | lqtail (vf : BitVec 7) (v : W32)
  /-- R258. Resets the context, sweeping its permits, and sets RESETDONE. -/
  | ctxctlReset (vf : BitVec 7) (v : W64)
  /-- R258. Copies a 768-byte codebook image into the context's codebook image. -/
  | cbimg (vf : BitVec 7) (v : W64)
  /-- R258. Writes a register without behaviour of its own, ignored while a launch is uncompleted where stated. -/
  | registerWrite (r : RegName) (v : W64)
  /-- R293. Advances the host fault queue head, letting waiting records be written. -/
  | fqhead (vf : BitVec 7) (v : W64)
  /-- R286. Releases the accesses held by a fault record. -/
  | frespResume (vf : BitVec 7) (die : BitVec 3) (slot : BitVec 12)
  /-- R286. Refuses a fault, trapping held group accesses with FILL_REFUSED. -/
  | frespRefuse (vf : BitVec 7) (die : BitVec 3) (slot : BitVec 12)
  /-- R280. Invalidates cached translations of one page of the context. -/
  | invalPage (vf : BitVec 7) (va : W64)
  /-- R280. Invalidates every cached translation of the context. -/
  | invalAll (vf : BitVec 7)
  /-- R303. Stops every group of the context at a boundary and writes its image to the save area. -/
  | capture (vf : BitVec 7)
  /-- R306. Checks, fits and loads a captured image onto this module, whole or not at all. -/
  | restore (vf : BitVec 7) (places : List Placement)
  /-- R301. Runs a captured context on in place. -/
  | resume (vf : BitVec 7)
  /-- R301. Resets a captured context. -/
  | discard (vf : BitVec 7)
  /-- R309. Clears the dirty log indices and starts dirty-page logging. -/
  | logon (vf : BitVec 7)
  /-- R309. Stops dirty-page logging. -/
  | logoff (vf : BitVec 7)
  /-- R345. Performs dbg.halt with full capability through the register mirror. -/
  | dmHalt (vf : BitVec 7) (scope : BitVec 2)
  /-- R345. Performs dbg.go through the register mirror. -/
  | dmGo (vf : BitVec 7) (scope : BitVec 2)
  /-- R345. Performs dbg.step through the register mirror. -/
  | dmStep (vf : BitVec 7)
  /-- R345. Performs dbg.rd through the register mirror. -/
  | dmRd (vf : BitVec 7) (reg : BitVec 9)
  /-- R345. Performs dbg.wr through the register mirror. -/
  | dmWr (vf : BitVec 7) (reg : BitVec 9)
  /-- R345. Performs dbg.wr.f through the register mirror. -/
  | dmWrF (vf : BitVec 7) (reg : BitVec 9)
  /-- R310. Captures a failed core's gangs and restores them onto a spare core. -/
  | coreRetirement (die : BitVec 3) (core : BitVec 7)
  /-- R362. Re-executes an instruction from the replay queue after a soft error. -/
  | softErrorReexecution (g : GroupRef) (id : Nat)
  /-- R358. Runs the power-on sequence from the always-on domain to host link readiness. -/
  | powerOn (fabricTime : W64)
  /-- R359. Performs a module reset on PERST#. -/
  | perst
  /-- R359. Performs a module reset on the management RESET command. -/
  | moduleReset
  /-- R354. Starts the Obsidian freeze when the pin is driven low. -/
  | obsfrzN
  /-- R354. Starts the Obsidian freeze on the management FREEZE command. -/
  | freeze
  /-- R354. Reads out the frozen state over IEEE 1149.1 and management. -/
  | freezeReadout
  /-- R356. Powers off when input stays below 44 V for 1 ms. -/
  | undervoltagePowerOff
  /-- R357. Freezes and powers off on junction above 115 °C or low flow for 2 s. -/
  | thermalTrip
  /-- R357. Lowers a die's clock while a junction exceeds 100 °C. -/
  | thermalThrottle (die : BitVec 3)
  /-- R357. Lowers the arithmetic clock in 100 MHz steps while power exceeds the cap. -/
  | powerCapThrottle
  /-- R357. Sets the power cap through PLDM. -/
  | powerCapSet (watts : BitVec 16)
  /-- R364. Returns per-die temperature, input power or flow through PLDM. -/
  | sensorRead (sensor : BitVec 8)
  /-- R360. Writes and verifies a new firmware image in the inactive copy. -/
  | firmwareUpdate (image : W64) (signed : Bool)
  /-- R360. Hands the command processor over to the standby running the new image. -/
  | firmwareActivation
  /-- R261. Sets the module's fabric device number through management. -/
  | deviceNumberSet (n : BitVec 12)
  /-- R271. Answers an SPDM request with certificates or measurements. -/
  | spdmRequest (measurements : Bool)
  /-- R271. Installs an encryption key through an SPDM-secured session. -/
  | keyInstall (vf : BitVec 7) (index : BitVec 13) (key : BitVec 512) (session : Bool)
  /-- R361. Remaps a failing HBM row to a spare after copying its data. -/
  | hbmRowRemap (stack : BitVec 4) (row : BitVec 32) (spare : BitVec 32)
  /-- R361. Moves traffic off an HBM or LPDDR 6 channel and retrains or retires it. -/
  | channelRetrain (hbm : Bool) (channel : BitVec 16) (retire : Bool)
  /-- R361. Runs a port on 7 lanes and retrains the spare lane. -/
  | fabricLaneRetrain (port : BitVec 4) (lane : BitVec 3) (retrained : Bool)
  /-- R255. Destroys a context, returning its permits by the holder-table sweep, returning its remote permits and releasing the bank regions it held. -/
  | contextDestruction (vf : BitVec 7)
  /-- R228. Reserves a bank-memory region for a context outside bands, on a die that the loader chooses, and grows CSSIZE by its bytes. -/
  | bankRegionReservation (vf : BitVec 7) (base : BitVec 29) (bytes : BitVec 27)
  deriving DecidableEq, Repr

end Sys2Proof
end

