-- ==== Sys2Proof/WellFormed.lean ====
section
/-!
DEFINITION. Sys2Proof/WellFormed.lean: operand values that a field can hold and its instruction does not accept make
the word illegal (04 R61). One check for each such rule; every other value is accepted.
-/

namespace Sys2Proof

/-- The field codes of rec.set and rec.get that are not reserved (06 R137). -/
def fieldCode (f : BitVec 6) : Bool :=
  f.toNat ≤ 2 || (8 ≤ f.toNat && f.toNat ≤ 17) || (24 ≤ f.toNat && f.toNat ≤ 34)

/-- The register codes of the debug instructions: file 3 has state numbers 0 to 6 only (22 R338). -/
def regCode (g : BitVec 9) : Bool := g.extractLsb' 7 2 != 3 || (g.extractLsb' 0 7).toNat ≤ 6

/-- The operand values an instruction accepts: special-register numbers (04 R54), conversion source types (05 R93),
tags, scopes, levels and field codes (06 R113), debug scopes and register codes (22 R338). -/
def Instr.wf : Instr → Bool
  | .rdsr _ n => 1 ≤ n.toNat && n.toNat ≤ 18
  | .wrsr _ n => 14 ≤ n.toNat && n.toNat ≤ 18
  | .cvt _ _ _ t => t.toNat ≤ 17
  | .waitc c t _ => c == 0 || t == 0
  | .cnt _ c t => c == 0 || t == 0
  | .fence s => s.toNat ≤ 5
  | .pf _ _ v _ => v != 3
  | .recSet _ _ f => fieldCode f
  | .recGet _ _ f => fieldCode f
  | .dbgHalt _ _ s => s != 3
  | .dbgGo _ _ s => s != 3
  | .dbgRd _ _ g => regCode g
  | .dbgWr _ _ g => regCode g
  | .dbgWrF _ _ g => regCode g
  | .cpB v _ _ _ => v.toNat % 4 == 0
  | .nop | .exit | .bra _ | .brmAny _ _ _ | .brmAll _ _ _ | .brmNone _ _ _ | .brz _ _ _ | .brnz _ _ _ | .call _ _
  | .ret _ | .jmp _ _ | .join _ | .setm _ | .getm _ | .yield | .yieldExpiry _ _ | .sleep _ _ _ | .sleepTimeout _ _
  | .sleepEventWake _ _ | .sadd _ _ _ _ _ | .ssub _ _ _ _ _ | .smul _ _ _ _ _ | .smulh _ _ _ _ _ | .sand _ _ _ _ _
  | .sor _ _ _ _ _ | .sxor _ _ _ _ _ | .sshl _ _ _ _ _ | .sshr _ _ _ _ _ | .ssra _ _ _ _ _ | .smin _ _ _ _ _
  | .smax _ _ _ _ _ | .sslt _ _ _ _ _ | .sseq _ _ _ _ _ | .spop _ _ _ | .sclz _ _ _ | .sffs _ _ _ | .saddi _ _ _
  | .sli _ _ | .sliHi _ _ | .rdsrLane _ | .vcmpEq _ _ _ _ _ | .vcmpNe _ _ _ _ _ | .vcmpLt _ _ _ _ _
  | .vcmpLe _ _ _ _ _ | .vcmpUn _ _ _ _ _ | .mand _ _ _ _ _ | .mor _ _ _ _ _ | .mxor _ _ _ _ _ | .mnot _ _ _
  | .mlive _ | .mexpand _ _ _ | .add _ _ _ _ _ | .sub _ _ _ _ _ | .min _ _ _ _ _ | .max _ _ _ _ _ | .mul _ _ _ _ _
  | .mulh _ _ _ _ _ | .div _ _ _ _ _ | .rem _ _ _ _ _ | .fma _ _ _ _ _ | .fms _ _ _ _ _ | .fnma _ _ _ _ _
  | .abs _ _ _ | .neg _ _ _ | .rnd _ _ _ | .not _ _ _ | .and _ _ _ _ _ | .or _ _ _ _ _ | .xor _ _ _ _ _
  | .shl _ _ _ _ _ | .shr _ _ _ _ _ | .sra _ _ _ _ _ | .rol _ _ _ _ _ | .popc _ _ _ | .clz _ _ _ | .brev _ _ _
  | .bfe _ _ _ _ _ | .bfi _ _ _ _ _ | .sel _ _ _ _ _ | .mov _ _ _ | .movs _ _ _ | .lid _ | .li _ _ | .addI _ _ _ _
  | .mulI _ _ _ _ | .andI _ _ _ _ | .orI _ _ _ _ | .xorI _ _ _ _ | .shlI _ _ _ _ | .shrI _ _ _ _ | .sraI _ _ _ _
  | .pk8 _ _ _ | .upk8 _ _ _ | .pk4 _ _ _ | .upk4 _ _ _ | .pk6 _ _ _ | .upk6 _ _ _ | .rcp _ _ _ | .rsq _ _ _
  | .sqrt _ _ _ | .exp2 _ _ _ | .exp _ _ _ | .log2 _ _ _ | .log _ _ _ | .sin2pi _ _ _ | .cos2pi _ _ _
  | .tanh _ _ _ | .erf _ _ _ | .permZ _ _ _ _ _ | .permS _ _ _ _ _ | .bcast _ _ _ _ _ | .reduAdd _ _ _ _ _
  | .reduMin _ _ _ _ _ | .reduMax _ _ _ _ _ | .scanAdd _ _ _ _ _ | .illegalWord _ | .ld _ _ _ _ | .st _ _ _ _
  | .ldS _ _ _ _ | .stS _ _ _ _ | .ldW _ _ _ _ | .stW _ _ _ _ | .ldAcq _ _ _ _ | .stRel _ _ _ _ | .ldC _ _ _ _
  | .ldK _ _ _ _ | .stF _ _ _ _ | .feSet _ _ | .feClr _ _ | .feRd _ _ | .cpA _ _ _ _ | .gth _ _ _
  | .barInit _ _ _ _ | .barExp _ _ _ _ | .barArr _ _ _ | .barWait _ _ _ _ | .barSync _ _ _ | .cinv _ _ _
  | .cinvAll | .atomAdd _ _ _ _ | .atomMin _ _ _ _ | .atomMax _ _ _ _ | .atomAnd _ _ _ _ | .atomOr _ _ _ _
  | .atomXor _ _ _ _ | .atomXchg _ _ _ _ | .atomCas _ _ _ _ | .redAdd _ _ _ _ | .redMin _ _ _ _ | .redMax _ _ _ _
  | .bankMx _ _ _ _ | .bankSup _ _ _ _ | .bankVadd _ _ _ _ | .chunk _ _ _ _ | .bankOperationPerform _ _ _
  | .recLd _ _ | .recSt _ _ | .recInv _ _ | .cbld _ | .tld _ _ _ | .tldf _ _ _ | .tst _ _ _ | .tstf _ _ _
  | .tmm _ _ _ | .tmms _ _ _ | .tadd _ _ _ | .tsub _ _ _ | .tz _ _ | .tcp _ _ | .tscl _ _ _ | .ttr _ _ | .trnd _
  | .tlr _ | .tden _ | .tlu _ _ | .ttrsmL _ _ _ | .ttrsmU _ _ | .tchol _ | .tmmM _ _ _ | .tv _ _ _ | .vt _ _ _
  | .tsal _ _ | .tsalNw _ _ | .tsfr _ _ | .tinfo _ _ | .tls _ | .tsalGrant _ _ | .tsalRefusal _ _
  | .tileRetirement _ _ _ | .madd _ _ _ _ _ | .msub _ _ _ _ _ | .mmul _ _ _ _ _ | .mfma _ _ _ _ _
  | .mscl _ _ _ _ _ | .mexp _ _ _ | .mrelu _ _ _ | .msig _ _ _ | .mset _ _ _ | .mcol _ _ _ | .mvar _ _ _
  | .mld _ _ _ _ | .mst _ _ _ _ | .launch _ _ | .qpush _ _ _ | .qpop _ _ | .qpopClaim _ _ | .qflush _ | .done _
  | .pmtGet _ _ _ | .pmtRet _ _ | .trap _ | .rte | .rqN _ | .rqRd _ _ | .rqWr _ _ | .rqDrop _ | .elog _ | .brk
  | .trapEntry _ | .wpSet _ _ _ | .wpClr _ | .wpClrAll | .wpSt _ _ | .wpStLog _ | .dbgStep _ _ | .dbgLs _ _
  | .trMark _ _ | .watchLoadValueEvaluation _ | .producerCompletion _ _ _ | .storePerform _ _ _
  | .copyLanding _ _ _ _ | .gatherEntryLanding _ _ _ | .splitPromotion _ _ | .groupMoveOut _ | .groupMoveIn _
  | .groupRetirement _ | .launchCompletion _ _ | .launchAcceptance _ _ | .gangAdmission _ _ _
  | .bandAdmission _ _ _ _ _ _ | .candidateReservation _ | .gangEviction _ | .gangWake _ | .triggerDecision _ _
  | .flushTimerExpiry _ _ | .migrateOnTouchService _ _ _ | .faultBufferRetry _ _ | .remoteAccess _
  | .remoteQpush _ _ | .remotePermit _ _ | .remotePermitReturn _ _ | .fabricDown _ | .timeAlignment _
  | .hostCxlMemAccess _ _ _ _ | .traceTs _ | .sample _ _ _ | .lqtail _ _ | .ctxctlReset _ _ | .cbimg _ _
  | .registerWrite _ _ | .fqhead _ _ | .frespResume _ _ _ | .frespRefuse _ _ _ | .invalPage _ _ | .invalAll _
  | .capture _ | .restore _ _ | .resume _ | .discard _ | .logon _ | .logoff _ | .dmHalt _ _ | .dmGo _ _
  | .dmStep _ | .dmRd _ _ | .dmWr _ _ | .dmWrF _ _ | .coreRetirement _ _ | .softErrorReexecution _ _ | .powerOn _
  | .perst | .moduleReset | .obsfrzN | .freeze | .freezeReadout | .undervoltagePowerOff | .thermalTrip
  | .thermalThrottle _ | .powerCapThrottle | .powerCapSet _ | .sensorRead _ | .firmwareUpdate _ _
  | .firmwareActivation | .deviceNumberSet _ | .spdmRequest _ | .keyInstall _ _ _ _ | .hbmRowRemap _ _ _
  | .channelRetrain _ _ _ | .fabricLaneRetrain _ _ _ | .contextDestruction _ | .bankRegionReservation _ _ _ => true

/-- An instruction whose operand values are all accepted. -/
abbrev Instr.WellFormed (i : Instr) : Prop := i.wf = true

end Sys2Proof
end

