-- ==== Sys2Proof/Decode.lean ====
section
/-!
DEFINITION. Sys2Proof/Decode.lean: from the bits of an instruction word to the instruction, and back.
The fields are those of the formats of 04 R56 to R58, at the opcodes and function fields of 04 R59 and R60.
A word with an unassigned opcode or function, a set bit in a reserved field, or an operand value that its
instruction does not accept is no instruction (04 R61).
-/

namespace Sys2Proof

/-- The n bits of a word from bit lo upward (00 R7). -/
def field {m : Nat} (w : BitVec m) (lo n : Nat) : BitVec n := w.extractLsb' lo n

/-- Two fields side by side, the first above the second, as a word of k bits (00 R7). -/
def cat {m n : Nat} (k : Nat) (a : BitVec m) (b : BitVec n) : BitVec k := (a ++ b).setWidth k

/-- Opcode 0x10 by its function field [4:0] (04 R59, R60). -/
def decodeOp10 (w : W32) : Option Instr :=
  match (field w 0 5).toNat with
  | 0 => some (.sadd (field w 19 6) (field w 13 6) (field w 7 6) (field w 6 1) (field w 5 1))
  | 1 => some (.ssub (field w 19 6) (field w 13 6) (field w 7 6) (field w 6 1) (field w 5 1))
  | 2 => some (.smul (field w 19 6) (field w 13 6) (field w 7 6) (field w 6 1) (field w 5 1))
  | 3 => some (.smulh (field w 19 6) (field w 13 6) (field w 7 6) (field w 6 1) (field w 5 1))
  | 4 => some (.sand (field w 19 6) (field w 13 6) (field w 7 6) (field w 6 1) (field w 5 1))
  | 5 => some (.sor (field w 19 6) (field w 13 6) (field w 7 6) (field w 6 1) (field w 5 1))
  | 6 => some (.sxor (field w 19 6) (field w 13 6) (field w 7 6) (field w 6 1) (field w 5 1))
  | 7 => some (.sshl (field w 19 6) (field w 13 6) (field w 7 6) (field w 6 1) (field w 5 1))
  | 8 => some (.sshr (field w 19 6) (field w 13 6) (field w 7 6) (field w 6 1) (field w 5 1))
  | 9 => some (.ssra (field w 19 6) (field w 13 6) (field w 7 6) (field w 6 1) (field w 5 1))
  | 10 => some (.smin (field w 19 6) (field w 13 6) (field w 7 6) (field w 6 1) (field w 5 1))
  | 11 => some (.smax (field w 19 6) (field w 13 6) (field w 7 6) (field w 6 1) (field w 5 1))
  | 12 => some (.sslt (field w 19 6) (field w 13 6) (field w 7 6) (field w 6 1) (field w 5 1))
  | 13 => some (.sseq (field w 19 6) (field w 13 6) (field w 7 6) (field w 6 1) (field w 5 1))
  | 14 => if field w 7 6 = 0#6 ∧ field w 5 1 = 0#1 then some (.spop (field w 19 6) (field w 13 6) (field w 6 1)) else none
  | 15 => if field w 7 6 = 0#6 ∧ field w 5 1 = 0#1 then some (.sclz (field w 19 6) (field w 13 6) (field w 6 1)) else none
  | 16 => if field w 7 6 = 0#6 ∧ field w 5 1 = 0#1 then some (.sffs (field w 19 6) (field w 13 6) (field w 6 1)) else none
  | _ => none

/-- Opcode 0x14 by its function field [17:17] (04 R59, R60). -/
def decodeOp14 (w : W32) : Option Instr :=
  match (field w 17 1).toNat with
  | 0 => if field w 24 1 = 0#1 ∧ field w 5 12 = 0#12 then some (.rdsr (field w 18 6) (field w 0 5)) else none
  | _ => if field w 0 17 = 0#17 then some (.rdsrLane (field w 18 7)) else none

/-- Opcode 0x1c by its function field [1:0] (04 R59, R60). -/
def decodeOp1C (w : W32) : Option Instr :=
  match (field w 0 2).toNat with
  | 0 => if field w 24 1 = 0#1 then some (.vcmpEq (field w 18 6) (field w 11 7) (field w 4 7) (field w 3 1) (field w 2 1)) else none
  | 1 => if field w 24 1 = 0#1 then some (.vcmpNe (field w 18 6) (field w 11 7) (field w 4 7) (field w 3 1) (field w 2 1)) else none
  | 2 => if field w 24 1 = 0#1 then some (.vcmpLt (field w 18 6) (field w 11 7) (field w 4 7) (field w 3 1) (field w 2 1)) else none
  | _ => if field w 24 1 = 0#1 then some (.vcmpLe (field w 18 6) (field w 11 7) (field w 4 7) (field w 3 1) (field w 2 1)) else none

/-- Opcode 0x1d by its function field [1:0] (04 R59, R60). -/
def decodeOp1D (w : W32) : Option Instr :=
  match (field w 0 2).toNat with
  | 0 => if field w 24 1 = 0#1 then some (.vcmpUn (field w 18 6) (field w 11 7) (field w 4 7) (field w 3 1) (field w 2 1)) else none
  | _ => none

/-- Opcode 0x1e by its function field [1:0] (04 R59, R60). -/
def decodeOp1E (w : W32) : Option Instr :=
  match (field w 0 2).toNat with
  | 0 => if field w 24 1 = 0#1 ∧ field w 17 1 = 0#1 ∧ field w 10 1 = 0#1 then some (.mand (field w 18 6) (field w 11 6) (field w 4 6) (field w 3 1) (field w 2 1)) else none
  | 1 => if field w 24 1 = 0#1 ∧ field w 17 1 = 0#1 ∧ field w 10 1 = 0#1 then some (.mor (field w 18 6) (field w 11 6) (field w 4 6) (field w 3 1) (field w 2 1)) else none
  | 2 => if field w 24 1 = 0#1 ∧ field w 17 1 = 0#1 ∧ field w 10 1 = 0#1 then some (.mxor (field w 18 6) (field w 11 6) (field w 4 6) (field w 3 1) (field w 2 1)) else none
  | _ => if field w 24 1 = 0#1 ∧ field w 17 1 = 0#1 ∧ field w 4 7 = 0#7 ∧ field w 2 1 = 0#1 then some (.mnot (field w 18 6) (field w 11 6) (field w 3 1)) else none

/-- Opcode 0x1f by its function field [1:0] (04 R59, R60). -/
def decodeOp1F (w : W32) : Option Instr :=
  match (field w 0 2).toNat with
  | 0 => if field w 24 1 = 0#1 ∧ field w 2 16 = 0#16 then some (.mlive (field w 18 6)) else none
  | 1 => if field w 17 1 = 0#1 ∧ field w 4 7 = 0#7 ∧ field w 2 1 = 0#1 then some (.mexpand (field w 18 7) (field w 11 6) (field w 3 1)) else none
  | _ => none

/-- Opcode 0x28 by its function field [1:0] (04 R59, R60). -/
def decodeOp28 (w : W32) : Option Instr :=
  match (field w 0 2).toNat with
  | 0 => some (.add (field w 18 7) (field w 11 7) (field w 4 7) (field w 3 1) (field w 2 1))
  | 1 => some (.sub (field w 18 7) (field w 11 7) (field w 4 7) (field w 3 1) (field w 2 1))
  | 2 => some (.min (field w 18 7) (field w 11 7) (field w 4 7) (field w 3 1) (field w 2 1))
  | _ => some (.max (field w 18 7) (field w 11 7) (field w 4 7) (field w 3 1) (field w 2 1))

/-- Opcode 0x29 by its function field [1:0] (04 R59, R60). -/
def decodeOp29 (w : W32) : Option Instr :=
  match (field w 0 2).toNat with
  | 0 => some (.mul (field w 18 7) (field w 11 7) (field w 4 7) (field w 3 1) (field w 2 1))
  | 1 => some (.mulh (field w 18 7) (field w 11 7) (field w 4 7) (field w 3 1) (field w 2 1))
  | 2 => some (.div (field w 18 7) (field w 11 7) (field w 4 7) (field w 3 1) (field w 2 1))
  | _ => some (.rem (field w 18 7) (field w 11 7) (field w 4 7) (field w 3 1) (field w 2 1))

/-- Opcode 0x2a by its function field [1:0] (04 R59, R60). -/
def decodeOp2A (w : W32) : Option Instr :=
  match (field w 0 2).toNat with
  | 0 => some (.fma (field w 18 7) (field w 11 7) (field w 4 7) (field w 3 1) (field w 2 1))
  | 1 => some (.fms (field w 18 7) (field w 11 7) (field w 4 7) (field w 3 1) (field w 2 1))
  | 2 => some (.fnma (field w 18 7) (field w 11 7) (field w 4 7) (field w 3 1) (field w 2 1))
  | _ => none

/-- Opcode 0x2b by its function field [1:0] (04 R59, R60). -/
def decodeOp2B (w : W32) : Option Instr :=
  match (field w 0 2).toNat with
  | 0 => if field w 4 7 = 0#7 ∧ field w 2 1 = 0#1 then some (.abs (field w 18 7) (field w 11 7) (field w 3 1)) else none
  | 1 => if field w 4 7 = 0#7 ∧ field w 2 1 = 0#1 then some (.neg (field w 18 7) (field w 11 7) (field w 3 1)) else none
  | 2 => if field w 4 7 = 0#7 ∧ field w 2 1 = 0#1 then some (.rnd (field w 18 7) (field w 11 7) (field w 3 1)) else none
  | _ => if field w 4 7 = 0#7 ∧ field w 2 1 = 0#1 then some (.not (field w 18 7) (field w 11 7) (field w 3 1)) else none

/-- Opcode 0x2c by its function field [1:0] (04 R59, R60). -/
def decodeOp2C (w : W32) : Option Instr :=
  match (field w 0 2).toNat with
  | 0 => some (.and (field w 18 7) (field w 11 7) (field w 4 7) (field w 3 1) (field w 2 1))
  | 1 => some (.or (field w 18 7) (field w 11 7) (field w 4 7) (field w 3 1) (field w 2 1))
  | 2 => some (.xor (field w 18 7) (field w 11 7) (field w 4 7) (field w 3 1) (field w 2 1))
  | _ => none

/-- Opcode 0x2d by its function field [1:0] (04 R59, R60). -/
def decodeOp2D (w : W32) : Option Instr :=
  match (field w 0 2).toNat with
  | 0 => some (.shl (field w 18 7) (field w 11 7) (field w 4 7) (field w 3 1) (field w 2 1))
  | 1 => some (.shr (field w 18 7) (field w 11 7) (field w 4 7) (field w 3 1) (field w 2 1))
  | 2 => some (.sra (field w 18 7) (field w 11 7) (field w 4 7) (field w 3 1) (field w 2 1))
  | _ => some (.rol (field w 18 7) (field w 11 7) (field w 4 7) (field w 3 1) (field w 2 1))

/-- Opcode 0x2e by its function field [1:0] (04 R59, R60). -/
def decodeOp2E (w : W32) : Option Instr :=
  match (field w 0 2).toNat with
  | 0 => if field w 4 7 = 0#7 ∧ field w 2 1 = 0#1 then some (.popc (field w 18 7) (field w 11 7) (field w 3 1)) else none
  | 1 => if field w 4 7 = 0#7 ∧ field w 2 1 = 0#1 then some (.clz (field w 18 7) (field w 11 7) (field w 3 1)) else none
  | 2 => if field w 4 7 = 0#7 ∧ field w 2 1 = 0#1 then some (.brev (field w 18 7) (field w 11 7) (field w 3 1)) else none
  | _ => none

/-- Opcode 0x2f by its function field [1:0] (04 R59, R60). -/
def decodeOp2F (w : W32) : Option Instr :=
  match (field w 0 2).toNat with
  | 0 => some (.bfe (field w 18 7) (field w 11 7) (field w 4 7) (field w 3 1) (field w 2 1))
  | 1 => some (.bfi (field w 18 7) (field w 11 7) (field w 4 7) (field w 3 1) (field w 2 1))
  | _ => none

/-- Opcode 0x30 by its function field [1:0] (04 R59, R60). -/
def decodeOp30 (w : W32) : Option Instr :=
  match (field w 0 2).toNat with
  | 0 => if field w 10 1 = 0#1 then some (.sel (field w 18 7) (field w 11 7) (field w 4 6) (field w 3 1) (field w 2 1)) else none
  | _ => none

/-- Opcode 0x31 by its function field [1:0] (04 R59, R60). -/
def decodeOp31 (w : W32) : Option Instr :=
  match (field w 0 2).toNat with
  | 0 => if field w 4 7 = 0#7 ∧ field w 2 1 = 0#1 then some (.mov (field w 18 7) (field w 11 7) (field w 3 1)) else none
  | 1 => if field w 17 1 = 0#1 ∧ field w 4 7 = 0#7 ∧ field w 2 1 = 0#1 then some (.movs (field w 18 7) (field w 11 6) (field w 3 1)) else none
  | 2 => if field w 2 16 = 0#16 then some (.lid (field w 18 7)) else none
  | _ => none

/-- Opcode 0x45 by its function field [1:0] (04 R59, R60). -/
def decodeOp45 (w : W32) : Option Instr :=
  match (field w 0 2).toNat with
  | 0 => if field w 4 7 = 0#7 ∧ field w 2 1 = 0#1 then some (.pk8 (field w 18 7) (field w 11 7) (field w 3 1)) else none
  | 1 => if field w 4 7 = 0#7 ∧ field w 2 1 = 0#1 then some (.upk8 (field w 18 7) (field w 11 7) (field w 3 1)) else none
  | 2 => if field w 4 7 = 0#7 ∧ field w 2 1 = 0#1 then some (.pk4 (field w 18 7) (field w 11 7) (field w 3 1)) else none
  | _ => if field w 4 7 = 0#7 ∧ field w 2 1 = 0#1 then some (.upk4 (field w 18 7) (field w 11 7) (field w 3 1)) else none

/-- Opcode 0x46 by its function field [1:0] (04 R59, R60). -/
def decodeOp46 (w : W32) : Option Instr :=
  match (field w 0 2).toNat with
  | 0 => if field w 4 7 = 0#7 ∧ field w 2 1 = 0#1 then some (.pk6 (field w 18 7) (field w 11 7) (field w 3 1)) else none
  | 1 => if field w 4 7 = 0#7 ∧ field w 2 1 = 0#1 then some (.upk6 (field w 18 7) (field w 11 7) (field w 3 1)) else none
  | _ => none

/-- Opcode 0x48 by its function field [1:0] (04 R59, R60). -/
def decodeOp48 (w : W32) : Option Instr :=
  match (field w 0 2).toNat with
  | 0 => if field w 4 7 = 0#7 ∧ field w 2 1 = 0#1 then some (.rcp (field w 18 7) (field w 11 7) (field w 3 1)) else none
  | 1 => if field w 4 7 = 0#7 ∧ field w 2 1 = 0#1 then some (.rsq (field w 18 7) (field w 11 7) (field w 3 1)) else none
  | 2 => if field w 4 7 = 0#7 ∧ field w 2 1 = 0#1 then some (.sqrt (field w 18 7) (field w 11 7) (field w 3 1)) else none
  | _ => none

/-- Opcode 0x49 by its function field [1:0] (04 R59, R60). -/
def decodeOp49 (w : W32) : Option Instr :=
  match (field w 0 2).toNat with
  | 0 => if field w 4 7 = 0#7 ∧ field w 2 1 = 0#1 then some (.exp2 (field w 18 7) (field w 11 7) (field w 3 1)) else none
  | 1 => if field w 4 7 = 0#7 ∧ field w 2 1 = 0#1 then some (.exp (field w 18 7) (field w 11 7) (field w 3 1)) else none
  | 2 => if field w 4 7 = 0#7 ∧ field w 2 1 = 0#1 then some (.log2 (field w 18 7) (field w 11 7) (field w 3 1)) else none
  | _ => if field w 4 7 = 0#7 ∧ field w 2 1 = 0#1 then some (.log (field w 18 7) (field w 11 7) (field w 3 1)) else none

/-- Opcode 0x4a by its function field [1:0] (04 R59, R60). -/
def decodeOp4A (w : W32) : Option Instr :=
  match (field w 0 2).toNat with
  | 0 => if field w 4 7 = 0#7 ∧ field w 2 1 = 0#1 then some (.sin2pi (field w 18 7) (field w 11 7) (field w 3 1)) else none
  | 1 => if field w 4 7 = 0#7 ∧ field w 2 1 = 0#1 then some (.cos2pi (field w 18 7) (field w 11 7) (field w 3 1)) else none
  | 2 => if field w 4 7 = 0#7 ∧ field w 2 1 = 0#1 then some (.tanh (field w 18 7) (field w 11 7) (field w 3 1)) else none
  | _ => if field w 4 7 = 0#7 ∧ field w 2 1 = 0#1 then some (.erf (field w 18 7) (field w 11 7) (field w 3 1)) else none

/-- Opcode 0x4c by its function field [1:0] (04 R59, R60). -/
def decodeOp4C (w : W32) : Option Instr :=
  match (field w 0 2).toNat with
  | 0 => if field w 10 1 = 0#1 then some (.permZ (field w 18 7) (field w 11 7) (field w 4 6) (field w 3 1) (field w 2 1)) else none
  | 1 => if field w 10 1 = 0#1 then some (.permS (field w 18 7) (field w 11 7) (field w 4 6) (field w 3 1) (field w 2 1)) else none
  | 2 => if field w 10 1 = 0#1 then some (.bcast (field w 18 7) (field w 11 7) (field w 4 6) (field w 3 1) (field w 2 1)) else none
  | _ => none

/-- Opcode 0x4d by its function field [1:0] (04 R59, R60). -/
def decodeOp4D (w : W32) : Option Instr :=
  match (field w 0 2).toNat with
  | 0 => if field w 24 1 = 0#1 ∧ field w 10 1 = 0#1 then some (.reduAdd (field w 18 6) (field w 11 7) (field w 4 6) (field w 3 1) (field w 2 1)) else none
  | 1 => if field w 24 1 = 0#1 ∧ field w 10 1 = 0#1 then some (.reduMin (field w 18 6) (field w 11 7) (field w 4 6) (field w 3 1) (field w 2 1)) else none
  | 2 => if field w 24 1 = 0#1 ∧ field w 10 1 = 0#1 then some (.reduMax (field w 18 6) (field w 11 7) (field w 4 6) (field w 3 1) (field w 2 1)) else none
  | _ => if field w 10 1 = 0#1 then some (.scanAdd (field w 18 7) (field w 11 7) (field w 4 6) (field w 3 1) (field w 2 1)) else none

/-- Opcode 0x5b by its function field [1:0] (04 R59, R60). -/
def decodeOp5B (w : W32) : Option Instr :=
  match (field w 0 2).toNat with
  | 0 => if field w 19 6 = 0#6 then some (.feSet (field w 13 6) (field w 2 11)) else none
  | 1 => if field w 19 6 = 0#6 then some (.feClr (field w 13 6) (field w 2 11)) else none
  | 2 => if field w 2 11 = 0#11 then some (.feRd (field w 19 6) (field w 13 6)) else none
  | _ => none

/-- Opcode 0x5f by its function field [12:12] (04 R59, R60). -/
def decodeOp5F (w : W32) : Option Instr :=
  match (field w 12 1).toNat with
  | 0 => if field w 13 12 = 0#12 then some (.waitc (field w 10 2) (field w 8 2) (field w 0 8)) else none
  | _ => if field w 13 6 = 0#6 ∧ field w 0 8 = 0#8 then some (.cnt (field w 19 6) (field w 10 2) (field w 8 2)) else none

/-- Opcode 0x60 by its function field [4:0] (04 R59, R60). -/
def decodeOp60 (w : W32) : Option Instr :=
  match (field w 0 5).toNat with
  | 0 => if field w 19 6 = 0#6 then some (.barInit (field w 13 6) (field w 7 6) (field w 6 1) (field w 5 1)) else none
  | 1 => if field w 19 6 = 0#6 then some (.barExp (field w 13 6) (field w 7 6) (field w 6 1) (field w 5 1)) else none
  | 2 => if field w 7 6 = 0#6 ∧ field w 5 1 = 0#1 then some (.barArr (field w 19 6) (field w 13 6) (field w 6 1)) else none
  | 3 => if field w 19 6 = 0#6 then some (.barWait (field w 13 6) (field w 7 6) (field w 6 1) (field w 5 1)) else none
  | _ => none

/-- Opcode 0x63 by its function field [12:12] (04 R59, R60). -/
def decodeOp63 (w : W32) : Option Instr :=
  match (field w 12 1).toNat with
  | 0 => some (.pf (field w 19 6) (field w 13 6) (field w 10 2) (field w 0 10))
  | _ => if field w 11 1 = 0#1 then (if field w 10 1 = 0#1 then some (.cinv (field w 19 6) (field w 13 6) (field w 0 10)) else none) else (if field w 13 12 = 0#12 ∧ field w 0 11 = 0#11 then some .cinvAll else none)

/-- Opcode 0x64 by its function field [17:16] (04 R59, R60). -/
def decodeOp64 (w : W32) : Option Instr :=
  match (field w 16 2).toNat with
  | 0 => some (.atomAdd (field w 18 7) (field w 8 8) (field w 1 7) (field w 0 1))
  | 1 => some (.atomMin (field w 18 7) (field w 8 8) (field w 1 7) (field w 0 1))
  | 2 => some (.atomMax (field w 18 7) (field w 8 8) (field w 1 7) (field w 0 1))
  | _ => some (.atomAnd (field w 18 7) (field w 8 8) (field w 1 7) (field w 0 1))

/-- Opcode 0x65 by its function field [17:16] (04 R59, R60). -/
def decodeOp65 (w : W32) : Option Instr :=
  match (field w 16 2).toNat with
  | 0 => some (.atomOr (field w 18 7) (field w 8 8) (field w 1 7) (field w 0 1))
  | 1 => some (.atomXor (field w 18 7) (field w 8 8) (field w 1 7) (field w 0 1))
  | 2 => some (.atomXchg (field w 18 7) (field w 8 8) (field w 1 7) (field w 0 1))
  | _ => some (.atomCas (field w 18 7) (field w 8 8) (field w 1 7) (field w 0 1))

/-- Opcode 0x66 by its function field [17:16] (04 R59, R60). -/
def decodeOp66 (w : W32) : Option Instr :=
  match (field w 16 2).toNat with
  | 0 => some (.redAdd (field w 18 7) (field w 8 8) (field w 1 7) (field w 0 1))
  | 1 => some (.redMin (field w 18 7) (field w 8 8) (field w 1 7) (field w 0 1))
  | 2 => some (.redMax (field w 18 7) (field w 8 8) (field w 1 7) (field w 0 1))
  | _ => none

/-- Opcode 0x67 by its function field [17:16] (04 R59, R60). -/
def decodeOp67 (w : W32) : Option Instr :=
  match (field w 16 2).toNat with
  | 0 => some (.bankMx (field w 18 7) (field w 8 8) (field w 1 7) (field w 0 1))
  | 1 => some (.bankSup (field w 18 7) (field w 8 8) (field w 1 7) (field w 0 1))
  | 2 => some (.bankVadd (field w 18 7) (field w 8 8) (field w 1 7) (field w 0 1))
  | _ => if field w 24 1 = 0#1 ∧ field w 7 1 = 0#1 then some (.chunk (field w 18 6) (field w 8 8) (field w 1 6) (field w 0 1)) else none

/-- Opcode 0x6a by its function field [12:10] (04 R59, R60). -/
def decodeOp6A (w : W32) : Option Instr :=
  match (field w 10 3).toNat with
  | 0 => if field w 19 6 = 0#6 then some (.recLd (field w 13 6) (field w 0 10)) else none
  | 1 => if field w 19 6 = 0#6 then some (.recSt (field w 13 6) (field w 0 10)) else none
  | 2 => if field w 19 6 = 0#6 then some (.recInv (field w 13 6) (field w 0 10)) else none
  | _ => none

/-- Opcode 0x6b by its function field [12:11] (04 R59, R60). -/
def decodeOp6B (w : W32) : Option Instr :=
  match (field w 11 2).toNat with
  | 0 => if field w 0 5 = 0#5 then some (.recSet (field w 19 6) (field w 13 6) (field w 5 6)) else none
  | 1 => if field w 0 5 = 0#5 then some (.recGet (field w 19 6) (field w 13 6) (field w 5 6)) else none
  | 2 => if field w 19 6 = 0#6 ∧ field w 0 11 = 0#11 then some (.cbld (field w 13 6)) else none
  | _ => none

/-- Opcode 0x6c by its function field [0:0] (04 R59, R60). -/
def decodeOp6C (w : W32) : Option Instr :=
  match (field w 0 1).toNat with
  | 0 => if field w 7 2 = 0#2 then some (.tld (field w 17 8) (field w 9 8) (field w 1 6)) else none
  | _ => if field w 7 2 = 0#2 then some (.tldf (field w 17 8) (field w 9 8) (field w 1 6)) else none

/-- Opcode 0x6d by its function field [0:0] (04 R59, R60). -/
def decodeOp6D (w : W32) : Option Instr :=
  match (field w 0 1).toNat with
  | 0 => if field w 7 2 = 0#2 then some (.tst (field w 17 8) (field w 9 8) (field w 1 6)) else none
  | _ => if field w 7 2 = 0#2 then some (.tstf (field w 17 8) (field w 9 8) (field w 1 6)) else none

/-- Opcode 0x6e by its function field [0:0] (04 R59, R60). -/
def decodeOp6E (w : W32) : Option Instr :=
  match (field w 0 1).toNat with
  | 0 => some (.tmm (field w 17 8) (field w 9 8) (field w 1 8))
  | _ => some (.tmms (field w 17 8) (field w 9 8) (field w 1 8))

/-- Opcode 0x6f by its function field [0:0] (04 R59, R60). -/
def decodeOp6F (w : W32) : Option Instr :=
  match (field w 0 1).toNat with
  | 0 => some (.tadd (field w 17 8) (field w 9 8) (field w 1 8))
  | _ => some (.tsub (field w 17 8) (field w 9 8) (field w 1 8))

/-- Opcode 0x70 by its function field [0:0] (04 R59, R60). -/
def decodeOp70 (w : W32) : Option Instr :=
  match (field w 0 1).toNat with
  | 0 => if field w 7 10 = 0#10 then some (.tz (field w 17 8) (field w 1 6)) else none
  | _ => if field w 1 8 = 0#8 then some (.tcp (field w 17 8) (field w 9 8)) else none

/-- Opcode 0x71 by its function field [0:0] (04 R59, R60). -/
def decodeOp71 (w : W32) : Option Instr :=
  match (field w 0 1).toNat with
  | 0 => if field w 7 2 = 0#2 then some (.tscl (field w 17 8) (field w 9 8) (field w 1 6)) else none
  | _ => if field w 1 8 = 0#8 then some (.ttr (field w 17 8) (field w 9 8)) else none

/-- Opcode 0x72 by its function field [0:0] (04 R59, R60). -/
def decodeOp72 (w : W32) : Option Instr :=
  match (field w 0 1).toNat with
  | 0 => if field w 1 16 = 0#16 then some (.trnd (field w 17 8)) else none
  | _ => if field w 1 16 = 0#16 then some (.tlr (field w 17 8)) else none

/-- Opcode 0x73 by its function field [0:0] (04 R59, R60). -/
def decodeOp73 (w : W32) : Option Instr :=
  match (field w 0 1).toNat with
  | 0 => if field w 1 16 = 0#16 then some (.tden (field w 17 8)) else none
  | _ => if field w 1 8 = 0#8 then some (.tlu (field w 17 8) (field w 9 8)) else none

/-- Opcode 0x74 by its function field [0:0] (04 R59, R60). -/
def decodeOp74 (w : W32) : Option Instr :=
  match (field w 0 1).toNat with
  | 0 => some (.ttrsmL (field w 17 8) (field w 9 8) (field w 1 8))
  | _ => if field w 1 8 = 0#8 then some (.ttrsmU (field w 17 8) (field w 9 8)) else none

/-- Opcode 0x75 by its function field [0:0] (04 R59, R60). -/
def decodeOp75 (w : W32) : Option Instr :=
  match (field w 0 1).toNat with
  | 0 => if field w 1 16 = 0#16 then some (.tchol (field w 17 8)) else none
  | _ => some (.tmmM (field w 17 8) (field w 9 8) (field w 1 8))

/-- Opcode 0x76 by its function field [12:10] (04 R59, R60). -/
def decodeOp76 (w : W32) : Option Instr :=
  match (field w 10 3).toNat with
  | 0 => if field w 0 10 = 0#10 then some (.tsal (field w 19 6) (field w 13 6)) else none
  | 1 => if field w 0 10 = 0#10 then some (.tsalNw (field w 19 6) (field w 13 6)) else none
  | 2 => if field w 0 10 = 0#10 then some (.tsfr (field w 19 6) (field w 13 6)) else none
  | 3 => if field w 13 6 = 0#6 ∧ field w 8 2 = 0#2 then some (.tinfo (field w 19 6) (field w 0 8)) else none
  | 4 => if field w 13 12 = 0#12 ∧ field w 8 2 = 0#2 then some (.tls (field w 0 8)) else none
  | _ => none

/-- Opcode 0x77 by its function field [0:0] (04 R59, R60). -/
def decodeOp77 (w : W32) : Option Instr :=
  match (field w 0 1).toNat with
  | 0 => if field w 24 1 = 0#1 ∧ field w 7 2 = 0#2 then some (.tv (field w 17 7) (field w 9 8) (field w 1 6)) else none
  | _ => if field w 16 1 = 0#1 ∧ field w 7 2 = 0#2 then some (.vt (field w 17 8) (field w 9 7) (field w 1 6)) else none

/-- Opcode 0x78 by its function field [1:0] (04 R59, R60). -/
def decodeOp78 (w : W32) : Option Instr :=
  match (field w 0 2).toNat with
  | 0 => if field w 23 2 = 0#2 ∧ field w 16 2 = 0#2 ∧ field w 9 2 = 0#2 then some (.madd (field w 18 5) (field w 11 5) (field w 4 5) (field w 3 1) (field w 2 1)) else none
  | 1 => if field w 23 2 = 0#2 ∧ field w 16 2 = 0#2 ∧ field w 9 2 = 0#2 then some (.msub (field w 18 5) (field w 11 5) (field w 4 5) (field w 3 1) (field w 2 1)) else none
  | 2 => if field w 23 2 = 0#2 ∧ field w 16 2 = 0#2 ∧ field w 9 2 = 0#2 then some (.mmul (field w 18 5) (field w 11 5) (field w 4 5) (field w 3 1) (field w 2 1)) else none
  | _ => if field w 23 2 = 0#2 ∧ field w 16 2 = 0#2 ∧ field w 9 2 = 0#2 then some (.mfma (field w 18 5) (field w 11 5) (field w 4 5) (field w 3 1) (field w 2 1)) else none

/-- Opcode 0x79 by its function field [1:0] (04 R59, R60). -/
def decodeOp79 (w : W32) : Option Instr :=
  match (field w 0 2).toNat with
  | 0 => if field w 23 2 = 0#2 ∧ field w 16 2 = 0#2 ∧ field w 10 1 = 0#1 then some (.mscl (field w 18 5) (field w 11 5) (field w 4 6) (field w 3 1) (field w 2 1)) else none
  | 1 => if field w 23 2 = 0#2 ∧ field w 16 2 = 0#2 ∧ field w 4 7 = 0#7 ∧ field w 2 1 = 0#1 then some (.mexp (field w 18 5) (field w 11 5) (field w 3 1)) else none
  | 2 => if field w 23 2 = 0#2 ∧ field w 16 2 = 0#2 ∧ field w 4 7 = 0#7 ∧ field w 2 1 = 0#1 then some (.mrelu (field w 18 5) (field w 11 5) (field w 3 1)) else none
  | _ => if field w 23 2 = 0#2 ∧ field w 16 2 = 0#2 ∧ field w 4 7 = 0#7 ∧ field w 2 1 = 0#1 then some (.msig (field w 18 5) (field w 11 5) (field w 3 1)) else none

/-- Opcode 0x7a by its function field [1:0] (04 R59, R60). -/
def decodeOp7A (w : W32) : Option Instr :=
  match (field w 0 2).toNat with
  | 0 => if field w 23 2 = 0#2 ∧ field w 4 7 = 0#7 ∧ field w 2 1 = 0#1 then some (.mset (field w 18 5) (field w 11 7) (field w 3 1)) else none
  | 1 => if field w 16 2 = 0#2 ∧ field w 4 7 = 0#7 ∧ field w 2 1 = 0#1 then some (.mcol (field w 18 7) (field w 11 5) (field w 3 1)) else none
  | 2 => if field w 16 2 = 0#2 ∧ field w 4 7 = 0#7 ∧ field w 2 1 = 0#1 then some (.mvar (field w 18 7) (field w 11 5) (field w 3 1)) else none
  | _ => none

/-- Opcode 0x7b by its function field [17:16] (04 R59, R60). -/
def decodeOp7B (w : W32) : Option Instr :=
  match (field w 16 2).toNat with
  | 0 => if field w 23 2 = 0#2 then some (.mld (field w 18 5) (field w 8 8) (field w 1 7) (field w 0 1)) else none
  | 1 => if field w 23 2 = 0#2 then some (.mst (field w 18 5) (field w 8 8) (field w 1 7) (field w 0 1)) else none
  | _ => none

/-- Opcode 0x7c by its function field [12:10] (04 R59, R60). -/
def decodeOp7C (w : W32) : Option Instr :=
  match (field w 10 3).toNat with
  | 0 => if field w 0 10 = 0#10 then some (.launch (field w 19 6) (field w 13 6)) else none
  | 1 => some (.qpush (field w 19 6) (field w 13 6) (field w 0 10))
  | 2 => if field w 13 6 = 0#6 then some (.qpop (field w 19 6) (field w 0 10)) else none
  | 3 => if field w 13 12 = 0#12 then some (.qflush (field w 0 10)) else none
  | 4 => if field w 13 12 = 0#12 then some (.done (field w 0 10)) else none
  | 5 => some (.pmtGet (field w 19 6) (field w 13 6) (field w 0 10))
  | 6 => if field w 19 6 = 0#6 then some (.pmtRet (field w 13 6) (field w 0 10)) else none
  | _ => none

/-- Opcode 0x7d by its function field [12:10] (04 R59, R60). -/
def decodeOp7D (w : W32) : Option Instr :=
  match (field w 10 3).toNat with
  | 0 => if field w 13 12 = 0#12 ∧ field w 5 5 = 0#5 then some (.trap (field w 0 5)) else none
  | 1 => if field w 13 12 = 0#12 ∧ field w 0 10 = 0#10 then some .rte else none
  | 2 => if field w 13 6 = 0#6 ∧ field w 0 10 = 0#10 then some (.rqN (field w 19 6)) else none
  | 3 => if field w 0 10 = 0#10 then some (.rqRd (field w 19 6) (field w 13 6)) else none
  | 4 => if field w 0 10 = 0#10 then some (.rqWr (field w 19 6) (field w 13 6)) else none
  | 5 => if field w 19 6 = 0#6 ∧ field w 0 10 = 0#10 then some (.rqDrop (field w 13 6)) else none
  | 6 => if field w 13 6 = 0#6 ∧ field w 0 10 = 0#10 then some (.elog (field w 19 6)) else none
  | _ => if field w 13 12 = 0#12 ∧ field w 0 10 = 0#10 then some .brk else none

/-- Opcode 0x7e by its function field [12:9] (04 R59, R60). -/
def decodeOp7E (w : W32) : Option Instr :=
  match (field w 9 4).toNat with
  | 0 => if field w 4 5 = 0#5 then some (.wpSet (field w 19 6) (field w 13 6) (field w 0 4)) else none
  | 1 => if field w 4 1 = 0#1 then (if field w 13 12 = 0#12 ∧ field w 5 4 = 0#4 then some (.wpClr (field w 0 4)) else none) else (if field w 13 12 = 0#12 ∧ field w 5 4 = 0#4 ∧ field w 0 4 = 0#4 then some .wpClrAll else none)
  | 2 => if field w 4 1 = 0#1 then (if field w 13 6 = 0#6 ∧ field w 5 4 = 0#4 then some (.wpSt (field w 19 6) (field w 0 4)) else none) else (if field w 13 6 = 0#6 ∧ field w 5 4 = 0#4 ∧ field w 0 4 = 0#4 then some (.wpStLog (field w 19 6)) else none)
  | 3 => if field w 2 7 = 0#7 then some (.dbgHalt (field w 19 6) (field w 13 6) (field w 0 2)) else none
  | 4 => if field w 2 7 = 0#7 then some (.dbgGo (field w 19 6) (field w 13 6) (field w 0 2)) else none
  | 5 => if field w 0 9 = 0#9 then some (.dbgStep (field w 19 6) (field w 13 6)) else none
  | 6 => some (.dbgRd (field w 19 6) (field w 13 6) (field w 0 9))
  | 7 => some (.dbgWr (field w 19 6) (field w 13 6) (field w 0 9))
  | 8 => some (.dbgWrF (field w 19 6) (field w 13 6) (field w 0 9))
  | 9 => if field w 0 9 = 0#9 then some (.dbgLs (field w 19 6) (field w 13 6)) else none
  | 10 => if field w 19 6 = 0#6 then some (.trMark (field w 13 6) (field w 0 9)) else none
  | _ => none

/-- The fields of a word by its opcode [31:25] (04 R60), reserved fields checked (04 R58). -/
def decodeFields (w : W32) : Option Instr :=
  match (field w 25 7).toNat with
  | 0x00 => if field w 0 25 = 0#25 then some .nop else none
  | 0x01 => if field w 0 25 = 0#25 then some .exit else none
  | 0x02 => if field w 18 7 = 0#7 then some (.bra (field w 0 18)) else none
  | 0x03 => some (.brmAny (field w 19 6) (field w 18 1) (field w 0 18))
  | 0x04 => some (.brmAll (field w 19 6) (field w 18 1) (field w 0 18))
  | 0x05 => some (.brmNone (field w 19 6) (field w 18 1) (field w 0 18))
  | 0x06 => some (.brz (field w 19 6) (field w 18 1) (field w 0 18))
  | 0x07 => some (.brnz (field w 19 6) (field w 18 1) (field w 0 18))
  | 0x08 => if field w 18 1 = 0#1 then some (.call (field w 19 6) (field w 0 18)) else none
  | 0x09 => if field w 19 6 = 0#6 ∧ field w 0 13 = 0#13 then some (.ret (field w 13 6)) else none
  | 0x0a => if field w 19 6 = 0#6 then some (.jmp (field w 13 6) (field w 0 13)) else none
  | 0x0b => if field w 19 6 = 0#6 ∧ field w 0 13 = 0#13 then some (.join (field w 13 6)) else none
  | 0x0c => if field w 19 6 = 0#6 ∧ field w 0 13 = 0#13 then some (.setm (field w 13 6)) else none
  | 0x0d => if field w 0 19 = 0#19 then some (.getm (field w 19 6)) else none
  | 0x0e => if field w 0 25 = 0#25 then some .yield else none
  | 0x0f => if field w 3 10 = 0#10 then some (.sleep (field w 19 6) (field w 13 6) (field w 0 3)) else none
  | 0x10 => decodeOp10 w
  | 0x11 => some (.saddi (field w 19 6) (field w 13 6) (field w 0 13))
  | 0x12 => if field w 24 1 = 0#1 then some (.sli (field w 18 6) (field w 0 18)) else none
  | 0x13 => if field w 24 1 = 0#1 then some (.sliHi (field w 18 6) (field w 0 18)) else none
  | 0x14 => decodeOp14 w
  | 0x15 => if field w 19 6 = 0#6 ∧ field w 5 8 = 0#8 then some (.wrsr (field w 13 6) (field w 0 5)) else none
  | 0x1c => decodeOp1C w
  | 0x1d => decodeOp1D w
  | 0x1e => decodeOp1E w
  | 0x1f => decodeOp1F w
  | 0x28 => decodeOp28 w
  | 0x29 => decodeOp29 w
  | 0x2a => decodeOp2A w
  | 0x2b => decodeOp2B w
  | 0x2c => decodeOp2C w
  | 0x2d => decodeOp2D w
  | 0x2e => decodeOp2E w
  | 0x2f => decodeOp2F w
  | 0x30 => decodeOp30 w
  | 0x31 => decodeOp31 w
  | 0x32 => some (.li (field w 18 7) (field w 0 18))
  | 0x34 => some (.addI (field w 18 7) (field w 11 7) (field w 10 1) (field w 0 10))
  | 0x35 => some (.mulI (field w 18 7) (field w 11 7) (field w 10 1) (field w 0 10))
  | 0x36 => some (.andI (field w 18 7) (field w 11 7) (field w 10 1) (field w 0 10))
  | 0x37 => some (.orI (field w 18 7) (field w 11 7) (field w 10 1) (field w 0 10))
  | 0x38 => some (.xorI (field w 18 7) (field w 11 7) (field w 10 1) (field w 0 10))
  | 0x39 => some (.shlI (field w 18 7) (field w 11 7) (field w 10 1) (field w 0 10))
  | 0x3a => some (.shrI (field w 18 7) (field w 11 7) (field w 10 1) (field w 0 10))
  | 0x3b => some (.sraI (field w 18 7) (field w 11 7) (field w 10 1) (field w 0 10))
  | 0x44 => if field w 5 5 = 0#5 then some (.cvt (field w 18 7) (field w 11 7) (field w 10 1) (field w 0 5)) else none
  | 0x45 => decodeOp45 w
  | 0x46 => decodeOp46 w
  | 0x48 => decodeOp48 w
  | 0x49 => decodeOp49 w
  | 0x4a => decodeOp4A w
  | 0x4c => decodeOp4C w
  | 0x4d => decodeOp4D w
  | 0x50 => some (.ld (field w 18 7) (field w 8 10) (field w 1 7) (field w 0 1))
  | 0x51 => some (.st (field w 18 7) (field w 8 10) (field w 1 7) (field w 0 1))
  | 0x52 => if field w 24 1 = 0#1 ∧ field w 7 1 = 0#1 then some (.ldS (field w 18 6) (field w 8 10) (field w 1 6) (field w 0 1)) else none
  | 0x53 => if field w 24 1 = 0#1 ∧ field w 7 1 = 0#1 then some (.stS (field w 18 6) (field w 8 10) (field w 1 6) (field w 0 1)) else none
  | 0x54 => some (.ldW (field w 18 7) (field w 8 10) (field w 1 7) (field w 0 1))
  | 0x55 => some (.stW (field w 18 7) (field w 8 10) (field w 1 7) (field w 0 1))
  | 0x56 => some (.ldAcq (field w 18 7) (field w 8 10) (field w 1 7) (field w 0 1))
  | 0x57 => some (.stRel (field w 18 7) (field w 8 10) (field w 1 7) (field w 0 1))
  | 0x58 => some (.ldC (field w 18 7) (field w 8 10) (field w 1 7) (field w 0 1))
  | 0x59 => some (.ldK (field w 18 7) (field w 8 10) (field w 1 7) (field w 0 1))
  | 0x5a => some (.stF (field w 18 7) (field w 8 10) (field w 1 7) (field w 0 1))
  | 0x5b => decodeOp5B w
  | 0x5c => some (.cpA (field w 18 7) (field w 10 8) (field w 2 8) (field w 0 2))
  | 0x5d => if field w 24 1 = 0#1 ∧ field w 18 2 = 0#2 then some (.cpB (field w 18 6) (field w 10 8) (field w 2 8) (field w 0 2)) else none
  | 0x5e => if field w 24 1 = 0#1 ∧ field w 0 2 = 0#2 then some (.gth (field w 18 6) (field w 10 8) (field w 2 8)) else none
  | 0x5f => decodeOp5F w
  | 0x60 => decodeOp60 w
  | 0x61 => if field w 19 6 = 0#6 ∧ field w 5 8 = 0#8 then some (.barSync (field w 13 6) (field w 4 1) (field w 0 4)) else none
  | 0x62 => if field w 3 22 = 0#22 then some (.fence (field w 0 3)) else none
  | 0x63 => decodeOp63 w
  | 0x64 => decodeOp64 w
  | 0x65 => decodeOp65 w
  | 0x66 => decodeOp66 w
  | 0x67 => decodeOp67 w
  | 0x6a => decodeOp6A w
  | 0x6b => decodeOp6B w
  | 0x6c => decodeOp6C w
  | 0x6d => decodeOp6D w
  | 0x6e => decodeOp6E w
  | 0x6f => decodeOp6F w
  | 0x70 => decodeOp70 w
  | 0x71 => decodeOp71 w
  | 0x72 => decodeOp72 w
  | 0x73 => decodeOp73 w
  | 0x74 => decodeOp74 w
  | 0x75 => decodeOp75 w
  | 0x76 => decodeOp76 w
  | 0x77 => decodeOp77 w
  | 0x78 => decodeOp78 w
  | 0x79 => decodeOp79 w
  | 0x7a => decodeOp7A w
  | 0x7b => decodeOp7B w
  | 0x7c => decodeOp7C w
  | 0x7d => decodeOp7D w
  | 0x7e => decodeOp7E w
  | _ => none

/-- The instruction that a 32-bit word is, none where the word is illegal (04 R61). -/
def decode (w : W32) : Option Instr :=
  match decodeFields w with
  | some i => if i.wf then some i else none
  | none => none

/-- A word from its four bytes, the byte at the lowest address first (00 R8). -/
def wordOfBytes (b : List Byte) : W32 :=
  match b with
  | [b0, b1, b2, b3] => b3 ++ b2 ++ b1 ++ b0
  | _ => 0

/-- The four bytes of a word as memory holds them (00 R8). -/
def bytesOfWord (w : W32) : List Byte :=
  [w.extractLsb' 0 8, w.extractLsb' 8 8, w.extractLsb' 16 8, w.extractLsb' 24 8]

/-- The decoder on bytes: the first instruction word of a list, with the rest; none for a word that is no
instruction and for fewer than four bytes. -/
def decodeBytes : List Byte → Option (Instr × List Byte)
  | b0 :: b1 :: b2 :: b3 :: rest => (decode (wordOfBytes [b0, b1, b2, b3])).map fun i => (i, rest)
  | _ => none

/-- The word of an instruction, its fields placed as 04 R56 to R60 and the instruction chapters lay down.
A step of an agent has no word. -/
def encode : Instr → Option W32
  | .nop => some (cat 32 0x00#7 0#25)
  | .exit => some (cat 32 0x01#7 0#25)
  | .bra d => some (cat 32 0x02#7 (cat 25 0#7 d))
  | .brmAny s w d => some (cat 32 0x03#7 (cat 25 s (cat 19 w d)))
  | .brmAll s w d => some (cat 32 0x04#7 (cat 25 s (cat 19 w d)))
  | .brmNone s w d => some (cat 32 0x05#7 (cat 25 s (cat 19 w d)))
  | .brz s w d => some (cat 32 0x06#7 (cat 25 s (cat 19 w d)))
  | .brnz s w d => some (cat 32 0x07#7 (cat 25 s (cat 19 w d)))
  | .call s d => some (cat 32 0x08#7 (cat 25 s (cat 19 0#1 d)))
  | .ret a => some (cat 32 0x09#7 (cat 25 0#6 (cat 19 a 0#13)))
  | .jmp a k => some (cat 32 0x0a#7 (cat 25 0#6 (cat 19 a k)))
  | .join a => some (cat 32 0x0b#7 (cat 25 0#6 (cat 19 a 0#13)))
  | .setm a => some (cat 32 0x0c#7 (cat 25 0#6 (cat 19 a 0#13)))
  | .getm d => some (cat 32 0x0d#7 (cat 25 d 0#19))
  | .yield => some (cat 32 0x0e#7 0#25)
  | .sleep d a e => some (cat 32 0x0f#7 (cat 25 d (cat 19 a (cat 13 0#10 e))))
  | .sadd d a b x y => some (cat 32 0x10#7 (cat 25 d (cat 19 a (cat 13 b (cat 7 x (cat 6 y 0#5))))))
  | .ssub d a b x y => some (cat 32 0x10#7 (cat 25 d (cat 19 a (cat 13 b (cat 7 x (cat 6 y 1#5))))))
  | .smul d a b x y => some (cat 32 0x10#7 (cat 25 d (cat 19 a (cat 13 b (cat 7 x (cat 6 y 2#5))))))
  | .smulh d a b x y => some (cat 32 0x10#7 (cat 25 d (cat 19 a (cat 13 b (cat 7 x (cat 6 y 3#5))))))
  | .sand d a b x y => some (cat 32 0x10#7 (cat 25 d (cat 19 a (cat 13 b (cat 7 x (cat 6 y 4#5))))))
  | .sor d a b x y => some (cat 32 0x10#7 (cat 25 d (cat 19 a (cat 13 b (cat 7 x (cat 6 y 5#5))))))
  | .sxor d a b x y => some (cat 32 0x10#7 (cat 25 d (cat 19 a (cat 13 b (cat 7 x (cat 6 y 6#5))))))
  | .sshl d a b x y => some (cat 32 0x10#7 (cat 25 d (cat 19 a (cat 13 b (cat 7 x (cat 6 y 7#5))))))
  | .sshr d a b x y => some (cat 32 0x10#7 (cat 25 d (cat 19 a (cat 13 b (cat 7 x (cat 6 y 8#5))))))
  | .ssra d a b x y => some (cat 32 0x10#7 (cat 25 d (cat 19 a (cat 13 b (cat 7 x (cat 6 y 9#5))))))
  | .smin d a b x y => some (cat 32 0x10#7 (cat 25 d (cat 19 a (cat 13 b (cat 7 x (cat 6 y 10#5))))))
  | .smax d a b x y => some (cat 32 0x10#7 (cat 25 d (cat 19 a (cat 13 b (cat 7 x (cat 6 y 11#5))))))
  | .sslt d a b x y => some (cat 32 0x10#7 (cat 25 d (cat 19 a (cat 13 b (cat 7 x (cat 6 y 12#5))))))
  | .sseq d a b x y => some (cat 32 0x10#7 (cat 25 d (cat 19 a (cat 13 b (cat 7 x (cat 6 y 13#5))))))
  | .spop d a x => some (cat 32 0x10#7 (cat 25 d (cat 19 a (cat 13 0#6 (cat 7 x (cat 6 0#1 14#5))))))
  | .sclz d a x => some (cat 32 0x10#7 (cat 25 d (cat 19 a (cat 13 0#6 (cat 7 x (cat 6 0#1 15#5))))))
  | .sffs d a x => some (cat 32 0x10#7 (cat 25 d (cat 19 a (cat 13 0#6 (cat 7 x (cat 6 0#1 16#5))))))
  | .saddi d a i => some (cat 32 0x11#7 (cat 25 d (cat 19 a i)))
  | .sli d i => some (cat 32 0x12#7 (cat 25 0#1 (cat 24 d i)))
  | .sliHi d i => some (cat 32 0x13#7 (cat 25 0#1 (cat 24 d i)))
  | .rdsr d n => some (cat 32 0x14#7 (cat 25 0#1 (cat 24 d (cat 18 0#1 (cat 17 0#12 n)))))
  | .rdsrLane d => some (cat 32 0x14#7 (cat 25 d (cat 18 1#1 0#17)))
  | .wrsr a n => some (cat 32 0x15#7 (cat 25 0#6 (cat 19 a (cat 13 0#8 n))))
  | .vcmpEq d a b x y => some (cat 32 0x1c#7 (cat 25 0#1 (cat 24 d (cat 18 a (cat 11 b (cat 4 x (cat 3 y 0#2)))))))
  | .vcmpNe d a b x y => some (cat 32 0x1c#7 (cat 25 0#1 (cat 24 d (cat 18 a (cat 11 b (cat 4 x (cat 3 y 1#2)))))))
  | .vcmpLt d a b x y => some (cat 32 0x1c#7 (cat 25 0#1 (cat 24 d (cat 18 a (cat 11 b (cat 4 x (cat 3 y 2#2)))))))
  | .vcmpLe d a b x y => some (cat 32 0x1c#7 (cat 25 0#1 (cat 24 d (cat 18 a (cat 11 b (cat 4 x (cat 3 y 3#2)))))))
  | .vcmpUn d a b x y => some (cat 32 0x1d#7 (cat 25 0#1 (cat 24 d (cat 18 a (cat 11 b (cat 4 x (cat 3 y 0#2)))))))
  | .mand d a b x y => some (cat 32 0x1e#7 (cat 25 0#1 (cat 24 d (cat 18 0#1 (cat 17 a (cat 11 0#1 (cat 10 b (cat 4 x (cat 3 y 0#2)))))))))
  | .mor d a b x y => some (cat 32 0x1e#7 (cat 25 0#1 (cat 24 d (cat 18 0#1 (cat 17 a (cat 11 0#1 (cat 10 b (cat 4 x (cat 3 y 1#2)))))))))
  | .mxor d a b x y => some (cat 32 0x1e#7 (cat 25 0#1 (cat 24 d (cat 18 0#1 (cat 17 a (cat 11 0#1 (cat 10 b (cat 4 x (cat 3 y 2#2)))))))))
  | .mnot d a x => some (cat 32 0x1e#7 (cat 25 0#1 (cat 24 d (cat 18 0#1 (cat 17 a (cat 11 0#7 (cat 4 x (cat 3 0#1 3#2))))))))
  | .mlive d => some (cat 32 0x1f#7 (cat 25 0#1 (cat 24 d (cat 18 0#16 0#2))))
  | .mexpand d a x => some (cat 32 0x1f#7 (cat 25 d (cat 18 0#1 (cat 17 a (cat 11 0#7 (cat 4 x (cat 3 0#1 1#2)))))))
  | .add d a b x y => some (cat 32 0x28#7 (cat 25 d (cat 18 a (cat 11 b (cat 4 x (cat 3 y 0#2))))))
  | .sub d a b x y => some (cat 32 0x28#7 (cat 25 d (cat 18 a (cat 11 b (cat 4 x (cat 3 y 1#2))))))
  | .min d a b x y => some (cat 32 0x28#7 (cat 25 d (cat 18 a (cat 11 b (cat 4 x (cat 3 y 2#2))))))
  | .max d a b x y => some (cat 32 0x28#7 (cat 25 d (cat 18 a (cat 11 b (cat 4 x (cat 3 y 3#2))))))
  | .mul d a b x y => some (cat 32 0x29#7 (cat 25 d (cat 18 a (cat 11 b (cat 4 x (cat 3 y 0#2))))))
  | .mulh d a b x y => some (cat 32 0x29#7 (cat 25 d (cat 18 a (cat 11 b (cat 4 x (cat 3 y 1#2))))))
  | .div d a b x y => some (cat 32 0x29#7 (cat 25 d (cat 18 a (cat 11 b (cat 4 x (cat 3 y 2#2))))))
  | .rem d a b x y => some (cat 32 0x29#7 (cat 25 d (cat 18 a (cat 11 b (cat 4 x (cat 3 y 3#2))))))
  | .fma d a b x y => some (cat 32 0x2a#7 (cat 25 d (cat 18 a (cat 11 b (cat 4 x (cat 3 y 0#2))))))
  | .fms d a b x y => some (cat 32 0x2a#7 (cat 25 d (cat 18 a (cat 11 b (cat 4 x (cat 3 y 1#2))))))
  | .fnma d a b x y => some (cat 32 0x2a#7 (cat 25 d (cat 18 a (cat 11 b (cat 4 x (cat 3 y 2#2))))))
  | .abs d a x => some (cat 32 0x2b#7 (cat 25 d (cat 18 a (cat 11 0#7 (cat 4 x (cat 3 0#1 0#2))))))
  | .neg d a x => some (cat 32 0x2b#7 (cat 25 d (cat 18 a (cat 11 0#7 (cat 4 x (cat 3 0#1 1#2))))))
  | .rnd d a x => some (cat 32 0x2b#7 (cat 25 d (cat 18 a (cat 11 0#7 (cat 4 x (cat 3 0#1 2#2))))))
  | .not d a x => some (cat 32 0x2b#7 (cat 25 d (cat 18 a (cat 11 0#7 (cat 4 x (cat 3 0#1 3#2))))))
  | .and d a b x y => some (cat 32 0x2c#7 (cat 25 d (cat 18 a (cat 11 b (cat 4 x (cat 3 y 0#2))))))
  | .or d a b x y => some (cat 32 0x2c#7 (cat 25 d (cat 18 a (cat 11 b (cat 4 x (cat 3 y 1#2))))))
  | .xor d a b x y => some (cat 32 0x2c#7 (cat 25 d (cat 18 a (cat 11 b (cat 4 x (cat 3 y 2#2))))))
  | .shl d a b x y => some (cat 32 0x2d#7 (cat 25 d (cat 18 a (cat 11 b (cat 4 x (cat 3 y 0#2))))))
  | .shr d a b x y => some (cat 32 0x2d#7 (cat 25 d (cat 18 a (cat 11 b (cat 4 x (cat 3 y 1#2))))))
  | .sra d a b x y => some (cat 32 0x2d#7 (cat 25 d (cat 18 a (cat 11 b (cat 4 x (cat 3 y 2#2))))))
  | .rol d a b x y => some (cat 32 0x2d#7 (cat 25 d (cat 18 a (cat 11 b (cat 4 x (cat 3 y 3#2))))))
  | .popc d a x => some (cat 32 0x2e#7 (cat 25 d (cat 18 a (cat 11 0#7 (cat 4 x (cat 3 0#1 0#2))))))
  | .clz d a x => some (cat 32 0x2e#7 (cat 25 d (cat 18 a (cat 11 0#7 (cat 4 x (cat 3 0#1 1#2))))))
  | .brev d a x => some (cat 32 0x2e#7 (cat 25 d (cat 18 a (cat 11 0#7 (cat 4 x (cat 3 0#1 2#2))))))
  | .bfe d a b x y => some (cat 32 0x2f#7 (cat 25 d (cat 18 a (cat 11 b (cat 4 x (cat 3 y 0#2))))))
  | .bfi d a b x y => some (cat 32 0x2f#7 (cat 25 d (cat 18 a (cat 11 b (cat 4 x (cat 3 y 1#2))))))
  | .sel d a b x y => some (cat 32 0x30#7 (cat 25 d (cat 18 a (cat 11 0#1 (cat 10 b (cat 4 x (cat 3 y 0#2)))))))
  | .mov d a x => some (cat 32 0x31#7 (cat 25 d (cat 18 a (cat 11 0#7 (cat 4 x (cat 3 0#1 0#2))))))
  | .movs d a x => some (cat 32 0x31#7 (cat 25 d (cat 18 0#1 (cat 17 a (cat 11 0#7 (cat 4 x (cat 3 0#1 1#2)))))))
  | .lid d => some (cat 32 0x31#7 (cat 25 d (cat 18 0#16 2#2)))
  | .li d i => some (cat 32 0x32#7 (cat 25 d i))
  | .addI d a w i => some (cat 32 0x34#7 (cat 25 d (cat 18 a (cat 11 w i))))
  | .mulI d a w i => some (cat 32 0x35#7 (cat 25 d (cat 18 a (cat 11 w i))))
  | .andI d a w i => some (cat 32 0x36#7 (cat 25 d (cat 18 a (cat 11 w i))))
  | .orI d a w i => some (cat 32 0x37#7 (cat 25 d (cat 18 a (cat 11 w i))))
  | .xorI d a w i => some (cat 32 0x38#7 (cat 25 d (cat 18 a (cat 11 w i))))
  | .shlI d a w i => some (cat 32 0x39#7 (cat 25 d (cat 18 a (cat 11 w i))))
  | .shrI d a w i => some (cat 32 0x3a#7 (cat 25 d (cat 18 a (cat 11 w i))))
  | .sraI d a w i => some (cat 32 0x3b#7 (cat 25 d (cat 18 a (cat 11 w i))))
  | .cvt d a w t => some (cat 32 0x44#7 (cat 25 d (cat 18 a (cat 11 w (cat 10 0#5 t)))))
  | .pk8 d a x => some (cat 32 0x45#7 (cat 25 d (cat 18 a (cat 11 0#7 (cat 4 x (cat 3 0#1 0#2))))))
  | .upk8 d a x => some (cat 32 0x45#7 (cat 25 d (cat 18 a (cat 11 0#7 (cat 4 x (cat 3 0#1 1#2))))))
  | .pk4 d a x => some (cat 32 0x45#7 (cat 25 d (cat 18 a (cat 11 0#7 (cat 4 x (cat 3 0#1 2#2))))))
  | .upk4 d a x => some (cat 32 0x45#7 (cat 25 d (cat 18 a (cat 11 0#7 (cat 4 x (cat 3 0#1 3#2))))))
  | .pk6 d a x => some (cat 32 0x46#7 (cat 25 d (cat 18 a (cat 11 0#7 (cat 4 x (cat 3 0#1 0#2))))))
  | .upk6 d a x => some (cat 32 0x46#7 (cat 25 d (cat 18 a (cat 11 0#7 (cat 4 x (cat 3 0#1 1#2))))))
  | .rcp d a x => some (cat 32 0x48#7 (cat 25 d (cat 18 a (cat 11 0#7 (cat 4 x (cat 3 0#1 0#2))))))
  | .rsq d a x => some (cat 32 0x48#7 (cat 25 d (cat 18 a (cat 11 0#7 (cat 4 x (cat 3 0#1 1#2))))))
  | .sqrt d a x => some (cat 32 0x48#7 (cat 25 d (cat 18 a (cat 11 0#7 (cat 4 x (cat 3 0#1 2#2))))))
  | .exp2 d a x => some (cat 32 0x49#7 (cat 25 d (cat 18 a (cat 11 0#7 (cat 4 x (cat 3 0#1 0#2))))))
  | .exp d a x => some (cat 32 0x49#7 (cat 25 d (cat 18 a (cat 11 0#7 (cat 4 x (cat 3 0#1 1#2))))))
  | .log2 d a x => some (cat 32 0x49#7 (cat 25 d (cat 18 a (cat 11 0#7 (cat 4 x (cat 3 0#1 2#2))))))
  | .log d a x => some (cat 32 0x49#7 (cat 25 d (cat 18 a (cat 11 0#7 (cat 4 x (cat 3 0#1 3#2))))))
  | .sin2pi d a x => some (cat 32 0x4a#7 (cat 25 d (cat 18 a (cat 11 0#7 (cat 4 x (cat 3 0#1 0#2))))))
  | .cos2pi d a x => some (cat 32 0x4a#7 (cat 25 d (cat 18 a (cat 11 0#7 (cat 4 x (cat 3 0#1 1#2))))))
  | .tanh d a x => some (cat 32 0x4a#7 (cat 25 d (cat 18 a (cat 11 0#7 (cat 4 x (cat 3 0#1 2#2))))))
  | .erf d a x => some (cat 32 0x4a#7 (cat 25 d (cat 18 a (cat 11 0#7 (cat 4 x (cat 3 0#1 3#2))))))
  | .permZ d a b x y => some (cat 32 0x4c#7 (cat 25 d (cat 18 a (cat 11 0#1 (cat 10 b (cat 4 x (cat 3 y 0#2)))))))
  | .permS d a b x y => some (cat 32 0x4c#7 (cat 25 d (cat 18 a (cat 11 0#1 (cat 10 b (cat 4 x (cat 3 y 1#2)))))))
  | .bcast d a b x y => some (cat 32 0x4c#7 (cat 25 d (cat 18 a (cat 11 0#1 (cat 10 b (cat 4 x (cat 3 y 2#2)))))))
  | .reduAdd d a b x y => some (cat 32 0x4d#7 (cat 25 0#1 (cat 24 d (cat 18 a (cat 11 0#1 (cat 10 b (cat 4 x (cat 3 y 0#2))))))))
  | .reduMin d a b x y => some (cat 32 0x4d#7 (cat 25 0#1 (cat 24 d (cat 18 a (cat 11 0#1 (cat 10 b (cat 4 x (cat 3 y 1#2))))))))
  | .reduMax d a b x y => some (cat 32 0x4d#7 (cat 25 0#1 (cat 24 d (cat 18 a (cat 11 0#1 (cat 10 b (cat 4 x (cat 3 y 2#2))))))))
  | .scanAdd d a b x y => some (cat 32 0x4d#7 (cat 25 d (cat 18 a (cat 11 0#1 (cat 10 b (cat 4 x (cat 3 y 3#2)))))))
  | .ld d r a w => some (cat 32 0x50#7 (cat 25 d (cat 18 r (cat 8 a w))))
  | .st d r a w => some (cat 32 0x51#7 (cat 25 d (cat 18 r (cat 8 a w))))
  | .ldS d r a w => some (cat 32 0x52#7 (cat 25 0#1 (cat 24 d (cat 18 r (cat 8 0#1 (cat 7 a w))))))
  | .stS d r a w => some (cat 32 0x53#7 (cat 25 0#1 (cat 24 d (cat 18 r (cat 8 0#1 (cat 7 a w))))))
  | .ldW d r a w => some (cat 32 0x54#7 (cat 25 d (cat 18 r (cat 8 a w))))
  | .stW d r a w => some (cat 32 0x55#7 (cat 25 d (cat 18 r (cat 8 a w))))
  | .ldAcq d r a w => some (cat 32 0x56#7 (cat 25 d (cat 18 r (cat 8 a w))))
  | .stRel d r a w => some (cat 32 0x57#7 (cat 25 d (cat 18 r (cat 8 a w))))
  | .ldC d r a w => some (cat 32 0x58#7 (cat 25 d (cat 18 r (cat 8 a w))))
  | .ldK d r a w => some (cat 32 0x59#7 (cat 25 d (cat 18 r (cat 8 a w))))
  | .stF d r a w => some (cat 32 0x5a#7 (cat 25 d (cat 18 r (cat 8 a w))))
  | .feSet a n => some (cat 32 0x5b#7 (cat 25 0#6 (cat 19 a (cat 13 n 0#2))))
  | .feClr a n => some (cat 32 0x5b#7 (cat 25 0#6 (cat 19 a (cat 13 n 1#2))))
  | .feRd d a => some (cat 32 0x5b#7 (cat 25 d (cat 19 a (cat 13 0#11 2#2))))
  | .cpA v s d g => some (cat 32 0x5c#7 (cat 25 v (cat 18 s (cat 10 d g))))
  | .cpB v s d g => some (cat 32 0x5d#7 (cat 25 0#1 (cat 24 v (cat 18 s (cat 10 d g)))))
  | .gth v i d => some (cat 32 0x5e#7 (cat 25 0#1 (cat 24 v (cat 18 i (cat 10 d 0#2)))))
  | .waitc c t n => some (cat 32 0x5f#7 (cat 25 0#12 (cat 13 0#1 (cat 12 c (cat 10 t n)))))
  | .cnt d c t => some (cat 32 0x5f#7 (cat 25 d (cat 19 0#6 (cat 13 1#1 (cat 12 c (cat 10 t 0#8))))))
  | .barInit a b x y => some (cat 32 0x60#7 (cat 25 0#6 (cat 19 a (cat 13 b (cat 7 x (cat 6 y 0#5))))))
  | .barExp a b x y => some (cat 32 0x60#7 (cat 25 0#6 (cat 19 a (cat 13 b (cat 7 x (cat 6 y 1#5))))))
  | .barArr d a x => some (cat 32 0x60#7 (cat 25 d (cat 19 a (cat 13 0#6 (cat 7 x (cat 6 0#1 2#5))))))
  | .barWait a b x y => some (cat 32 0x60#7 (cat 25 0#6 (cat 19 a (cat 13 b (cat 7 x (cat 6 y 3#5))))))
  | .barSync a k b => some (cat 32 0x61#7 (cat 25 0#6 (cat 19 a (cat 13 0#8 (cat 5 k b)))))
  | .fence s => some (cat 32 0x62#7 (cat 25 0#22 s))
  | .pf l a v n => some (cat 32 0x63#7 (cat 25 l (cat 19 a (cat 13 0#1 (cat 12 v n)))))
  | .cinv l a n => some (cat 32 0x63#7 (cat 25 l (cat 19 a (cat 13 1#1 (cat 12 0#1 (cat 11 0#1 n))))))
  | .cinvAll => some (cat 32 0x63#7 (cat 25 0#12 (cat 13 1#1 (cat 12 1#1 0#11))))
  | .atomAdd d r a w => some (cat 32 0x64#7 (cat 25 d (cat 18 0#2 (cat 16 r (cat 8 a w)))))
  | .atomMin d r a w => some (cat 32 0x64#7 (cat 25 d (cat 18 1#2 (cat 16 r (cat 8 a w)))))
  | .atomMax d r a w => some (cat 32 0x64#7 (cat 25 d (cat 18 2#2 (cat 16 r (cat 8 a w)))))
  | .atomAnd d r a w => some (cat 32 0x64#7 (cat 25 d (cat 18 3#2 (cat 16 r (cat 8 a w)))))
  | .atomOr d r a w => some (cat 32 0x65#7 (cat 25 d (cat 18 0#2 (cat 16 r (cat 8 a w)))))
  | .atomXor d r a w => some (cat 32 0x65#7 (cat 25 d (cat 18 1#2 (cat 16 r (cat 8 a w)))))
  | .atomXchg d r a w => some (cat 32 0x65#7 (cat 25 d (cat 18 2#2 (cat 16 r (cat 8 a w)))))
  | .atomCas d r a w => some (cat 32 0x65#7 (cat 25 d (cat 18 3#2 (cat 16 r (cat 8 a w)))))
  | .redAdd d r a w => some (cat 32 0x66#7 (cat 25 d (cat 18 0#2 (cat 16 r (cat 8 a w)))))
  | .redMin d r a w => some (cat 32 0x66#7 (cat 25 d (cat 18 1#2 (cat 16 r (cat 8 a w)))))
  | .redMax d r a w => some (cat 32 0x66#7 (cat 25 d (cat 18 2#2 (cat 16 r (cat 8 a w)))))
  | .bankMx d r a w => some (cat 32 0x67#7 (cat 25 d (cat 18 0#2 (cat 16 r (cat 8 a w)))))
  | .bankSup d r a w => some (cat 32 0x67#7 (cat 25 d (cat 18 1#2 (cat 16 r (cat 8 a w)))))
  | .bankVadd d r a w => some (cat 32 0x67#7 (cat 25 d (cat 18 2#2 (cat 16 r (cat 8 a w)))))
  | .chunk d r a w => some (cat 32 0x67#7 (cat 25 0#1 (cat 24 d (cat 18 3#2 (cat 16 r (cat 8 0#1 (cat 7 a w)))))))
  | .recLd a n => some (cat 32 0x6a#7 (cat 25 0#6 (cat 19 a (cat 13 0#3 n))))
  | .recSt a n => some (cat 32 0x6a#7 (cat 25 0#6 (cat 19 a (cat 13 1#3 n))))
  | .recInv a n => some (cat 32 0x6a#7 (cat 25 0#6 (cat 19 a (cat 13 2#3 n))))
  | .recSet r a f => some (cat 32 0x6b#7 (cat 25 r (cat 19 a (cat 13 0#2 (cat 11 f 0#5)))))
  | .recGet d r f => some (cat 32 0x6b#7 (cat 25 d (cat 19 r (cat 13 1#2 (cat 11 f 0#5)))))
  | .cbld a => some (cat 32 0x6b#7 (cat 25 0#6 (cat 19 a (cat 13 2#2 0#11))))
  | .tld c a b => some (cat 32 0x6c#7 (cat 25 c (cat 17 a (cat 9 0#2 (cat 7 b 0#1)))))
  | .tldf c a b => some (cat 32 0x6c#7 (cat 25 c (cat 17 a (cat 9 0#2 (cat 7 b 1#1)))))
  | .tst c a b => some (cat 32 0x6d#7 (cat 25 c (cat 17 a (cat 9 0#2 (cat 7 b 0#1)))))
  | .tstf c a b => some (cat 32 0x6d#7 (cat 25 c (cat 17 a (cat 9 0#2 (cat 7 b 1#1)))))
  | .tmm c a b => some (cat 32 0x6e#7 (cat 25 c (cat 17 a (cat 9 b 0#1))))
  | .tmms c a b => some (cat 32 0x6e#7 (cat 25 c (cat 17 a (cat 9 b 1#1))))
  | .tadd c a b => some (cat 32 0x6f#7 (cat 25 c (cat 17 a (cat 9 b 0#1))))
  | .tsub c a b => some (cat 32 0x6f#7 (cat 25 c (cat 17 a (cat 9 b 1#1))))
  | .tz c b => some (cat 32 0x70#7 (cat 25 c (cat 17 0#10 (cat 7 b 0#1))))
  | .tcp c a => some (cat 32 0x70#7 (cat 25 c (cat 17 a (cat 9 0#8 1#1))))
  | .tscl c a b => some (cat 32 0x71#7 (cat 25 c (cat 17 a (cat 9 0#2 (cat 7 b 0#1)))))
  | .ttr c a => some (cat 32 0x71#7 (cat 25 c (cat 17 a (cat 9 0#8 1#1))))
  | .trnd c => some (cat 32 0x72#7 (cat 25 c (cat 17 0#16 0#1)))
  | .tlr c => some (cat 32 0x72#7 (cat 25 c (cat 17 0#16 1#1)))
  | .tden c => some (cat 32 0x73#7 (cat 25 c (cat 17 0#16 0#1)))
  | .tlu c a => some (cat 32 0x73#7 (cat 25 c (cat 17 a (cat 9 0#8 1#1))))
  | .ttrsmL c a b => some (cat 32 0x74#7 (cat 25 c (cat 17 a (cat 9 b 0#1))))
  | .ttrsmU c a => some (cat 32 0x74#7 (cat 25 c (cat 17 a (cat 9 0#8 1#1))))
  | .tchol c => some (cat 32 0x75#7 (cat 25 c (cat 17 0#16 0#1)))
  | .tmmM c a b => some (cat 32 0x75#7 (cat 25 c (cat 17 a (cat 9 b 1#1))))
  | .tv d a b => some (cat 32 0x77#7 (cat 25 0#1 (cat 24 d (cat 17 a (cat 9 0#2 (cat 7 b 0#1))))))
  | .vt c a b => some (cat 32 0x77#7 (cat 25 c (cat 17 0#1 (cat 16 a (cat 9 0#2 (cat 7 b 1#1))))))
  | .tsal d a => some (cat 32 0x76#7 (cat 25 d (cat 19 a (cat 13 0#3 0#10))))
  | .tsalNw d a => some (cat 32 0x76#7 (cat 25 d (cat 19 a (cat 13 1#3 0#10))))
  | .tsfr d a => some (cat 32 0x76#7 (cat 25 d (cat 19 a (cat 13 2#3 0#10))))
  | .tinfo d n => some (cat 32 0x76#7 (cat 25 d (cat 19 0#6 (cat 13 3#3 (cat 10 0#2 n)))))
  | .tls n => some (cat 32 0x76#7 (cat 25 0#12 (cat 13 4#3 (cat 10 0#2 n))))
  | .madd d a b x y => some (cat 32 0x78#7 (cat 25 0#2 (cat 23 d (cat 18 0#2 (cat 16 a (cat 11 0#2 (cat 9 b (cat 4 x (cat 3 y 0#2)))))))))
  | .msub d a b x y => some (cat 32 0x78#7 (cat 25 0#2 (cat 23 d (cat 18 0#2 (cat 16 a (cat 11 0#2 (cat 9 b (cat 4 x (cat 3 y 1#2)))))))))
  | .mmul d a b x y => some (cat 32 0x78#7 (cat 25 0#2 (cat 23 d (cat 18 0#2 (cat 16 a (cat 11 0#2 (cat 9 b (cat 4 x (cat 3 y 2#2)))))))))
  | .mfma d a b x y => some (cat 32 0x78#7 (cat 25 0#2 (cat 23 d (cat 18 0#2 (cat 16 a (cat 11 0#2 (cat 9 b (cat 4 x (cat 3 y 3#2)))))))))
  | .mscl d a b x y => some (cat 32 0x79#7 (cat 25 0#2 (cat 23 d (cat 18 0#2 (cat 16 a (cat 11 0#1 (cat 10 b (cat 4 x (cat 3 y 0#2)))))))))
  | .mexp d a x => some (cat 32 0x79#7 (cat 25 0#2 (cat 23 d (cat 18 0#2 (cat 16 a (cat 11 0#7 (cat 4 x (cat 3 0#1 1#2))))))))
  | .mrelu d a x => some (cat 32 0x79#7 (cat 25 0#2 (cat 23 d (cat 18 0#2 (cat 16 a (cat 11 0#7 (cat 4 x (cat 3 0#1 2#2))))))))
  | .msig d a x => some (cat 32 0x79#7 (cat 25 0#2 (cat 23 d (cat 18 0#2 (cat 16 a (cat 11 0#7 (cat 4 x (cat 3 0#1 3#2))))))))
  | .mset d a x => some (cat 32 0x7a#7 (cat 25 0#2 (cat 23 d (cat 18 a (cat 11 0#7 (cat 4 x (cat 3 0#1 0#2)))))))
  | .mcol d a x => some (cat 32 0x7a#7 (cat 25 d (cat 18 0#2 (cat 16 a (cat 11 0#7 (cat 4 x (cat 3 0#1 1#2)))))))
  | .mvar d a x => some (cat 32 0x7a#7 (cat 25 d (cat 18 0#2 (cat 16 a (cat 11 0#7 (cat 4 x (cat 3 0#1 2#2)))))))
  | .mld d r a w => some (cat 32 0x7b#7 (cat 25 0#2 (cat 23 d (cat 18 0#2 (cat 16 r (cat 8 a w))))))
  | .mst d r a w => some (cat 32 0x7b#7 (cat 25 0#2 (cat 23 d (cat 18 1#2 (cat 16 r (cat 8 a w))))))
  | .launch d a => some (cat 32 0x7c#7 (cat 25 d (cat 19 a (cat 13 0#3 0#10))))
  | .qpush d v n => some (cat 32 0x7c#7 (cat 25 d (cat 19 v (cat 13 1#3 n))))
  | .qpop d n => some (cat 32 0x7c#7 (cat 25 d (cat 19 0#6 (cat 13 2#3 n))))
  | .qflush n => some (cat 32 0x7c#7 (cat 25 0#12 (cat 13 3#3 n)))
  | .done n => some (cat 32 0x7c#7 (cat 25 0#12 (cat 13 4#3 n)))
  | .pmtGet d a n => some (cat 32 0x7c#7 (cat 25 d (cat 19 a (cat 13 5#3 n))))
  | .pmtRet a n => some (cat 32 0x7c#7 (cat 25 0#6 (cat 19 a (cat 13 6#3 n))))
  | .trap c => some (cat 32 0x7d#7 (cat 25 0#12 (cat 13 0#3 (cat 10 0#5 c))))
  | .rte => some (cat 32 0x7d#7 (cat 25 0#12 (cat 13 1#3 0#10)))
  | .rqN d => some (cat 32 0x7d#7 (cat 25 d (cat 19 0#6 (cat 13 2#3 0#10))))
  | .rqRd d a => some (cat 32 0x7d#7 (cat 25 d (cat 19 a (cat 13 3#3 0#10))))
  | .rqWr d a => some (cat 32 0x7d#7 (cat 25 d (cat 19 a (cat 13 4#3 0#10))))
  | .rqDrop a => some (cat 32 0x7d#7 (cat 25 0#6 (cat 19 a (cat 13 5#3 0#10))))
  | .elog d => some (cat 32 0x7d#7 (cat 25 d (cat 19 0#6 (cat 13 6#3 0#10))))
  | .brk => some (cat 32 0x7d#7 (cat 25 0#12 (cat 13 7#3 0#10)))
  | .wpSet d a p => some (cat 32 0x7e#7 (cat 25 d (cat 19 a (cat 13 0#4 (cat 9 0#5 p)))))
  | .wpClr p => some (cat 32 0x7e#7 (cat 25 0#12 (cat 13 1#4 (cat 9 0#4 (cat 5 0#1 p)))))
  | .wpClrAll => some (cat 32 0x7e#7 (cat 25 0#12 (cat 13 1#4 (cat 9 0#4 (cat 5 1#1 0#4)))))
  | .wpSt d p => some (cat 32 0x7e#7 (cat 25 d (cat 19 0#6 (cat 13 2#4 (cat 9 0#4 (cat 5 0#1 p))))))
  | .wpStLog d => some (cat 32 0x7e#7 (cat 25 d (cat 19 0#6 (cat 13 2#4 (cat 9 0#4 (cat 5 1#1 0#4))))))
  | .dbgHalt d a s => some (cat 32 0x7e#7 (cat 25 d (cat 19 a (cat 13 3#4 (cat 9 0#7 s)))))
  | .dbgGo d a s => some (cat 32 0x7e#7 (cat 25 d (cat 19 a (cat 13 4#4 (cat 9 0#7 s)))))
  | .dbgStep d a => some (cat 32 0x7e#7 (cat 25 d (cat 19 a (cat 13 5#4 0#9))))
  | .dbgRd d a g => some (cat 32 0x7e#7 (cat 25 d (cat 19 a (cat 13 6#4 g))))
  | .dbgWr d a g => some (cat 32 0x7e#7 (cat 25 d (cat 19 a (cat 13 7#4 g))))
  | .dbgWrF d a g => some (cat 32 0x7e#7 (cat 25 d (cat 19 a (cat 13 8#4 g))))
  | .dbgLs d a => some (cat 32 0x7e#7 (cat 25 d (cat 19 a (cat 13 9#4 0#9))))
  | .trMark a k => some (cat 32 0x7e#7 (cat 25 0#6 (cat 19 a (cat 13 10#4 k))))
  | .yieldExpiry _ _ => none
  | .sleepTimeout _ _ => none
  | .sleepEventWake _ _ => none
  | .illegalWord _ => none
  | .bankOperationPerform _ _ _ => none
  | .tsalGrant _ _ => none
  | .tsalRefusal _ _ => none
  | .tileRetirement _ _ _ => none
  | .qpopClaim _ _ => none
  | .trapEntry _ => none
  | .watchLoadValueEvaluation _ => none
  | .producerCompletion _ _ _ => none
  | .storePerform _ _ _ => none
  | .copyLanding _ _ _ _ => none
  | .gatherEntryLanding _ _ _ => none
  | .splitPromotion _ _ => none
  | .groupMoveOut _ => none
  | .groupMoveIn _ => none
  | .groupRetirement _ => none
  | .launchCompletion _ _ => none
  | .launchAcceptance _ _ => none
  | .gangAdmission _ _ _ => none
  | .bandAdmission _ _ _ _ _ _ => none
  | .candidateReservation _ => none
  | .gangEviction _ => none
  | .gangWake _ => none
  | .triggerDecision _ _ => none
  | .flushTimerExpiry _ _ => none
  | .migrateOnTouchService _ _ _ => none
  | .faultBufferRetry _ _ => none
  | .remoteAccess _ => none
  | .remoteQpush _ _ => none
  | .remotePermit _ _ => none
  | .remotePermitReturn _ _ => none
  | .fabricDown _ => none
  | .timeAlignment _ => none
  | .hostCxlMemAccess _ _ _ _ => none
  | .traceTs _ => none
  | .sample _ _ _ => none
  | .lqtail _ _ => none
  | .ctxctlReset _ _ => none
  | .cbimg _ _ => none
  | .registerWrite _ _ => none
  | .fqhead _ _ => none
  | .frespResume _ _ _ => none
  | .frespRefuse _ _ _ => none
  | .invalPage _ _ => none
  | .invalAll _ => none
  | .capture _ => none
  | .restore _ _ => none
  | .resume _ => none
  | .discard _ => none
  | .logon _ => none
  | .logoff _ => none
  | .dmHalt _ _ => none
  | .dmGo _ _ => none
  | .dmStep _ => none
  | .dmRd _ _ => none
  | .dmWr _ _ => none
  | .dmWrF _ _ => none
  | .coreRetirement _ _ => none
  | .softErrorReexecution _ _ => none
  | .powerOn _ => none
  | .perst => none
  | .moduleReset => none
  | .obsfrzN => none
  | .freeze => none
  | .freezeReadout => none
  | .undervoltagePowerOff => none
  | .thermalTrip => none
  | .thermalThrottle _ => none
  | .powerCapThrottle => none
  | .powerCapSet _ => none
  | .sensorRead _ => none
  | .firmwareUpdate _ _ => none
  | .firmwareActivation => none
  | .deviceNumberSet _ => none
  | .spdmRequest _ => none
  | .keyInstall _ _ _ _ => none
  | .hbmRowRemap _ _ _ => none
  | .channelRetrain _ _ _ => none
  | .fabricLaneRetrain _ _ _ => none
  | .contextDestruction _ => none
  | .bankRegionReservation _ _ _ => none

/-- What the decoder reads from an instruction of the opcode table: every row has one 32-bit word. -/
def decodeTableWord (nbits w : Nat) : Option Instr :=
  if nbits ≤ 32 then (decodeBytes (bytesOfWord (BitVec.ofNat 32 w))).map (·.1) else none

end Sys2Proof
end

