-- ==== Sys2Proof/Config.lean ====
section
/-!
DEFINITION. Sys2Proof/Config.lean: the free values of the model.
Each is an opaque constant without a body, so no proof can see what it is; a statement about one holds for every value.
A free value that may differ from use to use is applied to a counter of the state (log 2).
-/

namespace Sys2Proof

/-- A register of BAR2 as the host reads it (18 R280, R292, 19 R301, 22 R340, R345, R347, R351). -/
inductive HostReg where
  | named (r : RegName)
  | fqTail (vf : BitVec 7) | fqHead (vf : BitVec 7) | inval (vf : BitVec 7)
  | csSize (vf : BitVec 7) | csStat (vf : BitVec 7) | dlTail (vf : BitVec 7) | dmStat (vf : BitVec 7)
  | trTail (die : BitVec 3) | smTail (die : BitVec 3)
  deriving DecidableEq, Repr, Inhabited

/-- Who moves next: a split issues an instruction, an agent makes a step of the table, time passes, a core drops a
cached translation, or a 64-byte line of memory becomes uncorrectable (log 1). -/
inductive Move where
  /-- Split k of a group issues (14 R242). -/
  | issue (g : GroupRef) (k : BitVec 2)
  /-- The next instruction of one lane issues alone, for a debug agent and its status register, or for the register
  mirror (22 R343, R345). -/
  | stepLane (g : GroupRef) (lane : BitVec 6) (agent : Option (GroupRef × BitVec 6))
  /-- An agent makes a step without an encoding (95). -/
  | event (i : Instr)
  /-- TIME advances by ns and the cycle counter of every core by cycles, of which the cores of a die whose clock is lowered lose
  some, each die its own number (22 R353, 04 R53, 23 R357). -/
  | pass (ns : BitVec 32) (cycles : BitVec 32) (lost : List (BitVec 32))
  /-- The device keeps the save area of a context that runs: bytes it writes there at an offset of its choosing (19 R302). -/
  | saveWrite (vf : BitVec 7) (offset : Nat) (b : List Byte)
  /-- A core drops its cached translation of an address (18 R280). -/
  | dropTlb (vf : BitVec 7) (die : BitVec 3) (core : BitVec 7) (va : W64)
  /-- A compute die drops what it has cached of the walk for an address (18 R280). -/
  | dropDie (vf : BitVec 7) (die : BitVec 3) (va : W64)
  /-- A 64-byte line of tier-1 or tier-2 memory becomes uncorrectable (23 R363). -/
  | uncorrectable (line : BitVec 46)
  /-- A 64-byte line of bank memory, or of a gang's gang memory, becomes uncorrectable (23 R363). -/
  | spoilBank (line : BitVec 23)
  | spoilGmem (g : GangRef) (line : Nat)
  /-- The segments of a tile of a gang become uncorrectable (23 R363). -/
  | spoilTile (g : GangRef) (record : Nat)
  /-- The register file of a core is repaired in place, with so many bytes left of its active and backing files (19 R306, R310). -/
  | repairFile (die : BitVec 3) (core : BitVec 7) (active : BitVec 20) (backing : BitVec 21)
  /-- The loader places bytes in a bank region of a context before its first launch (13 R228). -/
  | loadBank (vf : BitVec 7) (a : BitVec 29) (b : List Byte)
  /-- Another module acknowledges the return of a context's permits (16 R265). -/
  | returned (vf : BitVec 7) (device : BitVec 12)
  /-- The host reads a context's block, or a register of the physical function (16 R258, 18 R292). -/
  | barRead (vf : BitVec 7) (offset : BitVec 12)
  | regRead (r : HostReg)
  /-- The host stores into its own memory (08 R158, R159). -/
  | hostStore (pa : BitVec 52) (b : List Byte)
  /-- System software gives the firmware a free tier-1 frame (18 R285, log 69). -/
  | giveFrame (level : BitVec 3) (pa : BitVec 52)
  deriving DecidableEq, Repr, Inhabited

/-- The free choice of who moves next where the agenda names nobody (log 1). -/
opaque Config.nextMove : Nat → Move

/-- LAUNCH identifiers, chosen by the device (03 R20). -/
opaque Config.launchId : Nat → BitVec 32

/-- SEGBASE of a tile that claims a new set of segments (11 R187). -/
opaque Config.segBase : Nat → BitVec 12

/-- The fault-buffer slot of a new record, chosen by the device (18 R284). -/
opaque Config.faultSlot : Nat → BitVec 12

/-- The bits another module returns for a remote load or returning atomic (16 R263). -/
opaque Config.remoteData : Nat → W64

/-- Whether the target of a remote access refuses it (16 R263). -/
opaque Config.remoteRefused : Nat → Bool

/-- The answer of a target to a remote pmt.get (16 R265). -/
opaque Config.remoteGrant : Nat → Bool

/-- The answer of a target to a remote push: TAIL before it, none where there was no room (16 R264, 15 R249). -/
opaque Config.remoteTail : Nat → Option W32

/-- What tier-1 and tier-2 memory hold after a module reset: bytes by address (23 R359). -/
opaque Config.resetMemory : Nat → List (BitVec 52 × Byte)

/-- Which of the entries of a full cache a new one replaces (18 R280, 00 R2). -/
opaque Config.victim : Nat → Nat

/-- What a 64-byte line reads as under another key than it was written under: the line, both keys, the line's bytes, and the
byte's place (16 R270). -/
opaque Config.otherKey : BitVec 46 → BitVec 512 → BitVec 512 → List Byte → Nat → Byte

/-- The LPDDR 6 channel that holds a byte of tier 2 (00 R4, 23 R361). -/
opaque Config.lpddrChannel : BitVec 52 → Fin 96

/-- The measurement of the boot ROM (16 R271). -/
opaque Config.bootRom : W64

/-- The 16 bytes of a band barrier in its band's region: its mask, the gangs and groups that have arrived, its phase
(14 R236, log 42). -/
opaque Config.bandBarrier : BitVec 32 → List (BitVec 5 × BitVec 5) → BitVec 1 → BitVec 128

/-- Where in the save area of its context the device keeps what a group has there: of the pieces named, the first byte by its offset
(19 R302). -/
opaque Config.saveSpot : GroupRef → Nat → Nat

/-- The bytes of an image that a capture writes to the save area (19 R303). -/
opaque Config.imageByte : Nat → Nat → Byte

/-- What a sensor reads (23 R364). -/
opaque Config.sensorValue : Nat → BitVec 32

end Sys2Proof
end

