-- ==== Sys2Proof/Machine/Map.lean ====
section
/-!
DEFINITION. Sys2Proof/Machine/Map.lean: data by key, in one canonical form: keys rising, no entry equal to zero, and zero
for every key that is not listed. The memories and the register files of the machine are held so.
-/

namespace Sys2Proof.Machine

/-- Words by key. -/
abbrev SMap (w : Nat) := List (Nat × BitVec w)

/-- What a key reads as: zero where it is not listed. -/
def SMap.get {w : Nat} : SMap w → Nat → BitVec w
  | [], _ => 0
  | (a, v) :: t, k => if k = a then v else SMap.get t k

/-- An entry put at its place in the order. -/
def SMap.insert {w : Nat} : SMap w → Nat → BitVec w → SMap w
  | [], k, v => [(k, v)]
  | (a, x) :: t, k, v =>
    if k < a then (k, v) :: (a, x) :: t else if k = a then (k, v) :: t else (a, x) :: SMap.insert t k v

/-- Without a key. -/
def SMap.erase {w : Nat} (m : SMap w) (k : Nat) : SMap w := m.filter fun p => p.1 != k

/-- Writing one key; zero takes the entry away. -/
def SMap.set {w : Nat} (m : SMap w) (k : Nat) (v : BitVec w) : SMap w :=
  if v = 0 then m.erase k else m.insert k v

/-- The canonical form: keys rising, no zero. -/
def SMap.wf {w : Nat} : SMap w → Bool
  | [] => true
  | [(_, v)] => v != 0
  | (a, v) :: (b, x) :: t => v != 0 && a < b && SMap.wf ((b, x) :: t)

/-- A memory: bytes by address, in the canonical form; an unlisted byte reads as zero (log 5). -/
abbrev Memory := SMap 8

/-- The canonical form of a memory: addresses rising, no byte listed that reads as an unlisted one does. -/
def Memory.wf (m : Memory) : Bool := SMap.wf m

/-- n consecutive keys from k. -/
def SMap.getRange {w : Nat} (m : SMap w) (k n : Nat) : List (BitVec w) :=
  (List.range n).map fun i => m.get (k + i)

/-- Consecutive keys from k written in rising order. -/
def SMap.setRange {w : Nat} (m : SMap w) (k : Nat) : List (BitVec w) → SMap w
  | [] => m
  | v :: t => SMap.setRange (m.set k v) (k + 1) t

/-- A map of consecutive keys from k; zeros are left out. -/
def SMap.ofValues {w : Nat} : Nat → List (BitVec w) → SMap w
  | _, [] => []
  | k, v :: t => if v = 0 then SMap.ofValues (k + 1) t else (k, v) :: SMap.ofValues (k + 1) t

/-- The keys of a window of a map, moved down to start at 0. -/
def SMap.slice {w : Nat} (m : SMap w) (lo n : Nat) : SMap w :=
  (m.filter fun p => lo ≤ p.1 && p.1 < lo + n).map fun p => (p.1 - lo, p.2)

/-- A number from its bytes, the first least significant (00 R8). -/
def ofBytes : List Byte → Nat
  | [] => 0
  | b :: t => b.toNat + 256 * ofBytes t

/-- The n bytes of a number, least significant first (00 R8). -/
def toBytes : Nat → Nat → List Byte
  | 0, _ => []
  | n + 1, x => BitVec.ofNat 8 x :: toBytes n (x / 256)

end Sys2Proof.Machine
end

