-- ==== Sys2Proof/Machine/State.lean ====
section
/-!
DEFINITION. Sys2Proof/Machine/State.lean: everything the spec gives the module, as plain data, and its value after reset.
The group whose split issues, and its gang, are held apart (grp, gang) from the other groups of that gang (peers) and from
the other resident gangs (others), so that an instruction acts on fields and never looks its group up.
-/

namespace Sys2Proof.Machine

/-- Why the machine stops: the spec stops it nowhere, so nothing raises a fault. -/
inductive Fault where
  deriving DecidableEq, Repr

/-- Why an instruction is refused. -/
inductive Refusal where
  /-- An arm of exec that gives its instruction no meaning yet. Raised by exec. Safe: nothing is claimed. -/
  | notModelled (mnemonic : String)
  deriving DecidableEq, Repr

/-! ## Splits -/

/-- A register of a group. -/
inductive Reg where
  | v (r : Nat)
  | s (r : BitVec 6)
  | m (r : Nat)
  deriving DecidableEq, Repr, Inhabited

/-- What keeps a running split from being ready (14 R242): nothing, an empty register, which may be one its instruction only
writes, the phase of a barrier at an address, another condition of its instruction (03 R34, 22 R352). -/
inductive Blocked where
  | no
  | reg (r : Reg) (written : Bool)
  | barWait (a : W64) (phase : BitVec 1)
  | other
  deriving DecidableEq, Repr, Inhabited

/-- What a split is doing (03 R21, 05 R79, R80). -/
inductive SplitState where
  /-- Ready to issue, or blocked at its instruction (14 R242). -/
  | running
  /-- Not ready after yield: the cycle count at the yield, and the other ready splits of its quadrant's active
  set with their counts of issued instructions then (05 R79). -/
  | yielded (since : W64) (others : List (GroupRef × BitVec 2 × BitVec 32))
  /-- In sleep: destination, deadline in TIME, events (05 R80). -/
  | asleep (d : BitVec 6) (deadline : W64) (ev : BitVec 3)
  /-- At a join (advance) or a synchronising instruction, remembering X (03 R25, R29, R30). -/
  | waiting (x : Mask) (advance : Bool)
  /-- Arrived at hardware barrier b, of the band or of the gang (06 R130). -/
  | atBarrier (band : Bool) (b : BitVec 4)
  /-- In a waiting tsal: destination, request, place in the order of arrival (11 R192, 12 R226). -/
  | inTsal (d : BitVec 6) (request : BitVec 13) (order : Nat)
  /-- In qpop on an empty queue: destination, queue record, its number, place in the order of arrival (15 R250). -/
  | inPop (d : BitVec 6) (queue : W256) (n : BitVec 10) (order : Nat)
  /-- In launch, its record not yet accepted (15 R248). -/
  | inLaunch (d : BitVec 6)
  /-- What it waited for came while it was held: what it writes, if anything, when it goes on after its release (22 R336). -/
  | passed (d : Option (BitVec 6)) (v : W64)
  /-- Parked on a replayable fault at an address (03 R21, 18 R283); `own` where its own fetch or instruction is what is held. -/
  | parked (va : W64) (own : Bool)
  deriving DecidableEq, Repr, Inhabited

/-- One split, or one overflow entry; a mask of no lane is a free entry (03 R21, R23). -/
structure Split where
  pc : W64
  mask : Mask
  mode : W64
  st : SplitState
  /-- Held by a watch or debug stop (22 R336). -/
  held : Bool
  /-- The last hit record of the stop, V = 0 for a debug halt (22 R344), and the up to four records that the stop put into
  the held state (22 R333). -/
  hit : BitVec 128
  hits : List (BitVec 128)
  /-- The status with which a sleep ends, once its moment has come (05 R80, 22 R336); and whether it came in this cycle, in
  which an event of a lower bit would be reported instead. -/
  woke : Option W64
  wokeNow : Bool
  /-- The address whose instruction is next executed without PC predicates (22 R334). -/
  skipPc : Option W64
  /-- The membership under which its synchronising instruction has joined, still to be executed (03 R29). -/
  joined : Option Mask
  /-- Cycles ready without issuing, and the cycle count at its promotion (14 R242). -/
  age : BitVec 16
  promoted : Option W64
  /-- Instructions issued by the split (05 R79), and how many of them after each operation of its lanes that a watch predicate still
  looks at: issue number, count (22 R334). -/
  issued : BitVec 32
  skids : List (Nat × Nat)
  /-- The cycle after the one in which it last issued (22 R351). -/
  issuedAt : W64
  /-- What its instruction is blocked by, as the last move left it (14 R242). -/
  blk : Blocked
  deriving DecidableEq, Repr, Inhabited

/-- A free entry. -/
def Split.free : Split :=
  { pc := 0, mask := 0, mode := 0, st := .running, held := false, hit := 0, hits := [], woke := none, wokeNow := false, skipPc := none, joined := none, age := 0,
    promoted := none, issued := 0, skids := [], issuedAt := 0, blk := .no }

/-- The split table (03 R21). -/
structure SplitTable where
  e0 : Split
  e1 : Split
  e2 : Split
  e3 : Split
  deriving DecidableEq, Repr, Inhabited

/-- An empty table. -/
def SplitTable.empty : SplitTable := ⟨Split.free, Split.free, Split.free, Split.free⟩

/-! ## Operations in flight and replay entries -/

/-- Where the bytes of an access lie (06 R106). -/
inductive Place where
  /-- Dropped or read as zero by R107. -/
  | nowhere
  | gmem
  | bank
  /-- Device virtual and host addresses. -/
  | virt
  deriving DecidableEq, Repr, Inhabited

/-- How a translated access reaches memory: in a mirrored page, and under which key (18 R278, 16 R270); under none where no page
leads there. -/
structure Via where
  mirror : Bool := false
  key : Option (BitVec 13) := none
  deriving DecidableEq, Repr, Inhabited

/-- One lane's access: n bytes at an address of a place, and once translated its physical address (18 R281). -/
structure Acc where
  lane : Nat
  place : Place
  addr : W64
  n : Nat
  pa : BitVec 52
  via : Via
  deriving DecidableEq, Repr, Inhabited

/-- Loads (06 R114 to R117, R121, 21 R324). -/
inductive LdKind where
  | plain | acquire | clear | keep | scalar | wide | moment
  deriving DecidableEq, Repr, Inhabited

/-- Stores (06 R114 to R117, R121, R136, 21 R324); `table` writes a changed shared entry to the record table (08 R156). -/
inductive StKind where
  | plain | release | full | scalar | wide | moment | record | table
  deriving DecidableEq, Repr, Inhabited

/-- Counted tile operations (12 R207). -/
inductive TileOp where
  | tld | tldf | tst | tstf | tz | tcp | tmm | tmms | tadd | tsub | tscl | ttr | trnd | tlr | tden | tlu | ttrsmL | ttrsmU
  | tchol | vt | tmmM
  deriving DecidableEq, Repr, Inhabited

/-- What an issued operation does. -/
inductive MemOp where
  | ld (k : LdKind)
  | st (k : StKind)
  | atom (fn : AtomFn)
  | red (fn : AtomFn)
  | bankMx | bankSup | bankVadd
  | chunk
  | recLd | cbld
  | tv
  | qpop | qpush
  | pmtGet | pmtRet
  | dbgRd (target : GroupRef) (lane : BitVec 6) (reg : BitVec 9)
  | cpA | cpB | gth
  | tile (op : TileOp)
  deriving DecidableEq, Repr, Inhabited

/-- A predicate that fired: its number, source, action, lowest firing lane, the value compared (22 R333). -/
structure Firing where
  p : BitVec 4
  src : BitVec 4
  act : BitVec 3
  lane : Nat
  value : W64
  deriving DecidableEq, Repr

/-- A destination: file 0 none, 1 v, 2 s, 3 m, first register and number (18 R291). -/
structure Dest where
  file : BitVec 2
  reg : BitVec 7
  count : Nat
  deriving DecidableEq, Repr, Inhabited

/-- An operation issued and not complete: in flight, or an entry of the replay queue (11 R195, 18 R291). -/
structure Entry where
  id : Nat
  op : MemOp
  word : W32
  pc : W64
  split : BitVec 2
  /-- The split's lanes and the active lanes at issue. -/
  mask : Mask
  active : Mask
  mode : W64
  /-- Scalar operands in the order read. -/
  scal : List W64
  dest : Dest
  /-- Snapshots of the named records, and their numbers (06 R111). -/
  snaps : List W256
  recs : List (BitVec 10)
  /-- Operand blocks, each by lane (18 R291). -/
  blocks : List (SMap 32)
  accs : List Acc
  /-- Lanes performed. -/
  done : Mask
  /-- Byte ranges landed or, of a tile image, read or written: first, count (06 R126, R127, 08 R155). -/
  landed : List (Nat × Nat)
  /-- Values an atomic, chunk or pop has obtained and not yet written, by lane and register. -/
  result : SMap 64
  /-- Held by a replayable fault on this page, and an engine operation on further pages; the entry or byte offset held
  (18 R283, R284). -/
  held : Option W64
  more : List W64
  part : Nat
  /-- The cause this entry raises when performed, with its detail and address (18 R288, R291). -/
  err : BitVec 9
  detail : W64
  va : W64
  /-- Segments claimed before retirement (11 R189). -/
  claimed : Option Nat
  /-- Its claim has failed, and it is not yet re-injected (11 R189, R190). -/
  failed : Bool
  /-- Destination registers whose write dbg.wr.f has cancelled (22 R342). -/
  cancelled : List Reg
  /-- Pages whose fill the host refused, for an engine operation (18 R286). -/
  refused : List W64
  /-- Lanes of a store or update that another module refused, and those whose module was down (16 R263, 18 R298). -/
  shut : Mask × Mask
  /-- Translated before an invalidation still to complete (18 R280). -/
  stale : Bool
  /-- Load-value predicates as they stood at issue: number, record, arming (22 R332). -/
  watch : List (BitVec 4 × W256)
  /-- Predicates of the address and operand sources that fired on a load or returning atomic: their action lands when its
  registers are written (22 R334). -/
  fired : List Firing
  /-- A tile operation's place in the order its gang issued them (11 R189), and the codebook table it saw (10 R174). -/
  seq : Nat
  codebook : SMap 8
  deriving DecidableEq, Repr, Inhabited

/-- One counted operation of a group, in issue order (06 R123): class 0 to 3 copy by tag, 4 matrix, 5 gather, 6 bank. -/
structure Counted where
  cls : BitVec 3
  id : Nat
  done : Bool
  deriving DecidableEq, Repr, Inhabited

/-! ## Traps -/

/-- A deferred or watch trap that is due (18 R288). -/
structure Due where
  cause : BitVec 9
  tkind : BitVec 2
  pc : W64
  split : BitVec 2
  detail : W64
  va : W64
  /-- The operation that raised it (its issue number), and whether it goes to the replay queue. -/
  id : Nat
  queued : Bool
  hits : List (BitVec 128)
  /-- The lanes of the split it is taken at, where that split is not in the table (03 R28). -/
  lanes : Option Mask := none
  /-- A write of the group to the save area that failed: the group is killed there (19 R302). -/
  kills : Bool := false
  deriving DecidableEq, Repr, Inhabited

/-- The trap frame (18 R290). -/
structure Frame where
  active : Bool
  split : BitVec 2
  tkind : BitVec 2
  cause : BitVec 9
  pc : W64
  mask : Mask
  detail : W64
  va : W64
  splits : SplitTable
  /-- The overflow stack of the trapped splits, which stays in the save area (18 R289). -/
  stack : List Split
  hits : List (BitVec 128)
  /-- Traps that were due beside the one taken, of operations that are not queued (18 R288). -/
  later : List Due
  /-- The first issue number of the handler (18 R289, 19 R301). -/
  first : Nat
  deriving DecidableEq, Repr, Inhabited

/-- No trap taken. -/
def Frame.none : Frame :=
  { active := false, split := 0, tkind := 0, cause := 0, pc := 0, mask := 0, detail := 0, va := 0,
    splits := SplitTable.empty, stack := [], hits := [], later := [], first := 0 }

/-! ## Groups and gangs -/

/-- A group (03 R15 to R19, 04 R40). Vector and moment values by 64 × register + lane. -/
structure Group where
  idx : BitVec 5
  /-- LIVE (03 R16, R20). -/
  live : Mask
  v : SMap 32
  s : SMap 64
  m : SMap 64
  /-- Empty bits of the registers (04 R45). -/
  vEmpty : BitVec 128
  sEmpty : BitVec 64
  mEmpty : BitVec 32
  splits : SplitTable
  /-- The overflow stack, most recent first (03 R23). -/
  overflow : List Split
  counters : List Counted
  /-- Operations in flight, oldest first. -/
  flight : List Entry
  /-- The replay queue, oldest first, and what a trap found still with the core beyond the 16 that it holds (18 R289, log 79). -/
  rq : List Entry
  behind : List Entry
  due : List Due
  frame : Frame
  tsf : W64
  aef : W64
  tracectl : W64
  nextId : Nat
  /-- Killed (04 R62); retired (03 R36). -/
  killed : Bool
  retired : Bool
  /-- In the active set, and when it entered it; slot in its quadrant; cycles without a ready split; cycles waiting to move in
  (14 R241). -/
  inActive : Bool
  entered : Nat
  slot : BitVec 5
  idle : BitVec 16
  /-- A split of it has been ready in this cycle (14 R241). -/
  wasReady : Bool
  waitIn : BitVec 16
  /-- The cause and the address that a refused remote store left for the next system-scope fence or release (16 R263). -/
  fabricErr : BitVec 9
  fabricVa : W64
  /-- Error-log records that wait for those of earlier instructions: issue number, record (18 R298). -/
  logs : List (Nat × BitVec 128)
  /-- Trigger decisions asked by qflush that wait for earlier pushes: issue number, node (15 R252). -/
  flushes : List (Nat × BitVec 10)
  /-- Trace: branch bits not yet emitted, bits since SYNC, SYNC due, nothing emitted before it, last PC issued
  (22 R348, R349, R351). -/
  brBits : List Bool
  brSplit : BitVec 2
  brCount : BitVec 16
  syncDue : Bool
  quiet : Bool
  exitPc : W64
  /-- Cycles at the last TS packet or at the rise of EN, and at retirement (22 R349, R351). -/
  tsAt : W64
  retiredAt : W64
  /-- The cycle after the one in which it last issued `exit` (22 R351). -/
  exitAt : W64
  deriving DecidableEq, Repr, Inhabited

/-- A hardware barrier of a gang or a band: the mask in force, who has arrived, and the phase (06 R130). -/
structure SyncBar where
  mask : BitVec 32
  arrived : List (BitVec 5 × BitVec 5)
  phase : BitVec 1
  deriving DecidableEq, Repr, Inhabited

/-- What a tile holds besides its record (11 R183): nothing, elements and scale bytes, or factors.
Elements by 64 × row + column, cb2 indices by element / 8, scale bytes exclusive-or 0x7F by 2 × row + block,
factor elements by 64 × column + row. -/
inductive TileVal where
  | zero
  | dense (els : SMap 64) (scales : SMap 8)
  | lowRank (u v : SMap 64)
  deriving DecidableEq, Repr, Inhabited

/-- A launch record as read at acceptance (14 R231). -/
structure LaunchRec where
  doneAddr : W64
  bankKB : BitVec 16
  nq : BitVec 10
  handler : W64
  rtimg : W64
  param : W64
  code : W64
  gmem : BitVec 20
  tiles : BitVec 12
  gangs : BitVec 32
  paramN : BitVec 4
  band : BitVec 5
  mregs : BitVec 2
  vregs : BitVec 4
  last : BitVec 7
  gpg : BitVec 5
  prio : BitVec 2
  width : BitVec 2
  lfmt : BitVec 8
  deriving DecidableEq, Repr, Inhabited

/-- A gang (03 R15, R32). -/
structure Gang where
  /-- False only for the placeholder that stands where no gang is resident. -/
  present : Bool
  vf : BitVec 7
  seq : W64
  idx : BitVec 32
  launch : BitVec 32
  lrec : LaunchRec
  die : BitVec 3
  core : BitVec 7
  gmem : SMap 8
  /-- Lines of 64 bytes of gang memory that cannot be corrected (23 R363). -/
  badGmem : List Nat
  /-- Full granules (06 R120). -/
  granules : SMap 1
  /-- The local window d0 to d255 (06 R110). -/
  window : SMap 256
  /-- The codebook table, 768 bytes (10 R174). -/
  codebook : SMap 8
  /-- Segments reserved (11 R188). -/
  pool : BitVec 13
  tiles : List (Nat × TileVal)
  /-- Tiles whose segments hold bits that cannot be corrected (23 R363). -/
  badTiles : List Nat
  barriers : List (Nat × SyncBar)
  /-- Permits held: queue record number, count (15 R254); and the module of the queue where it is another one (16 R264). -/
  holders : List (BitVec 10 × W32)
  farHolders : List (BitVec 10 × BitVec 12)
  tvec : W64
  /-- Since when wholly blocked (14 R243). -/
  blockedSince : Option W64
  /-- Its band's index, where the launch has bands (03 R20, R33). -/
  band : Option (BitVec 32)
  deriving DecidableEq, Repr, Inhabited

/-- A gang with its groups. -/
structure Resident where
  gang : Gang
  groups : List Group
  deriving DecidableEq, Repr, Inhabited

/-- An evicted gang: its image, whether a wake condition has been met, in which order and when, and whether the condition
is always met (14 R235, R244, 19 R310). -/
structure Evicted where
  image : Resident
  woken : Bool
  order : Nat
  since : W64
  always : Bool
  deriving DecidableEq, Repr, Inhabited

/-- A band: its region, with its bytes while it is evicted, and its barriers (03 R33, 14 R236, R243). -/
structure Band where
  vf : BitVec 7
  seq : W64
  idx : BitVec 32
  base : BitVec 29
  bytes : Nat
  resident : Bool
  saved : SMap 8
  barriers : List (Nat × SyncBar)
  deriving DecidableEq, Repr, Inhabited

/-! ## Launches and contexts -/

/-- An accepted launch that has not completed (14 R232, 19 R305). -/
structure Launch where
  seq : W64
  id : BitVec 32
  lrec : LaunchRec
  params : List W64
  /-- The local-window image its gangs take (06 R110). -/
  window : SMap 256
  /-- TIME of its acceptance (14 R235). -/
  accepted : W64
  admitted : Nat
  retired : Nat
  killed : Bool
  status : BitVec 8
  successors : List (BitVec 10)
  /-- For a node's launch, the control block and the index of its first record (14 R240). -/
  node : Option (BitVec 29 × W32)
  deriving DecidableEq, Repr, Inhabited

/-- Records of a queue handed out and not yet free: control block, first index, count, whether done
(14 R240, 15 R250). -/
structure Claim where
  ctl : BitVec 29
  first : W32
  count : Nat
  done : Bool
  deriving DecidableEq, Repr, Inhabited

/-- A launch instruction that waits for acceptance (15 R248). -/
structure LaunchReq where
  g : GroupRef
  k : BitVec 2
  addr : W64
  deriving DecidableEq, Repr, Inhabited

/-- One entry of the watch table: number, record, arming gang and launch (22 R329). -/
structure Pred where
  p : BitVec 4
  record : W256
  gang : BitVec 32
  seq : W64
  deriving DecidableEq, Repr, Inhabited

/-- Records of one push that are not all claimed: control block, first index, count, TIME of the push (14 R238, R239). -/
structure Push where
  ctl : BitVec 29
  first : W32
  count : Nat
  time : W64
  deriving DecidableEq, Repr, Inhabited

/-- What a node's last trigger decision saw of its queue (14 R239). -/
structure Seen where
  node : BitVec 10
  tail : W32
  dep : W32
  deriving DecidableEq, Repr, Inhabited

/-- The context of a virtual function, but for its gangs (16 R258, 18 R292, 19 R301, R305, 22 R340, R345). -/
structure Context where
  vf : BitVec 7
  lqBase : W64
  lqSize : W64
  lqTail : W32
  lqHead : W32
  ptRoot : W64
  rtBase : W64
  cirq : Bool
  resetDone : Bool
  lwImg : W64
  cbImg : W64
  ctxErr : W64
  errPc : W64
  errLaunch : BitVec 32
  fqBase : W64
  fqSize : W64
  fqTail : W64
  fqHead : W64
  csBase : W64
  csSize : Nat
  csStat : BitVec 4
  dlBase : W64
  dlSize : W64
  dlTail : W32
  dlHead : W32
  dlOvf : Bool
  dlOn : Bool
  dbgMask : W64
  dmt0 : W64
  dmt1 : W64
  dmData : W64
  dmStat : W64
  nextSeq : W64
  launches : List Launch
  launchReqs : List LaunchReq
  elog : List (BitVec 128)
  elogOvf : W32
  wlog : List (BitVec 128)
  wlogOvf : W32
  watch : List Pred
  codebook : SMap 8
  /-- Keys granted (16 R270). -/
  keys : List (BitVec 13)
  /-- Bank regions held outside bands (13 R228). -/
  regions : List (BitVec 29 × BitVec 27)
  claims : List Claim
  pushes : List Push
  /-- Nodes that a qflush names, or whose DEP a launch's completion brought to 0, until their decision (14 R239). -/
  triggers : List (BitVec 10)
  seen : List Seen
  /-- Nodes decided since a launch completed; none where every node has been (14 R239). -/
  sweep : Option (List (BitVec 10))
  /-- Stopped by a capture (19 R301), and TIME when its image was written (19 R307). -/
  stopped : Bool
  stoppedAt : W64
  /-- Permits of other modules returned and not yet acknowledged: device, control block, count; and whether the report of a reset
  waits for them (16 R265). -/
  returns : List (BitVec 12 × BitVec 29 × W32)
  resetting : Bool
  /-- Fault records due for the host queue, in order: die, slot (18 R293). -/
  forward : List (BitVec 3 × BitVec 12)
  deriving DecidableEq, Repr, Inhabited

/-- A captured context: its state, its gangs, resident and evicted, its bank regions' bytes, and TIME at the capture
(19 R303, R305). -/
structure ContextImage where
  ctx : Context
  gangs : List Resident
  evicted : List Evicted
  bands : List Band
  bank : SMap 8
  at_ : W64
  /-- The bytes that the capture wrote to the save area, by which the image is found again (19 R303, R306). -/
  area : List Byte
  deriving DecidableEq, Repr, Inhabited

/-! ## The module -/

/-- A record of a fault buffer (18 R284). -/
structure FaultRec where
  die : BitVec 3
  slot : BitVec 12
  vf : BitVec 7
  va : W64
  entry : W32
  launch : BitVec 32
  gang : BitVec 32
  group : BitVec 5
  split : BitVec 2
  src : BitVec 3
  kind : BitVec 2
  write : Bool
  level : BitVec 3
  deriving DecidableEq, Repr, Inhabited

/-- A cached translation of a core (18 R280). -/
structure TlbEntry where
  vf : BitVec 7
  die : BitVec 3
  core : BitVec 7
  page : W64
  level : BitVec 3
  pte : BitVec 128
  pteAddr : BitVec 52
  deriving DecidableEq, Repr, Inhabited

/-- A cached non-leaf entry of a compute die: it names the table of a level for the addresses that agree with one of its own
above that table's reach (18 R280). -/
structure TableEntry where
  vf : BitVec 7
  die : BitVec 3
  level : BitVec 3
  va : W64
  table : BitVec 52
  deriving DecidableEq, Repr, Inhabited

/-- A core's copy of a shared record (06 R110, R112). -/
structure RecCopy where
  die : BitVec 3
  core : BitVec 7
  vf : BitVec 7
  n : BitVec 10
  r : W256
  deriving DecidableEq, Repr, Inhabited

/-- The copy of a predicate in a core's bank: matches since the last firing, firings (22 R329, R339). -/
structure WatchCount where
  die : BitVec 3
  core : BitVec 7
  vf : BitVec 7
  p : BitVec 4
  matches_ : BitVec 16
  firings : W32
  deriving DecidableEq, Repr, Inhabited

/-- A trace sink or sample buffer of a die: a circular buffer in memory (22 R347, R351). -/
structure Sink where
  base : W64
  size : W64
  tail : W64
  head : W64
  deriving DecidableEq, Repr, Inhabited

/-- Sampling of a die: SMCTL, cycles when it was written, and by 4 × core + quadrant the samples taken since and the slot
after the last group sampled (22 R351). -/
structure Sampler where
  ctl : BitVec 6
  start : W64
  taken : SMap 64
  next : SMap 8
  deriving DecidableEq, Repr, Inhabited

/-- A remote-holder entry (16 R265). -/
structure RemoteHolder where
  device : BitVec 12
  context : BitVec 7
  gang : GangRef
  ctl : BitVec 29
  count : W32
  deriving DecidableEq, Repr, Inhabited

/-- Repairs and throttles, which no program sees (23 R357, R361). -/
structure Service where
  powerCap : BitVec 16
  /-- Arithmetic clock lowered, in 100 MHz steps; dies lowered for temperature. -/
  clockSteps : BitVec 8
  slowDies : BitVec 8
  rowRemaps : List (BitVec 4 × BitVec 32 × BitVec 32)
  channels : List (Bool × BitVec 16 × Bool)
  lanes : List (BitVec 4 × BitVec 3)
  /-- Cores retired onto spares, and those retired where the die held none: die and logical core (19 R310). -/
  spares : List (BitVec 3 × BitVec 7)
  failed : List (BitVec 3 × BitVec 7)
  keyStore : List (BitVec 13 × BitVec 512)
  /-- Cores whose register file is repaired in place: bytes left of the active and of the backing file (19 R306, R310). -/
  repaired : List ((BitVec 3 × BitVec 7) × BitVec 20 × BitVec 21)
  /-- Cores found failing, not yet retired; operations a soft error was found in: group, issue number (19 R310, 23 R362). -/
  failing : List (BitVec 3 × BitVec 7)
  softErrors : List (GroupRef × Nat)
  deriving DecidableEq, Repr, Inhabited

/-- What is read out of a frozen module: the state of its dies (22 R354). -/
structure ReadOut where
  residents : List Resident
  evicted : List Evicted
  bands : List Band
  contexts : List Context
  bank : List Host.Cell
  tlb : List TlbEntry
  dieTlb : List TlbEntry
  tables : List TableEntry
  recCache : List RecCopy
  faults : List FaultRec
  watchCounts : List WatchCount
  exports : SMap 128
  remoteHolders : List RemoteHolder
  sinks : List Sink
  sampleSinks : List Sink
  samplers : List Sampler
  service : Service
  device : BitVec 12
  down : List (BitVec 12)
  msix : List (BitVec 7 × BitVec 2)
  reserving : List GangRef
  freeFrames : List (BitVec 3 × BitVec 52)
  firmware : W64
  onHd1 : Bool
  lost : SMap 64
  coreStart : SMap 64
  slewedAt : W64
  time : W64
  cycles : W64
  deriving DecidableEq, Repr

/-- An answer of this module to a message or a management request (16 R263 to R265, R271, 22 R354, 23 R360, R364). -/
inductive Reply where
  | data (dev : BitVec 12) (bytes : List Byte)
  | acknowledged (dev : BitVec 12)
  | refused (dev : BitVec 12)
  | host (bytes : List Byte)
  | register (value : W64)
  | sensor (v : BitVec 32)
  | frozen (cause : BitVec 2) (state : ReadOut)
  | image (accepted : Bool)
  | certificates
  | measurements (bootRom firmware : W64) (exports : SMap 128) (grants : List (BitVec 7 × List (BitVec 13)))
  | keyInstalled (ok : Bool)
  | uncorrectable (line : BitVec 46)
  /-- An uncorrectable line of bank memory, by its number, or of a core's gang memory, by the gang, the core and the line (23 R363). -/
  | uncorrectableBank (line : BitVec 23)
  | uncorrectableGmem (gang : GangRef) (die : BitVec 3) (core : BitVec 7) (line : Nat)
  /-- A tile whose segments cannot be corrected (23 R363). -/
  | uncorrectableTile (gang : GangRef) (die : BitVec 3) (core : BitVec 7) (record : Nat)
  deriving DecidableEq, Repr

/-- Power and clocks (22 R354, 23 R356 to R359). -/
inductive Power where
  | off
  | on
  /-- Frozen: 1 by the pin, 2 by command, 0 by a thermal trip. -/
  | frozen (cause : BitVec 2)
  deriving DecidableEq, Repr

/-- The module, one group of it in focus. -/
structure State where
  /-- The gang and the group in focus, and the index of the executing split (03 R20). -/
  gang : Gang
  grp : Group
  k : BitVec 2
  /-- The other groups of the gang in focus, and the other resident gangs. -/
  peers : List Group
  others : List Resident
  evicted : List Evicted
  bands : List Band
  contexts : List Context
  images : List ContextImage
  /-- Memory by physical address (18 R276), and bank memory by module bank address (06 R106). -/
  mem : List Host.Cell
  bank : List Host.Cell
  /-- The key each 64-byte line of memory was last written under through a page: 1, then the key's bits (16 R270). -/
  lineKeys : SMap 513
  /-- Cached translations of cores, of dies, and cached non-leaf entries; record caches (18 R280, 06 R110). -/
  tlb : List TlbEntry
  dieTlb : List TlbEntry
  tables : List TableEntry
  recCache : List RecCopy
  faults : List FaultRec
  /-- Free frames of the firmware, by the level of their page: tier-1 frames, and tier-2 frames of pages it has moved (18 R285). -/
  tier1Free : List (BitVec 3 × BitVec 52)
  tier2Free : List (BitVec 3 × BitVec 52)
  uncorrectable : List (BitVec 46)
  /-- Lines of 64 bytes of bank memory that cannot be corrected (23 R363). -/
  badBank : List (BitVec 23)
  time : W64
  /-- TIME at the last correction by a slew (16 R266). -/
  slewedAt : W64
  /-- Arithmetic-clock cycles, and what a core's own count of them was at its last reset, by 128 × die + core (04 R53). -/
  cycles : W64
  /-- Cycles that the cores of a die have lost to a lowered clock since the module's last reset, by die (23 R357). -/
  lost : SMap 64
  coreStart : SMap 64
  device : BitVec 12
  exports : SMap 128
  remoteHolders : List RemoteHolder
  down : List (BitVec 12)
  watchCounts : List WatchCount
  sinks : List Sink
  sampleSinks : List Sink
  samplers : List Sampler
  /-- Groups that retired with their gang in this cycle, for sampling (22 R351). -/
  exited : List (Gang × Group)
  msix : List (BitVec 7 × BitVec 2)
  replies : List Reply
  power : Power
  /-- Firmware: the image that runs, the inactive copy, whether the active command processor is on HD1 (23 R358, R360). -/
  firmware : W64
  inactive : Option W64
  onHd1 : Bool
  service : Service
  /-- Candidates that reserve (14 R235). -/
  reserving : List GangRef
  /-- Moves to be made, the next first; the model's own (log 1). -/
  agenda : List Move
  /-- Counters the free values are applied to; the model's own (log 2). -/
  tick : Nat
  free : Nat
  order : Nat
  /-- A debug step runs (22 R343): held splits may issue; 1 once its instruction had to wait. The model's own. -/
  stepping : Option (BitVec 4)
  deriving DecidableEq, Repr

/-! ## Reset -/

/-- The launch record of the placeholder. -/
def LaunchRec.blank : LaunchRec :=
  { doneAddr := 0, bankKB := 0, nq := 0, handler := 0, rtimg := 0, param := 0, code := 0, gmem := 0, tiles := 0,
    gangs := 0, paramN := 0, band := 0, mregs := 0, vregs := 0, last := 0, gpg := 0, prio := 0, width := 0, lfmt := 0 }

/-- A group at its start, but for what its launch gives it: registers full and zero (04 R43). -/
def Group.blank : Group :=
  { idx := 0, live := 0, v := [], s := [], m := [], vEmpty := 0, sEmpty := 0, mEmpty := 0, splits := SplitTable.empty,
    overflow := [], counters := [], flight := [], rq := [], behind := [], due := [], frame := Frame.none, tsf := 0, aef := 0,
    tracectl := 0, nextId := 0, killed := false, retired := false, inActive := false, entered := 0, slot := 0, idle := 0, wasReady := false, waitIn := 0,
    fabricErr := 0, fabricVa := 0, logs := [], flushes := [], brBits := [], brSplit := 0, brCount := 0, syncDue := false, quiet := false, exitPc := 0, tsAt := 0, retiredAt := 0, exitAt := 0 }

/-- The placeholder that stands where no gang is resident. -/
def Gang.blank : Gang :=
  { present := false, vf := 0, seq := 0, idx := 0, launch := 0, lrec := LaunchRec.blank, die := 0, core := 0, gmem := [], badGmem := [],
    granules := [], window := [], codebook := [], pool := 0, tiles := [], badTiles := [], barriers := [], holders := [], farHolders := [],
    tvec := 0, blockedSince := none, band := none }

/-- A context after reset (16 R258, 18 R292, 19 R301, 22 R345). -/
def Context.reset (vf : BitVec 7) : Context :=
  { vf := vf, lqBase := 0, lqSize := 4, lqTail := 0, lqHead := 0, ptRoot := 0, rtBase := 0, cirq := false,
    resetDone := false, lwImg := 0, cbImg := 0, ctxErr := 0, errPc := 0, errLaunch := 0, fqBase := 0, fqSize := 4,
    fqTail := 0, fqHead := 0, csBase := 0, csSize := 0, csStat := 0, dlBase := 0, dlSize := 10, dlTail := 0,
    dlHead := 0, dlOvf := false, dlOn := false, dbgMask := 0, dmt0 := 0, dmt1 := 0, dmData := 0, dmStat := 0,
    nextSeq := 1, launches := [], launchReqs := [], elog := [], elogOvf := 0, wlog := [], wlogOvf := 0, watch := [],
    codebook := [], keys := [], regions := [], claims := [], pushes := [], triggers := [], seen := [],
    sweep := none, stopped := false, stoppedAt := 0, returns := [], resetting := false, forward := [] }

/-- An empty sink (log 6). -/
def Sink.reset : Sink := { base := 0, size := 0, tail := 0, head := 0 }

/-- Sampling off (log 6). -/
def Sampler.reset : Sampler := { ctl := 0, start := 0, taken := [], next := [] }

/-- Nothing repaired, no cap below the module's most (00 R6, log 6). -/
def Service.reset : Service :=
  { powerCap := 4800, clockSteps := 0, slowDies := 0, rowRemaps := [], channels := [], lanes := [], spares := [], failed := [],
    keyStore := [], repaired := [], failing := [], softErrors := [] }

/-- The module after a cold reset and its power-on sequence (23 R358, R359): 64 contexts at their reset values, no gang
resident, memory with nothing listed, TIME 0 and device number 0. -/
def State.reset : State :=
  { gang := Gang.blank, grp := Group.blank, k := 0, peers := [], others := [], evicted := [], bands := [],
    contexts := (List.range 64).map fun i => Context.reset (BitVec.ofNat 7 (i + 1)),
    images := [], mem := [], bank := [], lineKeys := [], tlb := [], dieTlb := [], tables := [], recCache := [], faults := [], tier1Free := [], tier2Free := [], uncorrectable := [], badBank := [], time := 0, slewedAt := 0, cycles := 0, lost := [], coreStart := [],
    device := 0, exports := [], remoteHolders := [], down := [], watchCounts := [],
    sinks := List.replicate 8 Sink.reset, sampleSinks := List.replicate 8 Sink.reset,
    samplers := List.replicate 8 Sampler.reset, exited := [], msix := [], replies := [], power := .on, firmware := 0, inactive := some 0,
    onHd1 := false, service := Service.reset, reserving := [], agenda := [], tick := 0, free := 0, order := 0, stepping := none }

end Sys2Proof.Machine
end

