-- ==== Sys2Proof/Machine/Records.lean ====
section
/-!
DEFINITION. Sys2Proof/Machine/Records.lean: the fields of records, of MODE and of launch records, element sizes and the
cause codes (06 R103, R104, 11 R181, 14 R231, R237, 22 R330, 04 R49, 18 R299).
-/

namespace Sys2Proof.Machine

/-! ## Cause codes (18 R299) -/

def cILLEGAL : BitVec 9 := 0x001
def cREG_RANGE : BitVec 9 := 0x002
def cTYPE_UNSUPPORTED : BitVec 9 := 0x003
def cMODE_VALUE : BitVec 9 := 0x004
def cREG_EMPTY : BitVec 9 := 0x005
def cPC_ALIGN : BitVec 9 := 0x006
def cBRK : BitVec 9 := 0x007
def cRTE_STATE : BitVec 9 := 0x008
def cPAGE_INVALID : BitVec 9 := 0x040
def cPAGE_READ : BitVec 9 := 0x041
def cPAGE_WRITE : BitVec 9 := 0x042
def cPAGE_EXEC : BitVec 9 := 0x043
def cKEY_DENIED : BitVec 9 := 0x044
def cADDR_RANGE : BitVec 9 := 0x045
def cWALK_ERROR : BitVec 9 := 0x046
def cFILL_REFUSED : BitVec 9 := 0x047
def cALIGN : BitVec 9 := 0x048
def cBOUNDS : BitVec 9 := 0x049
def cGMEM_RANGE : BitVec 9 := 0x04A
def cBANK_RANGE : BitVec 9 := 0x04B
def cMEM_UNCORR : BitVec 9 := 0x04C
def cFABRIC_REFUSED : BitVec 9 := 0x04D
def cFABRIC_DOWN : BitVec 9 := 0x04E
def cREC_KIND : BitVec 9 := 0x050
def cREC_FORMAT : BitVec 9 := 0x051
def cREC_SPACE : BitVec 9 := 0x052
def cREC_VALUE : BitVec 9 := 0x053
def cREC_PERM : BitVec 9 := 0x054
def cREC_FIELD : BitVec 9 := 0x055
def cREC_BUSY : BitVec 9 := 0x056
def cENGINE_VALUE : BitVec 9 := 0x057
def cNAN_PROD : BitVec 9 := 0x080
def cOVERFLOW : BitVec 9 := 0x081
def cDIV_ZERO : BitVec 9 := 0x082
def cCVT_INVALID : BitVec 9 := 0x083
def cTILE_RECORD : BitVec 9 := 0x0C0
def cTILE_FORMAT : BitVec 9 := 0x0C1
def cTILE_KIND : BitVec 9 := 0x0C2
def cTILE_SHAPE : BitVec 9 := 0x0C3
def cTILE_VALUE : BitVec 9 := 0x0C4
def cTILE_NOSPACE : BitVec 9 := 0x0C5
def cNEG_VAR : BitVec 9 := 0x100
def cMASK_OUTSIDE : BitVec 9 := 0x140
def cMASK_DISAGREE : BitVec 9 := 0x141
def cMODE_MISMATCH : BitVec 9 := 0x142
def cJOIN_DEADLOCK : BitVec 9 := 0x143
def cSPLIT_OVERFLOW : BitVec 9 := 0x144
def cBAR_VALUE : BitVec 9 := 0x145
def cBAR_OVERARRIVE : BitVec 9 := 0x146
def cQUEUE_NODE : BitVec 9 := 0x180
def cQUEUE_SIZE : BitVec 9 := 0x181
def cQUEUE_REMOTE : BitVec 9 := 0x182
def cDONE_FULL : BitVec 9 := 0x183
def cPMT_OVER : BitVec 9 := 0x184
def cPMT_TABLE : BitVec 9 := 0x185
def cWATCH_TRAP : BitVec 9 := 0x1C0
def cWATCH_RECORD : BitVec 9 := 0x1C1
def cDBG_CAP : BitVec 9 := 0x1C2
def cDBG_TARGET : BitVec 9 := 0x1C3
def cSW0 : BitVec 9 := 0x1E0

/-! ## MODE (04 R49) -/

def modeG (m : W64) : BitVec 6 := field m 0 6
def modeT (m : W64) : BitVec 5 := field m 6 5
def modeRM (m : W64) : BitVec 2 := field m 11 2
def modeFTZ (m : W64) : Bool := m.getLsbD 13
def modeSAT (m : W64) : Bool := m.getLsbD 14
def modeCOV (m : W64) : BitVec 2 := field m 15 2
def modeNVM (m : W64) : BitVec 2 := field m 17 2
def modeRKM (m : W64) : BitVec 2 := field m 19 2
def modeRKT (m : W64) : BitVec 6 := field m 21 6
def modeTOVF (m : W64) : Bool := m.getLsbD 27
def modePROMO (m : W64) : Bool := m.getLsbD 28

/-- The values setm accepts (04 R51). -/
def modeOk (m : W64) : Bool :=
  (modeT m).toNat ≤ 20 && modeCOV m != 3 && modeNVM m != 3 && field m 29 35 == 0

/-! ## Element types (04 R50, 06 R104, 10 R163, R166) -/

/-- Element types that fill a register pair. -/
def is64 (t : BitVec 5) : Bool := t == 2 || t == 3 || t == 9

/-- Bits of an element; cb2 counts one index of 16 bits. -/
def typeBits (t : BitVec 5) : Nat :=
  match t.toNat with
  | 0 | 1 | 8 | 20 => 32
  | 2 | 3 | 9 | 19 => 64
  | 4 | 5 | 10 | 11 | 18 => 16
  | 6 | 7 | 12 | 13 | 17 => 8
  | 14 | 15 => 6
  | 16 => 4
  | _ => 0

/-- ESIZE of a format code (06 R104): none for the packed types and reserved codes. -/
def esize (f : BitVec 8) : Option Nat :=
  match f.toNat with
  | 6 | 7 | 12 | 13 | 17 => some 1
  | 4 | 5 | 10 | 11 => some 2
  | 0 | 1 | 8 | 20 => some 4
  | 2 | 3 | 9 | 19 => some 8
  | _ => none

/-- The signed integer types. -/
def isInt (t : BitVec 5) : Bool := t == 0 || t == 2 || t == 4 || t == 6
/-- The vector float types f32, f64, f16, bf16. -/
def isFloat (t : BitVec 5) : Bool := t == 8 || t == 9 || t == 10 || t == 11

/-! ## Record headers and buffer records (06 R103) -/

def recKind (r : W256) : BitVec 8 := field r 0 8
def recRO (r : W256) : Bool := r.getLsbD 8
def recGen (r : W256) : BitVec 16 := field r 16 16
def bufBase (r : W256) : W64 := field r 32 64
def bufExtent (r : W256) : BitVec 48 := field r 96 48
def bufStride1 (r : W256) : BitVec 32 := field r 144 32
def bufStride2 (r : W256) : BitVec 32 := field r 176 32
def bufFmt (r : W256) : BitVec 8 := field r 208 8
def bufBounds (r : W256) : BitVec 2 := field r 216 2
def bufExp (r : W256) : BitVec 2 := field r 218 2
def bufSpace (r : W256) : BitVec 3 := field r 220 3
def bufScope (r : W256) : BitVec 3 := field r 223 3
def bufCpol (r : W256) : BitVec 2 := field r 226 2

/-- A word with the n bits from lo replaced. -/
def putField {m n : Nat} (w : BitVec m) (lo : Nat) (v : BitVec n) : BitVec m :=
  (w &&& ~~~(((BitVec.allOnes n).setWidth m) <<< lo)) ||| ((v.setWidth m) <<< lo)

/-- GEN advanced by one, wrapping (06 R103). -/
def bumpGen (r : W256) : W256 := putField r 16 (recGen r + 1)

/-- An image without its must-be-zero bits (00 R10, 06 R136). -/
def cleanImage (r : W256) : W256 :=
  match (recKind r).toNat with
  | 1 => r &&& ~~~((BitVec.allOnes 256 <<< 228) ||| (0xFE00 : W256))
  | 2 => r &&& ~~~((BitVec.allOnes 256 <<< 100) ||| (0xFE00 : W256))
  | 3 => putField (putField (putField (putField r 240 (0 : BitVec 16)) 114 (0 : BitVec 3)) 96 (0 : BitVec 11)) 9 (0 : BitVec 7)
  | 4 => putField (putField r 32 (0 : BitVec 3)) 14 (0 : BitVec 2)
  | _ => r

/-! ## Tile records (11 R181) -/

def tileFmt (r : W256) : BitVec 8 := field r 32 8
def tileTK (r : W256) : BitVec 2 := field r 40 2
def tileRank (r : W256) : BitVec 5 := field r 42 5
def tileKcap (r : W256) : BitVec 5 := field r 47 5
def tileMom (r : W256) : Bool := r.getLsbD 52
def tilePrec (r : W256) : Bool := r.getLsbD 53
def tileSegbase (r : W256) : BitVec 12 := field r 54 12
def tileSegs (r : W256) : BitVec 12 := field r 66 12
def tileRows (r : W256) : BitVec 7 := field r 78 7
def tileCols (r : W256) : BitVec 7 := field r 85 7
def tileScale (r : W256) : BitVec 8 := field r 92 8

/-! ## Queue records (14 R237) -/

def qNode (r : W256) : Bool := r.getLsbD 8
def qBase (r : W256) : W64 := field r 32 64
def qCapLog (r : W256) : BitVec 5 := field r 107 5
def qRsz (r : W256) : BitVec 2 := field r 112 2
def qThresh (r : W256) : BitVec 12 := field r 117 12
def qTimer (r : W256) : BitVec 16 := field r 129 16
/-- The address of the control block; its bits [4:0] are zero. -/
def qCtl (r : W256) : BitVec 29 := field r 145 29 &&& ~~~31
def qLrec (r : W256) : W64 := ((field r 174 50).setWidth 64) <<< 7
def qPermits (r : W256) : BitVec 16 := field r 224 16
/-- Bytes of one record: 16, 32 or 64. -/
def qBytes (r : W256) : Nat := 16 * 2 ^ (qRsz r).toNat
/-- Records a queue holds. -/
def qCap (r : W256) : Nat := 2 ^ (qCapLog r).toNat
/-- The byte offset of the slot of an index (14 R238). -/
def qOffset (r : W256) (i : W32) : W64 := BitVec.ofNat 64 (i.toNat % qCap r * qBytes r)
/-- The address of slot 0, taken as a multiple of the record size (log 16). -/
def qSlots (r : W256) : W64 := BitVec.ofNat 64 ((qBase r).toNat / qBytes r * qBytes r)

/-! ## Watch records (22 R330, R331) -/

def wOpb (r : W256) : W64 := field r 192 64
def wOpa (r : W256) : W64 := field r 128 64
def wLanes (r : W256) : Mask := field r 64 64
def wCount (r : W256) : BitVec 16 := field r 48 16
def wSrc (r : W256) : BitVec 4 := field r 44 4
def wCmp (r : W256) : BitVec 4 := field r 40 4
def wAct (r : W256) : BitVec 3 := field r 37 3
def wGangSel (r : W256) : BitVec 2 := field r 35 2
def wGroupSel (r : W256) : BitVec 6 := field r 8 6

/-- A watch record with a reserved value or a count of 0 (22 R330). -/
def watchMalformed (r : W256) : Bool :=
  7 < (wSrc r).toNat || 7 < (wCmp r).toNat || 4 < (wAct r).toNat || wGangSel r == 3 || wCount r == 0

/-! ## Launch records (14 R231) -/

/-- The fields of a 128-byte launch record; must-be-zero bits are ignored (10 R176). -/
def LaunchRec.ofBits (r : BitVec 1024) : LaunchRec :=
  { doneAddr := field r 448 64, bankKB := field r 394 16, nq := field r 384 10, handler := field r 320 64,
    rtimg := field r 256 64, param := field r 192 64, code := field r 128 64, gmem := field r 108 20,
    tiles := field r 96 12, gangs := field r 64 32, paramN := field r 35 4, band := field r 30 5, mregs := field r 28 2,
    vregs := field r 24 4, last := field r 17 7, gpg := field r 12 5, prio := field r 10 2, width := field r 8 2,
    lfmt := field r 0 8 }

/-- Lanes of a group (14 R231). -/
def LaunchRec.lanes (r : LaunchRec) : Nat := 16 * 2 ^ r.width.toNat
/-- Vector registers declared. -/
def LaunchRec.nv (r : LaunchRec) : Nat := 8 * (r.vregs.toNat + 1)
/-- Moment registers declared. -/
def LaunchRec.nm (r : LaunchRec) : Nat :=
  match r.mregs.toNat with | 0 => 0 | 1 => 8 | 2 => 16 | _ => 32
/-- Groups of a gang. -/
def LaunchRec.groups (r : LaunchRec) : Nat := r.gpg.toNat + 1
/-- Bytes of register file of a group, a whole number of KiB (03 R18). -/
def LaunchRec.footprint (r : LaunchRec) : Nat := ((r.lanes * (4 * r.nv + 8 * r.nm) + 1023) / 1024) * 1024

end Sys2Proof.Machine
end

