-- ==== Sys2Proof/Machine/Memory.lean ====
section
/-!
DEFINITION. Sys2Proof/Machine/Memory.lean: contexts, physical, gang and bank memory, and address translation
(06 R106, 18 R275 to R282, 19 R309).
Memory is one coherent copy: caches change no value one core can show (log 3); a byte never written reads as zero (log 5).
-/

namespace Sys2Proof.Machine

/-! ## Contexts -/

/-- The context of a virtual function. -/
def State.ctx (s : State) (vf : BitVec 7) : Context :=
  (s.contexts.find? fun c => c.vf == vf).getD (Context.reset vf)

/-- One context changed. -/
def State.updCtx (s : State) (vf : BitVec 7) (f : Context → Context) : State :=
  { s with contexts := s.contexts.map fun c => if c.vf == vf then f c else c }

/-- An MSI-X vector raised (16 R259). -/
def State.raiseMsix (s : State) (vf : BitVec 7) (vec : BitVec 2) : State :=
  { s with msix := s.msix ++ [(vf, vec)] }

/-- A value of the counter that free values are applied to, and the state with the counter advanced. -/
def State.fresh (s : State) : Nat × State := (s.free, { s with free := s.free + 1 })

/-! ## Physical memory -/

/-- The regions of physical addresses (18 R276). -/
inductive Region where
  | fabric | host | tier1 | tier2 | none
  deriving DecidableEq, Repr

/-- The region of a physical address. -/
def regionOf (pa : BitVec 52) : Region :=
  if pa.getLsbD 51 then .fabric
  else if pa.getLsbD 50 then .host
  else if pa.toNat < 2 ^ 40 then .tier1
  else if 2 ^ 41 ≤ pa.toNat && pa.toNat < 2 ^ 41 + 9 * 2 ^ 39 then .tier2
  else .none

/-- Both memories of the machine are in their canonical form. -/
def State.memWf (s : State) : Bool := Memory.wf s.mem && Memory.wf s.bank

/-- n bytes of physical memory. -/
def State.readPhys (s : State) (pa : BitVec 52) (n : Nat) : List Byte := SMap.getRange s.mem pa.toNat n

/-- Bytes written to physical memory. -/
def State.writePhys (s : State) (pa : BitVec 52) (b : List Byte) : State :=
  { s with mem := SMap.setRange s.mem pa.toNat b }

/-- n bytes of bank memory. -/
def State.readBank (s : State) (a : BitVec 29) (n : Nat) : List Byte := SMap.getRange s.bank a.toNat n

/-- Bytes written to bank memory. -/
def State.writeBank (s : State) (a : BitVec 29) (b : List Byte) : State :=
  { s with bank := SMap.setRange s.bank a.toNat b }

/-- A number of n bytes in bank memory. -/
def State.bankWord (s : State) (a : BitVec 29) (n : Nat) : Nat := ofBytes (s.readBank a n)

/-- The 64-byte line of a physical address. -/
def lineOf (pa : BitVec 52) : BitVec 46 := field pa 6 46

/-- A physical address in the copy of a mirrored page (18 R278). -/
def mirrorOf (pa : BitVec 52) : BitVec 52 := pa ^^^ (1#52 <<< 39)

/-- Memory at a physical address, read by the module: another module's bytes are free (16 R263). -/
def State.readAny (s : State) (pa : BitVec 52) (n : Nat) : List Byte × State :=
  if regionOf pa = .fabric then
    let word (i : Nat) : W64 := Config.remoteData (s.free + i / 8)
    ((List.range n).map fun i => (word i >>> (8 * (i % 8))).setWidth 8, { s with free := s.free + (n + 7) / 8 })
  else (s.readPhys pa n, s)

/-! ## Encryption (16 R270) -/

/-- The bits of a key. -/
def State.keyBits (s : State) (k : BitVec 13) : BitVec 512 :=
  ((s.service.keyStore.find? fun x => x.1 == k).map (·.2)).getD 0

/-- The key that a line was last written under through a page. -/
def State.lineKey (s : State) (line : BitVec 46) : Option (BitVec 512) :=
  if (s.lineKeys.get line.toNat).getLsbD 512 then some ((s.lineKeys.get line.toNat).setWidth 512) else none

/-- The bytes of a line as an access reads them: as written, but for a line of tier-1 or tier-2 memory written under another
key than the access's. -/
def State.lineBytes (s : State) (line : BitVec 46) (key : Option (BitVec 13)) : List Byte :=
  let base : BitVec 52 := line ++ 0#6
  let plain := s.readPhys base 64
  match key, s.lineKey line with
  | some k, some w =>
    if w = s.keyBits k || !(regionOf base == .tier1 || regionOf base == .tier2) then plain
    else (List.range 64).map (Config.otherKey line w (s.keyBits k) plain)
  | _, _ => plain

/-- n bytes within one line as an access reads them. -/
def State.readKeyed (s : State) (pa : BitVec 52) (n : Nat) (key : Option (BitVec 13)) : List Byte :=
  match key, s.lineKey (lineOf pa) with
  | some _, some _ => ((s.lineBytes (lineOf pa) key).drop (pa.toNat % 64)).take n
  | _, _ => s.readPhys pa n

/-- A line about to be written under a key: what that key makes of it, and the key noted. -/
def State.rekey (s : State) (line : BitVec 46) (k : BitVec 13) : State :=
  let s := if s.lineKey line = some (s.keyBits k) || s.lineKey line = none then s
    else s.writePhys (line ++ 0#6) (s.lineBytes line (some k))
  { s with lineKeys := s.lineKeys.set line.toNat (1#1 ++ s.keyBits k) }

/-- Bytes written under the key of a page. -/
def State.writeKeyed (s : State) (pa : BitVec 52) (key : Option (BitVec 13)) (b : List Byte) : State :=
  match key with
  | none => s.writePhys pa b
  | some k =>
    let first := pa.toNat / 64
    let count := (pa.toNat + b.length + 63) / 64 - first
    ((List.range count).foldl (fun s i => s.rekey (BitVec.ofNat 46 (first + i)) k) s).writePhys pa b

/-! ## Uncorrectable lines and mirrored pages (18 R278, 23 R363) -/

/-- A read within one line: an uncorrectable line is reported, and read from its copy and rewritten where the page is
mirrored and the copy is good; else there is nothing to read (23 R363). -/
def State.readLine (s : State) (pa : BitVec 52) (n : Nat) (v : Via) : Option (List Byte) × State :=
  if !s.uncorrectable.contains (lineOf pa) then (some (s.readKeyed pa n v.key), s)
  else
    let s := { s with replies := s.replies ++ [.uncorrectable (lineOf pa)] }
    if !v.mirror then (none, s)
    else if s.uncorrectable.contains (lineOf (mirrorOf pa)) then
      (none, { s with replies := s.replies ++ [.uncorrectable (lineOf (mirrorOf pa))] })
    else
      let line : BitVec 52 := lineOf pa ++ 0#6
      let s := s.writePhys line (s.readPhys (mirrorOf line) 64)
      let s := { s with uncorrectable := s.uncorrectable.filter (· != lineOf pa) }
      (some (s.readKeyed pa n v.key), s)

/-- Bytes written at a translated address, in both copies of a mirrored page (18 R278). -/
def State.writeBoth (s : State) (pa : BitVec 52) (v : Via) (b : List Byte) : State :=
  let s := s.writeKeyed pa v.key b
  if v.mirror then s.writeKeyed (mirrorOf pa) v.key b else s

/-- The answer of the fabric to one access of another module: none where it is performed, else the cause (16 R263). -/
def State.fabric (s : State) (pa : BitVec 52) : Option (BitVec 9) × State :=
  let dev : BitVec 12 := field pa 39 12
  if dev = s.device then (some cFABRIC_REFUSED, s)
  else if s.down.contains dev then (some cFABRIC_DOWN, s)
  else
    let (i, s) := s.fresh
    (if Config.remoteRefused i then some cFABRIC_REFUSED else none, s)

/-- Bytes read at a translated address: another module's through the fabric; the cause where they may not be had. -/
def State.readPa (s : State) (pa : BitVec 52) (n : Nat) (v : Via) : Except (BitVec 9) (List Byte) × State :=
  if regionOf pa = .fabric then
    match s.fabric pa with
    | (some c, s) => (.error c, s)
    | (none, s) => (.ok (s.readAny pa n).1, (s.readAny pa n).2)
  else match s.readLine pa n v with
    | (some b, s) => (.ok b, s)
    | (none, s) => (.error cMEM_UNCORR, s)

/-- Bytes written at a translated address; the cause where another module refuses them (16 R263). -/
def State.writePa (s : State) (pa : BitVec 52) (v : Via) (b : List Byte) : Option (BitVec 9) × State :=
  if regionOf pa = .fabric then s.fabric pa else (none, s.writeBoth pa v b)

/-! ## Translation -/

/-- What an access asks of its page (18 R278). -/
inductive Access where
  | read | write | both | fetch
  deriving DecidableEq, Repr

/-- The outcome of a translation (18 R282). -/
inductive Trans where
  /-- The physical address, and how memory is reached there. -/
  | ok (pa : BitVec 52) (via : Via)
  /-- Replayable: level of the walk; migrate on touch. -/
  | replay (level : BitVec 3) (mot : Bool)
  | trap (cause : BitVec 9)
  deriving DecidableEq, Repr

def pteV (e : BitVec 128) : Bool := e.getLsbD 0
def pteLeaf (e : BitVec 128) : Bool := e.getLsbD 1
def pteFill (e : BitVec 128) : Bool := e.getLsbD 2
def pteAddr (e : BitVec 128) : BitVec 52 := (field e 9 43 : BitVec 43) ++ 0#9
def pteR (e : BitVec 128) : Bool := e.getLsbD 68
def pteW (e : BitVec 128) : Bool := e.getLsbD 69
def pteX (e : BitVec 128) : Bool := e.getLsbD 70
def pteA (e : BitVec 128) : Bool := e.getLsbD 71
def pteD (e : BitVec 128) : Bool := e.getLsbD 72
def pteTSO (e : BitVec 128) : Bool := e.getLsbD 73
def pteTier (e : BitVec 128) : Bool := e.getLsbD 74
def pteMOT (e : BitVec 128) : Bool := e.getLsbD 75
def pteMirror (e : BitVec 128) : Bool := e.getLsbD 76
def pteKey (e : BitVec 128) : BitVec 13 := field e 77 13

/-- Bits of the offset in a page, by the level of its leaf (18 R277). -/
def pageBits (level : Nat) : Nat :=
  match level with | 0 => 16 | 1 => 21 | _ => 30

/-- The index of a virtual address at a level (18 R277). -/
def walkIndex (va : W64) (level : Nat) : Nat :=
  match level with
  | 0 => (field va 16 5).toNat
  | 1 => (field va 21 9).toNat
  | 2 => (field va 30 9).toNat
  | 3 => (field va 39 9).toNat
  | _ => (field va 48 9).toNat

/-- The end of a walk: a leaf with its level and address, or the reason it stopped. -/
inductive WalkEnd where
  | leaf (level : Nat) (pte : BitVec 128) (at_ : BitVec 52)
  | fill (level : Nat)
  | invalid
  | error
  | uncorrectable (line : BitVec 46)
  deriving DecidableEq, Repr

/-- The checks of a leaf (18 R279). -/
def leafOk (level : Nat) (e : BitVec 128) : Bool :=
  let a := pteAddr e
  let r := regionOf a
  level ≤ 2 && a.toNat % 2 ^ pageBits level == 0 && r != .none && (pteTier e == (r == .tier2)) &&
    (!pteMirror e || r == .tier1)

/-- The walk of the tables from a level down (18 R277, R279); an uncorrectable line of a table ends it (23 R363). -/
def walk (mem : List Host.Cell) (bad : List (BitVec 46)) (va : W64) : Nat → BitVec 52 → WalkEnd
  | level, table =>
    let at_ := table + BitVec.ofNat 52 (16 * walkIndex va level)
    let e := BitVec.ofNat 128 (ofBytes (SMap.getRange mem at_.toNat 16))
    if bad.contains (lineOf at_) then .uncorrectable (lineOf at_)
    else if !pteV e then (if pteFill e then .fill level else .invalid)
    else if pteLeaf e then (if leafOk level e then .leaf level e at_ else .error)
    else if regionOf (pteAddr e) == .none then .error
    else match level with
      | 0 => .error
      | l + 1 => walk mem bad va l (pteAddr e)

/-- The tables that a walk passes on its way down, with their levels. -/
def walkTables (mem : List Host.Cell) (va : W64) : Nat → BitVec 52 → List (Nat × BitVec 52)
  | 0, _ => []
  | l + 1, table =>
    let e := BitVec.ofNat 128 (ofBytes (SMap.getRange mem (table + BitVec.ofNat 52 (16 * walkIndex va (l + 1))).toNat 16))
    if !pteV e || pteLeaf e || regionOf (pteAddr e) == .none then []
    else (l, pteAddr e) :: walkTables mem va l (pteAddr e)

/-- The root table of a context (18 R277). -/
def Context.root (c : Context) : BitVec 52 := (c.ptRoot &&& ~~~511).setWidth 52

/-- Appending to the dirty log when D of a leaf is set (19 R309). -/
def State.logDirty (s : State) (vf : BitVec 7) (va : W64) (level : Nat) : State :=
  let c := s.ctx vf
  if !c.dlOn then s
  else
    let n := if 10 ≤ c.dlSize.toNat && c.dlSize.toNat ≤ 24 then c.dlSize.toNat else 10
    if (c.dlTail - c.dlHead).toNat = 2 ^ n then s.updCtx vf fun c => { c with dlOvf := true }
    else
      let base : W64 := (va >>> pageBits level) <<< pageBits level
      let e : W64 := (1#64 <<< 63) ||| (base &&& 0x01FFFFFFFFFF0000) ||| BitVec.ofNat 64 level
      let at_ := c.dlBase + BitVec.ofNat 64 (8 * (c.dlTail.toNat % 2 ^ n))
      (s.writePhys (at_.setWidth 52) (toBytes 8 e.toNat)).updCtx vf fun c => { c with dlTail := c.dlTail + 1 }

/-- The core whose cached translations an access uses; none for the command processor. -/
abbrev CoreId := Option (BitVec 3 × BitVec 7)

/-- A cached leaf covers an address. -/
def TlbEntry.covers (t : TlbEntry) (vf : BitVec 7) (va : W64) : Bool :=
  t.vf == vf && (va >>> pageBits t.level.toNat) == (t.page >>> pageBits t.level.toNat)

/-- A cached leaf for an address: of the core, else of its die (18 R280). -/
def State.tlbFind (s : State) (vf : BitVec 7) (core : CoreId) (va : W64) : Option TlbEntry :=
  match core with
  | none => none
  | some (die, c) =>
    (s.tlb.find? fun t => t.die == die && t.core == c && t.covers vf va).or
      (s.dieTlb.find? fun t => t.die == die && t.covers vf va)

/-- The address bits above the reach of a table of a level. -/
def tableBits (level : Nat) : Nat :=
  match level with | 0 => 21 | 1 => 30 | 2 => 39 | _ => 48

/-- A cached non-leaf entry covers an address. -/
def TableEntry.covers (t : TableEntry) (vf : BitVec 7) (va : W64) : Bool :=
  t.vf == vf && (va >>> tableBits t.level.toNat) == (t.va >>> tableBits t.level.toNat)

/-- Where a walk starts: at the lowest table that the die has cached for the address, else at the root (18 R277, R280). -/
def State.walkFrom (s : State) (vf : BitVec 7) (core : CoreId) (va : W64) : Nat × BitVec 52 :=
  match core with
  | none => (4, (s.ctx vf).root)
  | some (die, _) =>
    let l := s.tables.filter fun t => t.die == die && t.covers vf va
    match (List.range 4).findSome? fun i => l.find? fun t => t.level.toNat == i with
    | some t => (t.level.toNat, t.table)
    | none => (4, (s.ctx vf).root)

/-- The walk for an address as the device makes it. -/
def State.walkVa (s : State) (vf : BitVec 7) (core : CoreId) (va : W64) : WalkEnd :=
  walk s.mem s.uncorrectable va (s.walkFrom vf core va).1 (s.walkFrom vf core va).2

/-- The non-leaf entries that a walk meets cached on the die (18 R280). -/
def State.cacheTables (s : State) (vf : BitVec 7) (core : CoreId) (va : W64) : State :=
  match core with
  | none => s
  | some (die, _) =>
    let new := (walkTables s.mem va (s.walkFrom vf core va).1 (s.walkFrom vf core va).2).map fun x =>
      ({ vf, die, level := BitVec.ofNat 3 x.1, va, table := x.2 } : TableEntry)
    { s with tables := (new.filter fun t => !s.tables.contains t) ++ s.tables }

/-- An entry put into a cache that holds so many of its kind: where it is full another goes, one that i picks. -/
def cached {α : Type} [BEq α] (cap : Nat) (kind : α → Bool) (i : Nat) (x : α) (l : List α) : List α :=
  let mine := l.filter kind
  if mine.length < cap then x :: l
  else match mine[i % cap]? with
    | some y => x :: l.erase y
    | none => x :: l

/-- A leaf in the caches of a core, 128 entries, and of its die, 8,192 entries (18 R280). -/
def State.cacheLeaf (s : State) (t : TlbEntry) : State :=
  let i := Config.victim s.free
  let t' := { t with core := 0 }
  let same (x : TlbEntry) : Bool := x.vf == t.vf && x.die == t.die && x.page == t.page
  let core := s.tlb.filter fun x => !(same x && x.core == t.core)
  let die := s.dieTlb.filter fun x => !same x
  let full := 128 ≤ (core.filter fun x => x.die == t.die && x.core == t.core).length ||
    8192 ≤ (die.filter fun x => x.die == t.die).length
  { s with
    tlb := cached 128 (fun x => x.die == t.die && x.core == t.core) i t core
    dieTlb := cached 8192 (fun x => x.die == t.die) i t' die
    free := if full then s.free + 1 else s.free }

/-- Setting A before a translation is used and D before a first write, in the leaf where it lies while it is a valid leaf, and in
the cached copies; a cached copy that carries the bit sets nothing (18 R279, 19 R309). -/
def State.markLeaf (s : State) (vf : BitVec 7) (core : CoreId) (va : W64) (level : Nat) (e : BitVec 128)
    (at_ : BitVec 52) (w : Bool) : State :=
  let bits : BitVec 128 := ((1 : BitVec 128) <<< 71) ||| (if w then (1 : BitVec 128) <<< 72 else 0)
  let old := BitVec.ofNat 128 (ofBytes (s.readPhys at_ 16))
  let due := (e &&& bits != bits) && pteV old && pteLeaf old
  let s := if due && w && !pteD old then s.logDirty vf va level else s
  let s := if due && old ||| bits ≠ old then s.writePhys at_ (toBytes 16 (old ||| bits).toNat) else s
  match core with
  | none => s
  | some (die, c) =>
    s.cacheLeaf { vf, die, core := c, page := (va >>> pageBits level) <<< pageBits level, level := BitVec.ofNat 3 level,
                  pte := e ||| bits, pteAddr := at_ }

/-- The checks of permission, key and migrate-on-touch, in this order, then use of the leaf (18 R282). -/
def State.useLeaf (s : State) (vf : BitVec 7) (core : CoreId) (va : W64) (acc : Access) (level : Nat) (e : BitVec 128)
    (at_ : BitVec 52) : Trans × State :=
  if (acc == .read || acc == .both) && !pteR e then (.trap cPAGE_READ, s)
  else if (acc == .write || acc == .both) && !pteW e then (.trap cPAGE_WRITE, s)
  else if acc == .fetch && !pteX e then (.trap cPAGE_EXEC, s)
  else if !((s.ctx vf).keys.contains (pteKey e)) then (.trap cKEY_DENIED, s)
  else if pteMOT e then (.replay (BitVec.ofNat 3 level) true, s)
  else
    let off : BitVec 52 := BitVec.ofNat 52 (va.toNat % 2 ^ pageBits level)
    (.ok (pteAddr e + off) { mirror := pteMirror e, key := some (pteKey e) }, s.markLeaf vf core va level e at_ (acc == .write || acc == .both))

/-- Translation of one virtual address of a context (18 R275 to R282). -/
def State.translate (s : State) (vf : BitVec 7) (core : CoreId) (va : W64) (acc : Access) : Trans × State :=
  if field va 57 7 ≠ 0 then (.trap cADDR_RANGE, s)
  else match s.tlbFind vf core va with
    | some t => s.useLeaf vf core va acc t.level.toNat t.pte t.pteAddr
    | none =>
      match s.walkVa vf core va with
      | .fill l => (.replay (BitVec.ofNat 3 l) false, s)
      | .invalid => (.trap cPAGE_INVALID, s)
      | .error => (.trap cWALK_ERROR, s)
      | .uncorrectable line => (.trap cMEM_UNCORR, { s with replies := s.replies ++ [.uncorrectable line] })
      | .leaf l e at_ => (s.cacheTables vf core va).useLeaf vf core va acc l e at_

/-- n bytes at a virtual address as the command processor reads them, each translated; none where one does not translate, is
uncorrectable, or is refused by another module. -/
def State.readVirt (s : State) (vf : BitVec 7) (core : CoreId) : W64 → Nat → Option (List Byte) × State
  | _, 0 => (some [], s)
  | va, n + 1 =>
    match s.translate vf core va .read with
    | (.ok pa v, s1) =>
      match s1.readPa pa 1 v with
      | (.ok b, s2) =>
        match State.readVirt s2 vf core (va + 1) n with
        | (some l, s3) => (some (b ++ l), s3)
        | (none, s3) => (none, s3)
      | (.error _, s2) => (none, s2)
    | (_, s1) => (none, s1)

/-- The places of bytes written at a virtual address; none where one does not translate. -/
def State.placeVirt (s : State) (vf : BitVec 7) (core : CoreId) : W64 → List Byte → Option (List (BitVec 52 × Via × Byte)) × State
  | _, [] => (some [], s)
  | va, b :: t =>
    match s.translate vf core va .write with
    | (.ok pa v, s1) =>
      match State.placeVirt s1 vf core (va + 1) t with
      | (some l, s2) => (some ((pa, v, b) :: l), s2)
      | (none, s2) => (none, s2)
    | (_, s1) => (none, s1)

/-- Bytes written where they were placed; whether another module refused one. -/
def State.writePlaces : List (BitVec 52 × Via × Byte) → State → Bool × State
  | [], s => (false, s)
  | (pa, v, b) :: t, s =>
    match s.writePa pa v [b] with
    | (some _, s1) => (true, s1)
    | (none, s1) => State.writePlaces t s1

/-- Bytes written at a virtual address by the command processor, each translated before any is written; none where one does not
translate, and nothing written, or where another module refuses one. -/
def State.writeVirt (s : State) (vf : BitVec 7) (core : CoreId) (va : W64) (b : List Byte) : Option State :=
  match s.placeVirt vf core va b with
  | (some l, s1) =>
    match State.writePlaces l s1 with
    | (true, _) => none
    | (false, s2) => some s2
  | (none, _) => none

/-! ## Bank regions (06 R106, 13 R228, 14 R236) -/

/-- Every bank region a context holds: those outside bands and those of its resident bands. -/
def State.heldRegions (s : State) (vf : BitVec 7) : List (Nat × Nat) :=
  ((s.ctx vf).regions.map fun r => (r.1.toNat, r.2.toNat)) ++
    ((s.bands.filter fun b => b.vf == vf && b.resident).map fun b => (b.base.toNat, b.bytes))

/-- Whether n bytes at a bank address lie inside the held regions. -/
def State.bankHeld (s : State) (vf : BitVec 7) (a n : Nat) : Bool :=
  (List.range n).all fun i => (s.heldRegions vf).any fun r => r.1 ≤ a + i && a + i < r.1 + r.2

end Sys2Proof.Machine
end

