-- ==== Sys2Proof/Machine/Splits.lean ====
section
/-!
DEFINITION. Sys2Proof/Machine/Splits.lean: the split table, the overflow stack and joins of one group
(03 R21 to R31, 22 R336). A free entry is one whose mask holds no lane.
-/

namespace Sys2Proof.Machine

/-- Entry k of the table. -/
def SplitTable.get (t : SplitTable) (k : BitVec 2) : Split :=
  match k.toNat with | 0 => t.e0 | 1 => t.e1 | 2 => t.e2 | _ => t.e3

/-- The table with entry k replaced. -/
def SplitTable.set (t : SplitTable) (k : BitVec 2) (x : Split) : SplitTable :=
  match k.toNat with
  | 0 => { t with e0 := x } | 1 => { t with e1 := x } | 2 => { t with e2 := x } | _ => { t with e3 := x }

/-- Every entry changed. -/
def SplitTable.map (t : SplitTable) (f : Split → Split) : SplitTable := ⟨f t.e0, f t.e1, f t.e2, f t.e3⟩

/-- The four entries with their indices. -/
def SplitTable.list (t : SplitTable) : List (BitVec 2 × Split) := [(0, t.e0), (1, t.e1), (2, t.e2), (3, t.e3)]

/-- An entry that holds no split (03 R21). -/
def Split.isFree (x : Split) : Bool := x.mask == 0

/-- The split in the focus of a group. -/
def Group.split (g : Group) (k : BitVec 2) : Split := g.splits.get k

/-- A group with one entry of its table changed. -/
def Group.updSplit (g : Group) (k : BitVec 2) (f : Split → Split) : Group :=
  { g with splits := g.splits.set k (f (g.splits.get k)) }

/-- The free entry of lowest index (03 R22). -/
def SplitTable.firstFree (t : SplitTable) : Option (BitVec 2) :=
  (t.list.find? fun p => p.2.isFree).map (·.1)

/-- Freed entries take the most recently pushed overflow entries, from the lowest index up (03 R24). -/
def fillEntries : List Split → List Split → List Split × List Split
  | [], o => ([], o)
  | x :: t, o =>
    match o with
    | y :: rest =>
      if x.isFree then let r := fillEntries t rest; (y :: r.1, r.2) else let r := fillEntries t o; (x :: r.1, r.2)
    | [] => (x :: t, [])

/-- A table from a list of entries. -/
def SplitTable.ofList : List Split → SplitTable
  | [a, b, c, d] => ⟨a, b, c, d⟩
  | _ => SplitTable.empty

/-- Promotion of overflow entries into free entries (03 R24). -/
def Group.promote (g : Group) : Group :=
  let r := fillEntries [g.splits.e0, g.splits.e1, g.splits.e2, g.splits.e3] g.overflow
  { g with splits := SplitTable.ofList r.1, overflow := r.2 }

/-- A split that waits at a join or synchronising instruction and is not held (03 R27, 22 R336). -/
def Split.waits (x : Split) : Bool :=
  match x.st with
  | .waiting _ _ => !x.held
  | _ => false

/-- A split waiting at address P. -/
def Split.waitsAt (x : Split) (p : W64) : Bool := !x.isFree && x.waits && x.pc == p

/-- The remembered rejoin mask of a waiting split. -/
def Split.rejoin (x : Split) : Mask := match x.st with | .waiting m _ => m | _ => 0

/-- Whether a waiting split goes on past its instruction when merged: a join does, a synchronising instruction is then
executed in the merged split. -/
def Split.advances (x : Split) : Bool := match x.st with | .waiting _ a => a | _ => false

/-- Every split waiting at P, table entries first in rising index, then the stack from the most recent (03 R25). -/
def Group.waitersAt (g : Group) (p : W64) : List Split :=
  ((g.splits.list.map (·.2)) ++ g.overflow).filter fun x => x.waitsAt p

/-- The union of masks. -/
def unionMask (l : List Split) : Mask := l.foldl (fun m x => m ||| x.mask) 0

/-- A count of instructions issued after an operation, put among others; of two for one operation the higher stands. -/
def putSkid (q : Nat × Nat) : List (Nat × Nat) → List (Nat × Nat)
  | [] => [q]
  | x :: t => if x.1 = q.1 then (x.1, max x.2 q.2) :: t else x :: putSkid q t

/-- The counts of the splits that make up one. -/
def mergeSkids (l : List Split) : List (Nat × Nat) := (l.flatMap (·.skids)).foldl (fun m q => putSkid q m) []

/-- The merged split of a cover: past its join (03 R25), or at its synchronising instruction, to be executed once under the
membership it joined with (R29); its PC predicates have been evaluated as its splits reached the instruction (22 R334). -/
def mergedSplit (x : Split) (u : Mask) (of_ : List Split) : Split :=
  { x with mask := u, pc := if x.advances then x.pc + 4 else x.pc, st := .running, age := 0, promoted := none,
           joined := if x.advances then none else some x.rejoin, skipPc := if x.advances then none else some x.pc
           skids := mergeSkids of_ }

/-- The outcome of COVERCHECK at an address (03 R25, R28). -/
inductive Cover where
  | no
  | mismatch
  | merged (g : Group) (k : Option (BitVec 2))

/-- COVERCHECK(P) (03 R25): the waiting splits at P merge when together they cover X ∩ LIVE. -/
def Group.coverCheck (g : Group) (p : W64) : Cover :=
  match g.waitersAt p with
  | [] => .no
  | w :: ws =>
    let u := unionMask (w :: ws)
    let need := w.rejoin &&& g.live
    if need &&& ~~~u ≠ 0 then .no
    else if ws.any (fun x => x.mode != w.mode) then .mismatch
    else match (g.splits.list.find? fun q => q.2.waitsAt p).map (·.1) with
      | some k =>
        let base := g.splits.get k
        let t := g.splits.map fun x => if x.waitsAt p then Split.free else x
        .merged (Group.promote { g with
          splits := t.set k (mergedSplit base u (w :: ws)), overflow := g.overflow.filter fun x => !x.waitsAt p }) (some k)
      | none =>
        -- none in the table: the most recently pushed of them stays on the stack, ready
        let rec keepFirst : Bool → List Split → List Split
          | _, [] => []
          | taken, x :: t =>
            if x.waitsAt p then (if taken then keepFirst true t else mergedSplit x u (w :: ws) :: keepFirst true t)
            else x :: keepFirst taken t
        .merged (Group.promote { g with overflow := keepFirst false g.overflow }) none

/-- The exchange of 03 R27, when every table entry waits and an overflow entry does not. -/
def Group.exchange (g : Group) : Group :=
  if g.splits.list.all (fun q => !q.2.isFree && q.2.waits) then
    match g.overflow.find? fun x => !x.waits with
    | some y =>
      { g with splits := { g.splits with e3 := y },
               overflow := g.splits.e3 :: g.overflow.eraseP fun x => !x.waits }
    | none => g
  else g

/-- Whether the group is deadlocked at its joins (03 R27), and the split of lowest index at which it is trapped. -/
def Group.deadlock (g : Group) : Option (BitVec 2) :=
  let held := g.splits.list.filter fun q => !q.2.isFree
  match held with
  | [] => none
  | q :: _ => if held.all (fun x => x.2.waits) && g.overflow.all (fun x => x.waits) then some q.1 else none

/-- The outcome of an arrival at a join (03 R25 to R28). -/
inductive Arrival where
  /-- A trap at the arriving split, with no effect. -/
  | trap (cause : BitVec 9)
  /-- The split (or the split it merged into) stands past the join, or may execute its synchronising instruction. -/
  | pass (g : Group) (k : BitVec 2)
  /-- The split waits. -/
  | wait (g : Group)
  /-- The group is deadlocked: JOIN_DEADLOCK at split k (03 R27, R28). -/
  | deadlock (g : Group) (k : BitVec 2)

/-- Two splits waiting at one address are combined into the one of lower index (03 R26). -/
def Group.combine (g : Group) (p : W64) : Group :=
  match g.splits.list.filter fun q => q.2.waitsAt p with
  | (i, a) :: (j, b) :: rest =>
    let u := unionMask (a :: b :: rest.map (·.2))
    let t := rest.foldl (fun t q => SplitTable.set t q.1 Split.free) (g.splits.set j Split.free)
    Group.promote { g with splits := t.set i { a with mask := u, skids := mergeSkids (a :: b :: rest.map (·.2)) } }
  | _ => g

/-- The first address at which two entries of the table wait. -/
def Group.twins (g : Group) : Option W64 :=
  ((g.splits.list.map (·.2)).find? fun x =>
    x.waitsAt x.pc && 2 ≤ (g.splits.list.filter fun q => q.2.waitsAt x.pc).length).map (·.pc)

/-- The MODE values of the table's entries that wait at an address are equal. -/
def Group.sameMode (g : Group) (p : W64) : Bool :=
  let l := (g.splits.list.map (·.2)).filter fun x => x.waitsAt p
  l.all fun x => l.all fun y => x.mode == y.mode

/-- Combining wherever two entries of the table wait at one address, promoted ones too (03 R24, R26), or the address where
their MODE differs. A combination frees an entry of the table or the stack, so twenty are enough. -/
def combineAll : Nat → Group → Group × Option W64
  | 0, g => (g, none)
  | n + 1, g =>
    match g.twins with
    | none => (g, none)
    | some p => if g.sameMode p then combineAll n (g.combine p) else (g, some p)

/-- A group with everything that waits together combined (03 R26). -/
def Group.combined (g : Group) : Group × Option W64 := combineAll 20 g

/-- What follows an arrival that waits: exchange, and the deadlock test (03 R27). -/
def Group.settle (g : Group) : Arrival :=
  let g1 := g.exchange
  match g1.deadlock with
  | some k => .deadlock g1 k
  | none => .wait g1

/-- Split k arrives at the join or synchronising instruction at its address with rejoin mask x, already restricted to the
width (03 R25, R26, R29); a split that has joined there executes its instruction. A trap of whatever is combined is taken at
the arriving split (R28). -/
def Group.arrive (g : Group) (k : BitVec 2) (x : Mask) (advance : Bool) : Arrival :=
  let sp := g.splits.get k
  let p := sp.pc
  let ws := g.waitersAt p
  if !advance && sp.joined.isSome then .pass g k
  else if sp.mask &&& ~~~x ≠ 0 then .trap cMASK_OUTSIDE
  else if ws.any (fun w => (w.rejoin &&& g.live) != (x &&& g.live)) then .trap cMASK_DISAGREE
  else if sp.mask == (x &&& g.live) then
    .pass (g.updSplit k fun y => if advance then { y with pc := p + 4 } else y) k
  else
    let g1 := g.updSplit k fun y =>
      { y with
        st := .waiting x advance, age := 0, promoted := none, skipPc := if advance then none else some p, blk := .no }
    let after (h : Group) (f : Group → Arrival) : Arrival :=
      match h.combined with
      | (h, none) => f h
      | (_, some _) => .trap cMODE_MISMATCH
    match g1.coverCheck p with
    | .mismatch => .trap cMODE_MISMATCH
    | .merged g2 (some j) => after g2 fun h => .pass h j
    | .merged g2 none => after g2 Group.settle
    | .no => after g1 Group.settle

/-- The addresses at which splits of a group wait. -/
def Group.waitAddrs (g : Group) : List W64 :=
  (((g.splits.list.map (·.2)) ++ g.overflow).filter fun x => !x.isFree && x.waits).map (·.pc)

/-- COVERCHECK at each address of a list (03 R31); the addresses where it finds unequal MODE. -/
def coverAll : List W64 → Group → Group × List W64
  | [], g => (g, [])
  | p :: t, g =>
    match g.coverCheck p with
    | .merged g2 _ => coverAll t g2
    | .mismatch => let r := coverAll t g; (r.1, p :: r.2)
    | .no => coverAll t g

/-- The split that a trap at a join's address names: the waiting one of lowest table index, else the most recently pushed of
those on the stack, which has no index (03 R28, log 56); its index and lanes. -/
def Group.namedAt (g : Group) (p : W64) : BitVec 2 × Mask :=
  match g.splits.list.find? fun q => q.2.waitsAt p with
  | some q => (q.1, q.2.mask)
  | none => (0, ((g.overflow.find? fun x => x.waitsAt p).map (·.mask)).getD 0)

/-- A trap that falls due in a group with no split arriving: its cause, its PC, the split it names and that split's lanes
(03 R28). -/
structure JoinTrap where
  cause : BitVec 9
  pc : W64
  split : BitVec 2
  lanes : Mask
  deriving DecidableEq, Repr

/-- MODE_MISMATCH at an address. Where splits come together with none arriving and LIVE not shrinking (after a promotion, after `rte`,
after `dbg.go`) 03 R28 gives the trap no place: it is taken at the address of the join, and names the waiting split of lowest index
(log 72). -/
def Group.mismatchAt (g : Group) (p : W64) : JoinTrap :=
  let n := g.namedAt p
  { cause := cMODE_MISMATCH, pc := p, split := n.1, lanes := n.2 }

/-- The group after LIVE has shrunk: splits of no lane freed, promotion, COVERCHECK, combining, exchange (03 R24, R26, R27,
R31); with the trap that falls due (03 R28). Where splits at several addresses differ in MODE at once, the trap is that of the first of
these addresses in the order of the table, then of the stack from the top: the spec names none (log 72). -/
def Group.shrink (g : Group) (gone : Mask) : Group × Option JoinTrap :=
  let drop := fun (x : Split) => if x.mask &&& ~~~gone = 0 then Split.free else { x with mask := x.mask &&& ~~~gone }
  let g1 := Group.promote { g with
    live := g.live &&& ~~~gone
    splits := g.splits.map drop
    overflow := (g.overflow.map drop).filter fun x => !x.isFree }
  let r := coverAll g1.waitAddrs g1
  match r.2 with
  | p :: _ => (r.1, some (r.1.mismatchAt p))
  | [] =>
    match r.1.combined with
    | (g2, some p) => (g2, some (g2.mismatchAt p))
    | (g2, none) =>
      let g3 := g2.exchange
      match g3.deadlock with
      | some k =>
        (g3, some { cause := cJOIN_DEADLOCK, pc := (g3.splits.get k).pc, split := k, lanes := (g3.splits.get k).mask })
      | none => (g3, none)

/-- Carving lanes out of split k into an entry of their own, given as changed by f (03 R22, R23): none when the overflow
stack is full. -/
def Group.carve (g : Group) (k : BitVec 2) (lanes : Mask) (f : Split → Split) : Option (Group × Option (BitVec 2)) :=
  let sp := g.splits.get k
  let new := f { sp with mask := lanes, age := 0, promoted := none, joined := none }
  let g1 := g.updSplit k fun x => { x with mask := x.mask &&& ~~~lanes, joined := none }
  match g.splits.firstFree with
  | some j => some ({ g1 with splits := g1.splits.set j new }, some j)
  | none => if 16 ≤ g.overflow.length then none else some ({ g1 with overflow := new :: g1.overflow }, none)

end Sys2Proof.Machine
end

