-- ==== Sys2Proof/Machine/Access.lean ====
section
/-!
DEFINITION. Sys2Proof/Machine/Access.lean: from a record and operands to the bytes an operation touches: bounds, alignment,
record checks and translation of every lane before any is performed (06 R104 to R109, 18 R281 to R284, R293).
-/

namespace Sys2Proof.Machine

/-! ## Records by number (06 R110, R111) -/

/-- The address of shared entry N in the record table. -/
def Context.entryAddr (c : Context) (n : BitVec 10) : W64 := c.rtBase + BitVec.ofNat 64 (32 * (n.toNat - 256))

/-- Shared entry N as the table in memory holds it, which the command processor reads; must-be-zero bits read as zero (00 R10). -/
def State.tableRecord (s : State) (vf : BitVec 7) (n : BitVec 10) : Option W256 :=
  (s.readVirt vf none ((s.ctx vf).entryAddr n) 32).1.map fun b => cleanImage (BitVec.ofNat 256 (ofBytes b))

/-- The copy of shared entry N in the record cache of the core in focus (06 R110). -/
def State.recCopy (s : State) (n : BitVec 10) : Option W256 :=
  (s.recCache.find? fun c => c.die == s.gang.die && c.core == s.gang.core && c.vf == s.gang.vf && c.n == n).map (·.r)

/-- Record N as the group sees it: the gang's local window, or the copy of a shared entry that its core holds. An instruction
issues only once there is a copy (issue); before that the table's bytes stand for it. -/
def State.record (s : State) (n : BitVec 10) : W256 :=
  if n.toNat < 256 then s.gang.window.get n.toNat
  else (s.recCopy n).getD ((s.tableRecord s.gang.vf n).getD 0)

/-- A copy of shared entry N put into the record cache of the core in focus, 128 entries (00 R2). -/
def State.setCopy (s : State) (n : BitVec 10) (r : W256) : State :=
  let mine (c : RecCopy) : Bool := c.die == s.gang.die && c.core == s.gang.core
  let rest := s.recCache.filter fun c => !(mine c && c.vf == s.gang.vf && c.n == n)
  { s with
    recCache := cached 128 mine (Config.victim s.free) { die := s.gang.die, core := s.gang.core, vf := s.gang.vf, n, r } rest
    free := if 128 ≤ (rest.filter mine).length then s.free + 1 else s.free }

/-! ## Checks of a buffer record (06 R109) -/

/-- The first failing check of a buffer record, in this order: KIND, FMT, SPACE, SCOPE, RO. Where several fail the spec names none
first (log 73). -/
def checkBuf (r : W256) (fmtOk : BitVec 8 → Bool) (spaceOk : BitVec 3 → Bool) (scope write : Bool) :
    Option (BitVec 9) :=
  if recKind r ≠ 1 then some cREC_KIND
  else if 20 < (bufFmt r).toNat || !fmtOk (bufFmt r) then some cREC_FORMAT
  else if 3 < (bufSpace r).toNat || !spaceOk (bufSpace r) then some cREC_SPACE
  else if scope && 5 < (bufScope r).toNat then some cREC_VALUE
  else if write && recRO r then some cREC_PERM
  else none

/-- Every space. -/
def anySpace : BitVec 3 → Bool := fun _ => true
/-- Gang memory only. -/
def gmemSpace : BitVec 3 → Bool := fun x => x == 1
/-- Bank memory only. -/
def bankSpace : BitVec 3 → Bool := fun x => x == 2
/-- Every space but bank memory. -/
def noBankSpace : BitVec 3 → Bool := fun x => x != 2
/-- Formats of a size in a list. -/
def sizeIn (l : List Nat) : BitVec 8 → Bool := fun f => match esize f with | some n => l.contains n | none => false

/-! ## Bounds (06 R107) -/

/-- Where an access of n bytes at offset b lands: an offset, dropped, or a cause. -/
def resolve (alloc : Nat) (r : W256) (es n b : Nat) : Except (BitVec 9) (Option Nat) :=
  let isGmem := bufSpace r == 1
  let avail := alloc - (bufBase r).toNat
  let limit := if isGmem then min (bufExtent r).toNat avail else (bufExtent r).toNat
  if b + n ≤ limit then .ok (some b)
  else match (bufBounds r).toNat with
    | 0 => .error cBOUNDS
    | 1 => .ok none
    | 2 => if n ≤ limit then .ok (some ((limit - n) / es * es)) else .ok none
    | _ => if isGmem && avail < b + n then .error cGMEM_RANGE else .ok (some b)

/-- As `resolve`, for one byte of a copy or tile image, for which CLAMP acts as ZERO. -/
def resolveByte (alloc : Nat) (r : W256) (b : Nat) : Except (BitVec 9) (Option Nat) :=
  match resolve alloc r 1 1 b with
  | .ok (some x) => if (bufBounds r).toNat = 2 && x ≠ b then .ok none else .ok (some x)
  | o => o

/-- The bytes of the allocation (06 R106). -/
def State.alloc (s : State) : Nat := s.gang.lrec.gmem.toNat

/-- A value, or the cause of a fault with its address (18 R290: the address is given for causes 0x040 to 0x04E; log 12). -/
abbrev Chk (α : Type) := Except (BitVec 9 × W64) α

/-- The access at an offset of a record, its bank bytes checked against the held regions (06 R106); a dropped one keeps the
address it was made at. An offset that carries BASE past 2^64, which only a bounds mode of NONE lets through, wraps modulo 2^64
(log 12). -/
def State.accessAt (s : State) (r : W256) (lane n b0 : Nat) : Option Nat → Chk Acc
  | none => .ok { lane, place := .nowhere, addr := bufBase r + BitVec.ofNat 64 b0, n, pa := 0, via := {} }
  | some b =>
    let a := bufBase r + BitVec.ofNat 64 b
    match (bufSpace r).toNat with
    | 1 => .ok { lane, place := .gmem, addr := a, n, pa := 0, via := {} }
    | 2 =>
      if field (bufBase r) 29 35 ≠ 0 || field a 29 35 ≠ 0 || !s.bankHeld s.gang.vf a.toNat n then .error (cBANK_RANGE, a)
      else .ok { lane, place := .bank, addr := a, n, pa := 0, via := {} }
    | _ => .ok { lane, place := .virt, addr := a, n, pa := 0, via := {} }

/-- The accesses of lanes at element offsets, in ascending lane order. -/
def State.laneAccs (s : State) (r : W256) (es n : Nat) : List (Nat × Nat) → Chk (List Acc)
  | [] => .ok []
  | (lane, b) :: t =>
    match resolve s.alloc r es n b with
    | .error c => .error (c, bufBase r + BitVec.ofNat 64 b)
    | .ok o =>
      match s.accessAt r lane n b o with
      | .error c => .error c
      | .ok a =>
        match State.laneAccs s r es n t with
        | .error c => .error c
        | .ok l => .ok (a :: l)

/-! ## The accesses of an operation, from its captured operands (18 R291) -/

/-- Operand block k, lane L. -/
def Entry.blk (e : Entry) (k lane : Nat) : W32 := ((e.blocks[k]?).getD []).get lane
/-- Scalar operand k. -/
def Entry.sc (e : Entry) (k : Nat) : W64 := (e.scal[k]?).getD 0
/-- Snapshot k. -/
def Entry.snap (e : Entry) (k : Nat) : W256 := (e.snaps[k]?).getD 0
/-- The number of its first record. -/
def Entry.rec0 (e : Entry) : BitVec 10 := (e.recs.head?).getD 0

/-- Byte offsets of the active lanes, from the offset register in block 0. -/
def Entry.offsets (e : Entry) (scale : Nat) : List (Nat × Nat) :=
  (lanesOf e.active).map fun l => (l, (e.blk 0 l).toNat * scale)

/-- Lowest lane of the split, at which an instruction that acts once is watched (22 R332). -/
def Entry.lowLane (e : Entry) : Nat := lowestBit e.mask

/-- The slots of k records from an index, as accesses numbered in order (14 R238). -/
def slotAccs (r : W256) (tail : W32) (k : Nat) : List Acc :=
  (List.range k).map fun (j : Nat) =>
    { lane := j, place := .virt, addr := qSlots r + qOffset r (tail + BitVec.ofNat 32 j), n := qBytes r, pa := 0, via := {} }

/-- One access of n bytes at a virtual address. -/
def virtAcc (va : W64) (n : Nat) : Acc := { lane := 0, place := .virt, addr := va, n, pa := 0, via := {} }

/-- The accesses of a load, store, atomic, bank operation, chunk, record or queue access. A push to another module is a message
to the page of its queue's slots (16 R264). Copies, gathers and tile operations are placed byte by byte as they land. A bank.vadd
granule that CLAMP moves stays a granule: its offset is the largest multiple of 64, the unit the instruction accesses, where
06 R107 speaks of multiples of ESIZE (log 57). -/
def State.prepare (s : State) (e : Entry) : Chk (List Acc) :=
  let r := e.snap 0
  let es := (esize (bufFmt r)).getD 1
  match e.op with
  | .ld .scalar => s.laneAccs r es es [(e.lowLane, (e.sc 0).toNat * es)]
  | .st .scalar => s.laneAccs r es es [(e.lowLane, (e.sc 0).toNat * es)]
  | .st .record => .ok [virtAcc (e.sc 0) 32]
  | .st .table => .ok [virtAcc ((s.ctx s.gang.vf).entryAddr ((e.recs.head?).getD 0)) 32]
  | .ld _ | .st _ | .atom _ | .red _ | .bankMx | .bankSup => s.laneAccs r es es (e.offsets es)
  | .bankVadd => s.laneAccs r 64 64 (e.offsets 64)
  | .chunk => s.laneAccs r es es [(e.lowLane, (e.sc 0).toNat * es)]
  | .qpop => .ok [virtAcc (qSlots r + e.detail) (qBytes r)]
  | .qpush =>
    if e.part = 1 then .ok [virtAcc (qBase r) 1]
    else .ok (slotAccs r (BitVec.ofNat 32 (s.bankWord (qCtl r + 8) 4)) (popCount e.active))
  | .pmtGet | .pmtRet => .ok [virtAcc (qBase r) 1]
  | .recLd => .ok [virtAcc (e.sc 0) 32]
  | .cbld => .ok ((List.range 48).map fun i =>
      { lane := i, place := .virt, addr := e.sc 0 + BitVec.ofNat 64 (16 * i), n := 16, pa := 0, via := {} })
  | .tv | .dbgRd _ _ _ | .cpA | .cpB | .gth | .tile _ => .ok []

/-- What an operation asks of its pages (18 R278). -/
def MemOp.access : MemOp → Access
  | .ld _ | .qpop | .recLd | .cbld => .read
  | .st _ | .qpush | .pmtGet | .pmtRet => .write
  | .atom _ | .red _ => .both
  | .bankMx | .bankSup | .bankVadd | .chunk => .both
  | .tv | .dbgRd _ _ _ | .cpA | .cpB | .gth | .tile _ => .read

/-- The SRC field of a fault record (18 R284). -/
def MemOp.src : MemOp → BitVec 3
  | .ld _ | .tv | .dbgRd _ _ _ | .recLd | .cbld => 0
  | .st _ => 1
  | .atom _ | .red _ | .bankMx | .bankSup | .bankVadd | .chunk => 2
  | .cpA | .cpB => 4
  | .gth => 5
  | .tile _ => 6
  | .qpop | .qpush | .pmtGet | .pmtRet => 7

/-- The outcome of translating every lane (18 R281). -/
inductive Xlat where
  | ok (l : List Acc)
  | hold (va : W64) (level : BitVec 3) (mot : Bool)
  | trap (cause : BitVec 9) (va : W64)

/-- The core of the gang in focus. -/
def State.coreId (s : State) : CoreId := some (s.gang.die, s.gang.core)

/-- Translation of every lane's bytes, before any is performed; the lowest lane that faults decides (18 R281). -/
def State.translateAll (s : State) (a : Access) : List Acc → Xlat × State
  | [] => (.ok [], s)
  | x :: t =>
    if x.place = .virt then
      match s.translate s.gang.vf s.coreId x.addr a with
      | (.ok pa m, s1) =>
        match State.translateAll s1 a t with
        | (.ok l, s2) => (.ok ({ x with pa := pa, via := m } :: l), s2)
        | o => o
      | (.replay l m, s1) => (.hold x.addr l m, s1)
      | (.trap c, s1) => (.trap c x.addr, s1)
    else
      match State.translateAll s a t with
      | (.ok l, s2) => (.ok (x :: l), s2)
      | o => o

/-! ## Fault records (18 R284, R286, R293) -/

/-- The 64 KiB page of an address. -/
def pageOf (va : W64) : W64 := (va >>> 16) <<< 16

/-- A fault record as the device writes it (18 R284). -/
def FaultRec.bits (f : FaultRec) : W256 :=
  (putField (putField (putField (putField (putField (putField (putField (putField (putField (putField (putField (putField
    (putField (0 : W256) 192 (f.va.setWidth 57)) 160 f.entry) 128 f.launch) 96 f.gang) 91 f.group) 89 f.split) 86 f.src)
    84 f.kind) 83 (bit f.write)) 76 f.vf) 73 f.die) 61 f.slot) 58 f.level)

/-- Waiting records written to the host fault queue while it has room, vector 2 raised for each (18 R286, R293). -/
def forwardLoop (vf : BitVec 7) : List (BitVec 3 × BitVec 12) → State → State
  | [], s => s.updCtx vf fun c => { c with forward := [] }
  | q :: t, s =>
    let c := s.ctx vf
    let n := if 4 ≤ c.fqSize.toNat && c.fqSize.toNat ≤ 12 then c.fqSize.toNat else 4
    if (c.fqTail - c.fqHead).toNat = 2 ^ n then s.updCtx vf fun c => { c with forward := q :: t }
    else match s.faults.find? fun f => f.die == q.1 && f.slot == q.2 with
      | none => forwardLoop vf t s
      | some f =>
        let at_ := c.fqBase + BitVec.ofNat 64 (32 * (c.fqTail.toNat % 2 ^ n))
        let s1 := s.writePhys (at_.setWidth 52) (toBytes 32 f.bits.toNat)
        forwardLoop vf t ((s1.updCtx vf fun c => { c with fqTail := c.fqTail + 1 }).raiseMsix vf 2)

/-- Writing whatever records wait for a context's host fault queue (18 R293). -/
def State.forward (s : State) (vf : BitVec 7) : State := forwardLoop vf (s.ctx vf).forward s

/-- The first free slot of a die's buffer from a slot chosen by the device (18 R284). -/
def freeSlot (used : List (BitVec 12)) (start : BitVec 12) : Nat → BitVec 12
  | 0 => start
  | n + 1 => if used.contains start then freeSlot used (start + 1) n else start

/-- Posting a fault record for a replayable fault of the group in focus, of a split and a part of an operation: one record for a
page of a context while it is outstanding, none when the buffer of the die is full (18 R284). -/
def State.postFault (s : State) (split : BitVec 2) (part : Nat) (va : W64) (level : BitVec 3) (mot : Bool) (src : BitVec 3)
    (w : Bool) : State :=
  let page := pageOf va
  if s.faults.any fun f => f.vf == s.gang.vf && f.va == page then s
  else
    let used := (s.faults.filter fun f => f.die == s.gang.die).map (·.slot)
    if 4096 ≤ used.length then s
    else
      let (i, s) := s.fresh
      let slot := freeSlot used (Config.faultSlot i) used.length
      let f : FaultRec :=
        { die := s.gang.die, slot, vf := s.gang.vf, va := page, entry := BitVec.ofNat 32 part, launch := s.gang.launch,
          gang := s.gang.idx, group := s.grp.idx, split, src, kind := if mot then 1 else 0, write := w, level }
      let s := { s with faults := s.faults ++ [f] }
      if mot then s
      else (s.updCtx s.gang.vf fun c => { c with forward := c.forward ++ [(f.die, slot)] }).forward s.gang.vf

/-- Whether an operation writes memory. -/
def MemOp.writes (o : MemOp) : Bool := o.access != .read

/-- An operation with its lanes translated: ready to be performed, held by a replayable fault whose record is posted, or
carrying the cause it raises (18 R281 to R283). -/
def State.translateEntry (s : State) (e : Entry) : Entry × State :=
  match s.translateAll e.op.access e.accs with
  | (.ok l, s1) => ({ e with accs := l, held := none, more := [] }, s1)
  | (.hold va l m, s1) =>
    ({ e with held := some (pageOf va) }, s1.postFault e.split 0 va l m e.op.src e.op.writes)
  | (.trap c va, s1) => ({ e with err := c, va, held := none }, s1)

/-- An operation prepared anew from its captured operands and translated (18 R296). -/
def State.loadEntry (s : State) (e : Entry) : Entry × State :=
  match s.prepare e with
  | .ok l => s.translateEntry { e with accs := l }
  | .error (c, va) => ({ e with err := c, va, held := none }, s)

/-! ## Reading and writing the bytes of an access -/

/-- Whether an access goes to another module. -/
def Acc.remote (a : Acc) : Bool := a.place == .virt && regionOf a.pa == .fabric

/-- Whether n bytes from an address touch a 64-byte line. -/
def lineMeets (line a n : Nat) : Bool := a < 64 * line + 64 && 64 * line < a + n

/-- n bytes of the gang's memory as a reader has them: none where a line of them cannot be corrected, which is reported (23 R363). -/
def State.readGmem (s : State) (a n : Nat) : Option (List Byte) × State :=
  match s.gang.badGmem.find? fun l => lineMeets l a n with
  | some l =>
    let r : GangRef := { vf := s.gang.vf, seq := s.gang.seq, gang := s.gang.idx }
    (none, { s with replies := s.replies ++ [.uncorrectableGmem r s.gang.die s.gang.core l] })
  | none => (some (SMap.getRange s.gang.gmem a n), s)

/-- n bytes of bank memory so. -/
def State.readBankLine (s : State) (a : BitVec 29) (n : Nat) : Option (List Byte) × State :=
  match s.badBank.find? fun l => lineMeets l.toNat a.toNat n with
  | some l => (none, { s with replies := s.replies ++ [.uncorrectableBank l] })
  | none => (some (s.readBank a n), s)

/-- What a reader has, or the cause of an uncorrectable read. -/
def orUncorrectable (x : Option (List Byte) × State) : Except (BitVec 9) (List Byte) × State :=
  (match x.1 with | some b => .ok b | none => .error cMEM_UNCORR, x.2)

/-- The bytes of an access as they stand: zero where it lies nowhere; the cause of a refused or uncorrectable read
(06 R107, 16 R263, 23 R363). -/
def State.readAcc (s : State) (a : Acc) : Except (BitVec 9) (List Byte) × State :=
  match a.place with
  | .nowhere => (.ok (List.replicate a.n 0), s)
  | .gmem => orUncorrectable (s.readGmem a.addr.toNat a.n)
  | .bank => orUncorrectable (s.readBankLine (a.addr.setWidth 29) a.n)
  | .virt => s.readPa a.pa a.n a.via

/-- The bytes of an access written; the cause where another module refuses them (16 R263). -/
def State.writeAcc (s : State) (a : Acc) (b : List Byte) : Option (BitVec 9) × State :=
  match a.place with
  | .nowhere => (none, s)
  | .gmem => (none, { s with gang := { s.gang with gmem := SMap.setRange s.gang.gmem a.addr.toNat b } })
  | .bank => (none, s.writeBank (a.addr.setWidth 29) b)
  | .virt => s.writePa a.pa a.via b

/-- The bytes of a list of accesses, in order; the cause of the first that may not be had, with its address (18 R290). -/
def State.readAccs (s : State) : List Acc → Chk (List Byte) × State
  | [] => (.ok [], s)
  | a :: t =>
    match s.readAcc a with
    | (.error c, s1) => (.error (c, a.addr), s1)
    | (.ok b, s1) =>
      match State.readAccs s1 t with
      | (.ok l, s2) => (.ok (b ++ l), s2)
      | o => o

/-! ## Records and codebooks loaded whole (06 R136, R138) -/

/-- The record of an image in place of an old one: GEN advanced, must-be-zero bits zero (06 R136). -/
def loadedRecord (old image : W256) : W256 := putField (cleanImage image) 16 (recGen old + 1)

/-- Why a record may not be replaced by an image (06 R136). -/
def loadRefused (old image : W256) : Option (BitVec 9) :=
  if recKind old == 2 && tileSegs old != 0 then some cREC_BUSY
  else if recKind image == 2 && (tileTK image != 0 || tileRank image != 0 || tileSegbase image != 0 || tileSegs image != 0)
  then some cREC_VALUE
  else none

/-- Whether an operation loads a record or the codebook. -/
def MemOp.whole : MemOp → Bool
  | .recLd | .cbld => true
  | _ => false

end Sys2Proof.Machine
end

