-- ==== Sys2Proof/Machine/Order.lean ====
section
/-!
DEFINITION. Sys2Proof/Machine/Order.lean: the order in which a group's accesses are performed, and which of its operations a trap
or a capture puts into the replay queue (06 R117, R118, R121, 08 R142 to R147, R160, 18 R289).
-/

namespace Sys2Proof.Machine

/-! ## What is open -/

/-- The accesses of an operation not yet performed. -/
def Entry.openAccs (e : Entry) : List Acc := e.accs.filter fun a => !e.done.getLsbD a.lane

/-- Every lane performed. -/
def Entry.finished (e : Entry) : Bool := e.openAccs.isEmpty

/-- Operations whose accesses are the group's own (08 R142). -/
def MemOp.isMem : MemOp → Bool
  | .ld _ | .st _ | .atom _ | .red _ | .bankMx | .bankSup | .bankVadd | .chunk | .recLd | .cbld | .qpush => true
  | _ => false

/-- Plain loads of any form. -/
def MemOp.isLoad : MemOp → Bool
  | .ld _ => true
  | _ => false

/-- Operations of the store queue (18 R283). -/
def MemOp.queued : MemOp → Bool
  | .st _ | .red _ | .bankMx | .bankSup | .bankVadd => true
  | _ => false

/-- Stores, whose bytes a later load of the group may take from the queue (06 R118). -/
def MemOp.isStore : MemOp → Bool
  | .st _ => true
  | _ => false

/-- Loads that wait for full granules (06 R121). -/
def MemOp.waitsFull : MemOp → Bool
  | .ld .clear | .ld .keep => true
  | _ => false

/-- The first byte of an access where its bytes lie: the physical address, or the address in its space. -/
def Acc.key (a : Acc) : Nat := if a.place = .virt then a.pa.toNat else a.addr.toNat

/-- Two ranges of bytes with one in common. -/
def meet (a n b m : Nat) : Bool := a < b + m && b < a + n

/-- Two accesses with a byte in common. -/
def Acc.overlaps (a b : Acc) : Bool :=
  a.place == b.place && a.place != .nowhere &&
    (meet a.key a.n b.key b.n || (a.place == .virt && meet a.addr.toNat a.n b.addr.toNat b.n))

/-- The granule of an access (06 R120). -/
def Acc.granule (a : Acc) : Nat := a.addr.toNat / 16

/-- A granule is full. -/
def Gang.full (g : Gang) (i : Nat) : Bool := g.granules.get i == 1

/-- A lane of `ld.c` or `ld.k` that finds its granule full, or reads none (06 R121). -/
def Gang.served (g : Gang) (a : Acc) : Bool := a.place == .nowhere || g.full a.granule

/-- A release at system scope (06 R117). -/
def Entry.systemRelease (e : Entry) : Bool := e.op == .st .release && bufScope (e.snap 0) == 5

/-- Whether an earlier operation holds back an access of a later one. Accesses are performed in program order, but that a load
passes queued stores to other bytes (08 R144); remote accesses keep order only for the same bytes (08 R160), with an acquire and
with a release at system scope (06 R117); a lane that waits for a full granule holds back releases, and no other store, not one to
its own bytes either, which may be what fills the granule: every store is performed in finite time (06 R117, 08 R147, log 11). To
different banks too the accesses of a group go in program order for every observer, though 08 R152 fixes no order there (log 62). -/
def State.holdsBack (s : State) (x e : Entry) (a : Acc) : Bool :=
  x.op.isMem && x.openAccs.any fun y =>
    if e.op.queued && e.op != .st .release && x.op.waitsFull && !s.gang.served y then false
    else if y.overlaps a then !(e.op.isLoad && x.op.isStore && x.held.isNone)
    else if x.op == .ld .acquire || e.systemRelease then true
    else if y.remote || a.remote then false
    else !(e.op.isLoad && (x.op.queued || x.op == .qpush))

/-- Whether an access of an operation may be performed now. -/
def State.mayPerform (s : State) (e : Entry) (a : Acc) : Bool :=
  e.held.isNone && e.err == 0 && s.grp.flight.all fun x => !(x.id < e.id && s.holdsBack x e a)

/-! ## What a trap queues (18 R289, 11 R195) -/

/-- A counted tile operation. -/
def MemOp.isTile : MemOp → Bool
  | .tile _ => true
  | _ => false

/-- An operation performed by an engine. -/
def MemOp.isEngine : MemOp → Bool
  | .cpA | .cpB | .gth | .tile _ => true
  | _ => false

/-- An operation that a trap finds still with the core: held by a fault, carrying a cause, or a tile operation not retired
(18 R289, 11 R195). Copies and gathers belong to their engine: the cause they carry is taken when they complete (06 R127). -/
def Entry.withCore (e : Entry) : Bool :=
  match e.op with
  | .cpA | .cpB | .gth => false
  | .tile _ => true
  | _ => e.held.isSome || e.err != 0

/-- The operations that a trap queues, the oldest first: those with the core, and each later access that one of them holds
back, which is thereby not sent to memory before it (18 R289, 08 R143, R144, R149). -/
def State.stuckFrom (s : State) : List Entry → List Entry → List Entry
  | acc, [] => acc
  | acc, e :: t =>
    if e.withCore || (e.op.isMem && acc.any fun x => e.openAccs.any (s.holdsBack x e)) then s.stuckFrom (acc ++ [e]) t
    else s.stuckFrom acc t

/-- The operations of the group in focus that a trap would queue. -/
def State.stuck (s : State) : List Entry := s.stuckFrom [] s.grp.flight

/-- A list of operations without those of another. -/
def without (l out : List Entry) : List Entry := l.filter fun e => !out.contains e

end Sys2Proof.Machine
end

