-- ==== Sys2Proof/Machine/Focus.lean ====
section
/-!
DEFINITION. Sys2Proof/Machine/Focus.lean: the group in focus: its registers, full and empty bits, its split, and moving the
focus to another resident group (03 R16, R20, 04 R40 to R47).
-/

namespace Sys2Proof.Machine

/-! ## Registers (04 R40, R41, R44) -/

/-- A scalar register: s0 reads as zero (04 R41). -/
def Group.sreg (g : Group) (r : BitVec 6) : W64 := if r = 0 then 0 else g.s.get r.toNat
/-- One lane of a vector register. -/
def Group.vreg (g : Group) (r lane : Nat) : W32 := g.v.get (64 * r + lane)
/-- One lane of a vector pair: the even register holds the low half (04 R40). -/
def Group.vpair (g : Group) (r lane : Nat) : W64 := g.vreg (r + 1) lane ++ g.vreg r lane
/-- One lane of a moment register: variance, mean. -/
def Group.mreg (g : Group) (r lane : Nat) : W64 := g.m.get (64 * r + lane)

/-- Writing a scalar register: a write to s0 is discarded (04 R41). -/
def Group.setS (g : Group) (r : BitVec 6) (x : W64) : Group :=
  if r = 0 then g else { g with s := g.s.set r.toNat x }
/-- Writing one lane of a vector register. -/
def Group.setV (g : Group) (r lane : Nat) (x : W32) : Group := { g with v := g.v.set (64 * r + lane) x }
/-- Writing one lane of a vector pair. -/
def Group.setPair (g : Group) (r lane : Nat) (x : W64) : Group :=
  (g.setV r lane (field x 0 32)).setV (r + 1) lane (field x 32 32)
/-- Writing one lane of a moment register. -/
def Group.setM (g : Group) (r lane : Nat) (x : W64) : Group := { g with m := g.m.set (64 * r + lane) x }

/-- Whether a register is empty (04 R45); s0 never is. -/
def Group.isEmpty (g : Group) : Reg → Bool
  | .v r => g.vEmpty.getLsbD r
  | .s r => r != 0 && g.sEmpty.getLsbD r.toNat
  | .m r => g.mEmpty.getLsbD r

/-- Marking a register full or empty. -/
def Group.mark (g : Group) (empty : Bool) : Reg → Group
  | .v r =>
    let b : BitVec 128 := BitVec.ofNat 128 (2 ^ r)
    { g with vEmpty := if empty then g.vEmpty ||| b else g.vEmpty &&& ~~~b }
  | .s r =>
    let b : BitVec 64 := BitVec.ofNat 64 (2 ^ r.toNat)
    if r = 0 then g else { g with sEmpty := if empty then g.sEmpty ||| b else g.sEmpty &&& ~~~b }
  | .m r =>
    let b : BitVec 32 := BitVec.ofNat 32 (2 ^ r)
    { g with mEmpty := if empty then g.mEmpty ||| b else g.mEmpty &&& ~~~b }

/-- Marking several registers. -/
def Group.markAll (g : Group) (empty : Bool) (l : List Reg) : Group := l.foldl (fun g r => g.mark empty r) g

/-- The registers of a destination. -/
def Dest.regs (d : Dest) : List Reg :=
  (List.range d.count).map fun i =>
    match d.file.toNat with
    | 1 => .v (d.reg.toNat + i)
    | 2 => .s (BitVec.ofNat 6 (d.reg.toNat + i))
    | _ => .m (d.reg.toNat + i)

/-- The registers an operation in flight will write and make full: its destination, but for cancelled writes. -/
def Entry.writes (e : Entry) : List Reg := e.dest.regs.filter fun r => !e.cancelled.contains r

/-- One register of a group as it is in another. -/
def Group.copyReg (old : Group) (g : Group) : Reg → Group
  | .v r => (List.range 64).foldl (fun g l => g.setV r l (old.vreg r l)) g
  | .s r => g.setS r (old.sreg r)
  | .m r => (List.range 64).foldl (fun g l => g.setM r l (old.mreg r l)) g

/-- A state after a write, registers whose write is cancelled as they were before it (22 R342). -/
def State.keeping (s t : State) (l : List Reg) : State :=
  if l.isEmpty then t else { t with grp := l.foldl (Group.copyReg s.grp) t.grp }

/-- No destination. -/
def Dest.none : Dest := { file := 0, reg := 0, count := 0 }
/-- n vector registers from r. -/
def Dest.vec (r n : Nat) : Dest := { file := 1, reg := BitVec.ofNat 7 r, count := n }
/-- n scalar registers from r. -/
def Dest.scal (r n : Nat) : Dest := { file := 2, reg := BitVec.ofNat 7 r, count := n }
/-- A moment register. -/
def Dest.mom (r : Nat) : Dest := { file := 3, reg := BitVec.ofNat 7 r, count := 1 }

/-! ## The executing split -/

/-- The executing split. -/
def State.sp (s : State) : Split := s.grp.splits.get s.k
/-- Its MODE. -/
def State.mode (s : State) : W64 := s.sp.mode
/-- Lanes of the group (04 R20, WIDTH). -/
def State.width (s : State) : Nat := s.gang.lrec.lanes
/-- WIDTHMASK (00 R11). -/
def State.wmask (s : State) : Mask := widthMask s.width
/-- The guard of the executing split: all lanes where MODE.G is 0 (04 R52). -/
def State.guard (s : State) : Mask :=
  if modeG s.mode = 0 then BitVec.allOnes 64 else s.grp.sreg (modeG s.mode)
/-- ACTIVE: live lanes of the split that the guard does not clear (03 R16, 00 R11). -/
def State.active (s : State) : Mask := s.sp.mask &&& s.grp.live &&& s.guard
/-- The active lanes in ascending order. -/
def State.lanes (s : State) : List Nat := lanesOf s.active

/-- A scalar register of the group. -/
def State.readS (s : State) (r : BitVec 6) : W64 := s.grp.sreg r
/-- Writing a scalar register. -/
def State.writeS (s : State) (r : BitVec 6) (x : W64) : State := { s with grp := s.grp.setS r x }

/-- Values of lanes written to a vector register, nothing else (04 R44). -/
def Group.putV (r : Nat) : List (Nat × W32) → Group → Group
  | [], g => g
  | (l, x) :: t, g => Group.putV r t (g.setV r l x)
/-- Values of lanes written to a vector pair. -/
def Group.putPair (r : Nat) : List (Nat × W64) → Group → Group
  | [], g => g
  | (l, x) :: t, g => Group.putPair r t (g.setPair r l x)
/-- Values of lanes written to a moment register. -/
def Group.putM (r : Nat) : List (Nat × W64) → Group → Group
  | [], g => g
  | (l, x) :: t, g => Group.putM r t (g.setM r l x)

/-- A vector register written in the active lanes, each lane's value given. -/
def State.writeV (s : State) (r : Nat) (f : Nat → W32) : State :=
  { s with grp := s.grp.putV r (s.lanes.map fun l => (l, f l)) }
/-- A vector pair written in the active lanes. -/
def State.writePair (s : State) (r : Nat) (f : Nat → W64) : State :=
  { s with grp := s.grp.putPair r (s.lanes.map fun l => (l, f l)) }
/-- A moment register written in the active lanes. -/
def State.writeM (s : State) (r : Nat) (f : Nat → W64) : State :=
  { s with grp := s.grp.putM r (s.lanes.map fun l => (l, f l)) }

/-- The executing split changed. -/
def State.updSp (s : State) (f : Split → Split) : State := { s with grp := s.grp.updSplit s.k f }

/-- Every operation of a group that is not complete: in flight, in the replay queue, behind it. -/
def Group.outstanding (g : Group) : List Entry := g.flight ++ g.rq ++ g.behind

/-- The counts of a split after one more instruction, of the operations still outstanding (22 R334). -/
def Group.tickSkids (g : Group) (l : List (Nat × Nat)) : List (Nat × Nat) :=
  (l.filter fun q => g.outstanding.any fun e => e.id == q.1).map fun q => (q.1, q.2 + 1)

/-- Instructions that a split has issued after an operation (22 R334). -/
def Split.skid (x : Split) (id : Nat) : Nat := ((x.skids.find? fun q => q.1 == id).map (·.2)).getD 0

/-- Instructions issued after an operation by the split that holds a lane of its own: the firing lane, or its lowest lane left. -/
def Group.skidOf (g : Group) (e : Entry) (lane : Nat) : Nat :=
  let l := (g.splits.list.map (·.2)) ++ g.overflow
  match l.find? fun x => x.mask.getLsbD lane with
  | some x => x.skid e.id
  | none => ((l.find? fun x => x.mask &&& e.mask != 0).map fun x => x.skid e.id).getD 0

/-- The executing split goes on at an address: its instruction has issued. -/
def State.goto (s : State) (pc : W64) : State :=
  s.updSp fun x => { x with
    pc := pc, issued := x.issued + 1, skids := s.grp.tickSkids x.skids, issuedAt := s.cycles + 1, age := 0, promoted := none,
    skipPc := none, joined := none, blk := .no }

/-- The executing split's instruction issues in this cycle (22 R351). -/
def State.issuing (s : State) : State := s.updSp fun x => { x with issuedAt := s.cycles + 1 }

/-- The executing split is in its instruction, which has issued in this cycle, and waits there (14 R242, 22 R351). -/
def State.waitIn (s : State) (st : SplitState) : State :=
  s.updSp fun x => { x with st := st, issuedAt := s.cycles + 1, age := 0, promoted := none, blk := .no }

/-- The executing split goes on at the next instruction. -/
def State.advance (s : State) : State := s.goto (s.sp.pc + 4)

/-! ## Other groups -/

/-- The group in focus, named. -/
def State.self (s : State) : GroupRef :=
  { gang := { vf := s.gang.vf, seq := s.gang.seq, gang := s.gang.idx }, group := s.grp.idx }

/-- The name of a gang. -/
def Gang.ref (g : Gang) : GangRef := { vf := g.vf, seq := g.seq, gang := g.idx }

/-- Whether a gang is the one named. -/
def Gang.isRef (g : Gang) (r : GangRef) : Bool := g.present && g.vf == r.vf && g.seq == r.seq && g.idx == r.gang

/-- The resident gangs, the one in focus first. -/
def State.residents (s : State) : List Resident :=
  (if s.gang.present then [{ gang := s.gang, groups := s.grp :: s.peers }] else []) ++ s.others

/-- A gang brought into focus, with its first group: none where it is not resident. -/
def State.focusGang (s : State) (r : GangRef) : Option State :=
  if s.gang.isRef r then some s
  else match s.others.find? fun x => x.gang.isRef r with
    | none => none
    | some x =>
      match x.groups with
      | [] => none
      | g :: t =>
        let rest := s.others.filter fun y => !y.gang.isRef r
        let back := if s.gang.present then [{ gang := s.gang, groups := s.grp :: s.peers }] else []
        some { s with gang := x.gang, grp := g, peers := t, others := back ++ rest, k := 0 }

/-- A group of the gang in focus brought into focus. -/
def State.focusGroup (s : State) (i : BitVec 5) : Option State :=
  if s.grp.idx == i then some s
  else match s.peers.find? fun g => g.idx == i with
    | none => none
    | some g => some { s with grp := g, peers := s.grp :: s.peers.filter fun x => x.idx != i, k := 0 }

/-- A group brought into focus. -/
def State.focus (s : State) (r : GroupRef) : Option State := (s.focusGang r.gang).bind fun s => s.focusGroup r.group

/-- A change made with another group in focus; none where it is not resident. The focus and its split come back. -/
def State.at (s : State) (r : GroupRef) (f : State → State) : State :=
  let me := s.self
  let k := s.k
  match s.focus r with
  | none => s
  | some t =>
    match (f t).focus me with
    | none => f t
    | some u => { u with k := k }

/-- A context whose capture is complete: nothing of it moves (19 R301). -/
def State.captured (s : State) (vf : BitVec 7) : Bool := (s.ctx vf).csStat == 2

/-- A step of an agent on a group: nothing where the group is not resident, or its context is captured. -/
def State.onGroup (s : State) (r : GroupRef) (f : State → State) : State :=
  if s.captured r.gang.vf then s
  else match s.focus r with
    | none => s
    | some t => f t

/-- A change made to a group of an evicted gang, in the gang's image. -/
def State.onImage (s : State) (r : GroupRef) (f : State → State) : State :=
  match s.evicted.find? fun e => e.image.gang.isRef r.gang with
  | none => s
  | some e =>
    match ({ s with others := e.image :: s.others }).focus r with
    | none => s
    | some t =>
      let u := f t
      let image : Resident := { gang := u.gang, groups := u.grp :: u.peers }
      let u := { u with
        gang := Gang.blank, grp := Group.blank, peers := [], k := 0
        evicted := u.evicted.map fun (x : Evicted) => if x.image.gang.isRef r.gang then { x with image := image } else x }
      match u.focus s.self with
      | none => u
      | some v => { v with k := s.k }

/-- What a group still has in flight goes on: with the group, or in its saved image (14 R244). -/
def State.onFlight (s : State) (r : GroupRef) (f : State → State) : State :=
  if !s.captured r.gang.vf && (s.focus r).isNone then s.onImage r f else s.onGroup r f

/-- Every group of the gang in focus changed. -/
def State.mapGang (s : State) (f : Group → Group) : State := { s with grp := f s.grp, peers := s.peers.map f }

/-- Every group of every resident gang that satisfies p changed. -/
def State.mapWhere (s : State) (p : Gang → Bool) (f : Group → Group) : State :=
  let s := if p s.gang then s.mapGang f else s
  { s with others := s.others.map fun x => if p x.gang then { x with groups := x.groups.map f } else x }

/-! ## Events that sleepers wait for (05 R80) -/

/-- An event of a kind recorded by a sleeper that waits for it: the first to occur counts, and of several in one cycle that of
the lowest bit. -/
def Split.event (b : Nat) (x : Split) : Split :=
  match x.st with
  | .asleep _ _ ev =>
    let mine : W64 := BitVec.ofNat 64 (b + 1)
    if !ev.getLsbD b then x
    else match x.woke with
      | none => { x with woke := some mine, wokeNow := true }
      | some v => if x.wokeNow && mine.toNat < v.toNat then { x with woke := some mine } else x
  | _ => x

/-- An event of a kind in a group, its frame included. -/
def Group.event (b : Nat) (g : Group) : Group :=
  { g with splits := g.splits.map (Split.event b), overflow := g.overflow.map (Split.event b),
           frame := { g.frame with splits := g.frame.splits.map (Split.event b), stack := g.frame.stack.map (Split.event b) } }

/-! ## Counters (06 R123) -/

/-- The counted operations still counted: of each class, those from the oldest not complete on. -/
def pruneCounted : List (BitVec 3) → List Counted → List Counted
  | _, [] => []
  | open_, c :: t =>
    if open_.contains c.cls then c :: pruneCounted open_ t
    else if c.done then pruneCounted open_ t
    else c :: pruneCounted (c.cls :: open_) t

/-- A counter's present value. -/
def Group.count (g : Group) (cls : BitVec 3) : Nat := (g.counters.filter fun c => c.cls == cls).length

/-- An operation counts as completed; a counter that falls is an event (05 R80). -/
def Group.complete (g : Group) (id : Nat) : Group :=
  let l := pruneCounted [] (g.counters.map fun c => if c.id == id then { c with done := true } else c)
  if l.length < g.counters.length then Group.event 0 { g with counters := l } else { g with counters := l }

/-- Several operations count as completed. -/
def Group.completeAll (g : Group) (l : List Nat) : Group := l.foldl Group.complete g

/-! ## The save area (19 R302) -/

/-- The leaf of an address as it stands, A and D untouched. -/
def State.peek (s : State) (vf : BitVec 7) (core : CoreId) (va : W64) : Option (Nat × BitVec 128) :=
  if field va 57 7 ≠ (0 : BitVec 7) then none
  else match s.tlbFind vf core va with
    | some t => some (t.level.toNat, t.pte)
    | none =>
      match s.walkVa vf core va with
      | .leaf l e _ => some (l, e)
      | _ => none

/-- The part of the context. -/
def Context.saveBytes (c : Context) : Nat := 131072 + (c.regions.map fun r => r.2.toNat).sum

/-- The bytes that a capture of the context needs, which hold what they held at their most since it last had no uncompleted launch
(19 R301, R302). -/
def Context.saveSize (c : Context) : Nat := max c.csSize c.saveBytes

/-- CSSIZE as it reads: 0 at reset, so 0 while the context has had neither a launch nor a bank region since (19 R301, log 75). -/
def Context.shownSize (c : Context) : Nat := if c.csSize = 0 && c.regions.isEmpty then 0 else c.saveSize

/-- What a write to a page of the save area meets: 0, or the cause of the fault; a page to be filled or moved is not present. -/
def State.pageCause (s : State) (vf : BitVec 7) (va : W64) : BitVec 9 :=
  match (s.translate vf none va .write).1 with
  | .ok _ _ => 0
  | .trap c => c
  | .replay _ _ => cPAGE_INVALID

/-- What writes to n 64 KiB pages from an address meet: 0, or the cause of the first that fails. -/
def State.pagesCause (s : State) (vf : BitVec 7) : W64 → Nat → BitVec 9
  | _, 0 => 0
  | va, n + 1 => if s.pageCause vf va = 0 then State.pagesCause s vf (va + 65536) n else s.pageCause vf va

/-- What writes to the whole save area meet. -/
def State.saveCause (s : State) (vf : BitVec 7) (n : Nat) : BitVec 9 := s.pagesCause vf (s.ctx vf).csBase ((n + 65535) / 65536)

/-- The save area is set up to hold n bytes: writable, present, not migrate on touch. -/
def State.saveMapped (s : State) (vf : BitVec 7) (n : Nat) : Bool :=
  (s.ctx vf).csBase != 0 && (s.ctx vf).csBase.toNat % 65536 == 0 && s.saveCause vf n == 0

/-- What a group has in the save area: its trap frame, its overflow stack, records of the two logs, its gang's holder table, and the
entries of its replay queue from 8 on. -/
inductive Piece where
  | frame | stack | elog | wlog | holders
  | replay (i : Nat)
  deriving DecidableEq, Repr

/-- The number of a piece, and the bytes of it that one write takes. -/
def Piece.code : Piece → Nat × Nat
  | .frame => (0, 256)
  | .stack => (1, 64)
  | .elog => (2, 16)
  | .wlog => (3, 16)
  | .holders => (4, 16)
  | .replay i => (8 + i, 8192)

/-- What a write of a piece of the group in focus to its context's save area meets, where there is one, at the offset that the device
has chosen for it (19 R302, log 21). -/
def State.saveFault (s : State) (p : Piece) : BitVec 9 :=
  let c := s.ctx s.gang.vf
  if c.csBase = 0 then 0
  else
    let a := c.csBase.toNat + Config.saveSpot s.self p.code.1 % c.saveSize
    s.pagesCause s.gang.vf (pageOf (BitVec.ofNat 64 a)) ((a + p.code.2 - 1) / 65536 - a / 65536 + 1)

/-- What the first of several writes that fails meets. -/
def State.saveFaults (s : State) (l : List Piece) : BitVec 9 := ((l.map s.saveFault).find? (· != 0)).getD 0

/-- A trap that falls due for an operation of the group in focus; a killed group takes none (04 R62). -/
def State.pend (s : State) (d : Due) : State :=
  if s.grp.killed then s else { s with grp := { s.grp with due := s.grp.due ++ [d] } }

/-- A piece of the group in focus written to the save area while an instruction at an address has its effect: where the write fails the
group is killed at its boundary, before any trap (19 R302, log 21). -/
def State.saved (s : State) (p : Piece) (pc : W64) : State :=
  if s.saveFault p = 0 then s
  else s.pend { cause := s.saveFault p, tkind := 0, pc, split := s.k, detail := 0, va := 0, id := 0, queued := false, hits := [],
                kills := true }

/-- The device keeps what a running context has in its save area: it writes bytes there, at an offset of its choosing (19 R302). -/
def State.saveWrite (s : State) (vf : BitVec 7) (offset : Nat) (b : List Byte) : State :=
  let c := s.ctx vf
  if c.csBase = 0 || c.launches.isEmpty || c.csStat = 2 || c.saveSize < offset + b.length then s
  else (s.writeVirt vf none (c.csBase + BitVec.ofNat 64 offset) b).getD s

end Sys2Proof.Machine
end

