-- ==== Sys2Proof/Machine/Trace.lean ====
section
/-!
DEFINITION. Sys2Proof/Machine/Trace.lean: trace packets of the group in focus, and the buffers they go to (22 R347 to R350).
-/

namespace Sys2Proof.Machine

/-! ## Circular buffers (22 R347, R351) -/

/-- Bytes written to a circular buffer from a byte count on. -/
def writeRing (base size : W64) : W64 → List Byte → List Host.Cell → List Host.Cell
  | _, [], m => m
  | tail, b :: t, m =>
    writeRing base size (tail + 1) t (SMap.set m (base.toNat % 2 ^ 52 + tail.toNat % size.toNat) b)

/-- Whether n more bytes fit. -/
def Sink.fits (k : Sink) (n : Nat) : Bool := (k.tail - k.head).toNat + n ≤ k.size.toNat

/-- Entry d of a list of buffers. -/
def sinkAt (l : List Sink) (die : BitVec 3) : Sink := (l[die.toNat]?).getD Sink.reset

/-- A packet to the sink of a die; where it does not fit it is dropped, and every tracing group of the die owes a SYNC. -/
def State.putSink (s : State) (die : BitVec 3) (b : List Byte) : State :=
  let k := sinkAt s.sinks die
  if k.fits b.length then
    { s with mem := writeRing k.base k.size k.tail b s.mem,
             sinks := s.sinks.set die.toNat { k with tail := k.tail + BitVec.ofNat 64 b.length } }
  else s.mapWhere (fun g => g.present && g.die == die) fun g =>
    if g.tracectl.getLsbD 0 then { g with syncDue := true } else g

/-! ## Packets (22 R348, R349) -/

/-- TRACECTL.EN of the group. -/
def State.tracing (s : State) : Bool := s.grp.tracectl.getLsbD 0

/-- A packet of a kind. -/
def State.emit (s : State) (kind : Nat) (payload : List Byte) : State :=
  let header := BitVec.ofNat 8 (kind * 32 + s.grp.slot.toNat)
  let source := s.grp.idx.toNat % 4 * 2 ^ 14 + s.gang.core.toNat * 2 ^ 7
  s.putSink s.gang.die ((header :: toBytes 2 source) ++ (BitVec.ofNat 8 payload.length :: payload))

/-- A list of bits as a number, the first least significant. -/
def bitsNat : List Bool → Nat
  | [] => 0
  | b :: t => (if b then 1 else 0) + 2 * bitsNat t

/-- The branch bits collected so far, as one BMAP packet (log 9). -/
def State.flushBits (s : State) : State :=
  match s.grp.brBits with
  | [] => s
  | l =>
    let s := s.emit 1 ([s.grp.brSplit.setWidth 8, BitVec.ofNat 8 l.length] ++ toBytes 4 (bitsNat l))
    { s with grp := { s.grp with brBits := [] } }

/-- A packet while tracing, after the branch bits that precede it; nothing before the SYNC that the rise of EN asks for
(22 R349). -/
def State.packet (s : State) (kind : Nat) (payload : List Byte) : State :=
  if s.tracing && !s.grp.quiet then s.flushBits.emit kind payload else s

/-- The state of a split as the frame and a SYNC give it (18 R290). -/
def Split.code (x : Split) : Nat :=
  if x.isFree then 0
  else if x.held then 3
  else match x.st with
    | .parked _ _ => 4
    | .waiting _ _ | .atBarrier _ _ => 2
    | _ => 1

/-- The SYNC payload; the index of a split is in bits [7:4] of its byte, its state in [3:0] (log 9). -/
def State.syncPayload (s : State) : List Byte :=
  let held := s.grp.splits.list.filter fun q => !q.2.isFree
  toBytes 8 s.time.toNat ++
    [s.gang.core.setWidth 8, BitVec.ofNat 8 (s.grp.idx.toNat % 4), s.gang.die.setWidth 8, s.gang.vf.setWidth 8] ++
    toBytes 4 s.gang.idx.toNat ++
    [s.grp.idx.setWidth 8, field s.grp.tracectl 8 8, BitVec.ofNat 8 held.length] ++
    held.flatMap fun q =>
      BitVec.ofNat 8 (q.1.toNat * 16 + q.2.code) :: (toBytes 8 q.2.pc.toNat ++ toBytes 8 q.2.mask.toNat)

/-- A SYNC that is due, at an instruction boundary (22 R349). -/
def State.traceSync (s : State) : State :=
  if s.tracing && s.grp.syncDue then
    let s := { s with grp := { s.grp with syncDue := false, quiet := false } }
    s.packet 0 s.syncPayload
  else s

/-- One resolved branch of the whole split; 2,048 bits after a SYNC another is due. -/
def State.traceBit (s : State) (taken : Bool) : State :=
  if !s.tracing || s.grp.quiet then s
  else
    let s := if s.grp.brSplit = s.k then s else s.flushBits
    let n := s.grp.brCount + 1
    let due := n = 2048
    let g : Group :=
      { s.grp with brBits := s.grp.brBits ++ [taken], brSplit := s.k, brCount := (if due then 0 else n),
                   syncDue := s.grp.syncDue || due }
    let s := { s with grp := g }
    if g.brBits.length = 32 then s.flushBits else s

/-- An indirect transfer (05 R76, 22 R348 IND). -/
def State.traceInd (s : State) (k : BitVec 2) (target : W64) : State :=
  s.packet 2 (k.setWidth 8 :: toBytes 8 target.toNat)

/-- A division or promotion: source, new index (15 for the stack), reason, mask, PC (SPLIT). -/
def State.traceSplit (s : State) (source new reason : Nat) (mask : Mask) (pc : W64) : State :=
  if s.grp.tracectl.getLsbD 1 then
    s.packet 3 ([BitVec.ofNat 8 source, BitVec.ofNat 8 new, BitVec.ofNat 8 reason] ++ toBytes 8 mask.toNat ++
      toBytes 8 pc.toNat)
  else s

/-- A trap or a kill: split, cause, TKIND or 4, PC (EXC). -/
def State.traceExc (s : State) (k : BitVec 2) (cause : BitVec 9) (kind : Nat) (pc : W64) : State :=
  if s.grp.tracectl.getLsbD 2 then
    s.packet 5 ([k.setWidth 8] ++ toBytes 2 cause.toNat ++ [BitVec.ofNat 8 kind] ++ toBytes 8 pc.toNat)
  else s

/-- Entries that hold lanes now and held none of them before came from the stack (SPLIT, reason 2). -/
def tracePromotions (before : Group) : List (BitVec 2 × Split) → State → State
  | [], s => s
  | (i, x) :: t, s =>
    let old := unionMask (before.splits.list.map (·.2))
    tracePromotions before t (if !x.isFree && x.mask &&& old == 0 then s.traceSplit 15 i.toNat 2 x.mask x.pc else s)

/-- One MERGE: the surviving entry with its mask, the entries that were freed, the reason. -/
def State.traceFreed (s : State) (k : BitVec 2) (mask : Mask) (gone : List (BitVec 2 × Split)) (reason : Nat) : State :=
  if gone.isEmpty then s
  else s.packet 4 ([k.setWidth 8, BitVec.ofNat 8 (gone.foldl (fun n q => n + 2 ^ q.1.toNat) 0), BitVec.ofNat 8 reason] ++
    toBytes 8 mask.toNat)

/-- A MERGE for every entry that now holds the live lanes of other entries. -/
def traceMerges (before : Group) : List (BitVec 2 × Split) → State → State
  | [], s => s
  | (i, x) :: t, s =>
    let gone := before.splits.list.filter fun q =>
      !q.2.isFree && q.1 != i && q.2.mask &&& s.grp.live != 0 && q.2.mask &&& s.grp.live &&& ~~~x.mask == 0
    traceMerges before t (if x.isFree then s else s.traceFreed i x.mask gone 0)

/-- What merges freed, what lanes that exited freed beside split k, and what was promoted (MERGE, SPLIT). -/
def State.traceMerge (s : State) (before : Group) (k : BitVec 2) (reason : Nat) : State :=
  if !s.tracing || !s.grp.tracectl.getLsbD 1 then s
  else
    let gone := before.splits.list.filter fun q => !q.2.isFree && q.2.mask &&& s.grp.live == 0
    let s := if reason = 1 then s.traceFreed k (s.grp.splits.get k).mask gone 1 else s
    tracePromotions before s.grp.splits.list (traceMerges before s.grp.splits.list s)

end Sys2Proof.Machine
end

