-- ==== Sys2Proof/Machine/Watch.lean ====
section
/-!
DEFINITION. Sys2Proof/Machine/Watch.lean: evaluation of watch predicates, hit records and holding
(22 R329 to R337).
-/

namespace Sys2Proof.Machine

/-! ## Comparison (22 R331) -/

/-- The order of f32 bit patterns as integers: −0 equals +0. -/
def f32Key (x : W64) : Int :=
  let m : Int := ((field x 0 31).toNat : Int)
  if x.getLsbD 31 then -m else m

/-- Whether f32 bits are a NaN. -/
def f32NaN (x : W64) : Bool := 0x7F800000 < (field x 0 31).toNat

/-- Whether a value satisfies the comparison of a watch record. -/
def watchCmp (r : W256) (x : W64) : Bool :=
  let a := wOpa r
  let b := wOpb r
  let f := wSrc r == 5
  let nanA := f && (f32NaN x || f32NaN a)
  let nanB := f && (f32NaN x || f32NaN b)
  let lt (p q : W64) : Bool := if f then f32Key p < f32Key q else p.toNat < q.toNat
  let eq (p q : W64) : Bool := if f then f32Key p == f32Key q else p == q
  match (wCmp r).toNat with
  | 0 => !nanA && eq x a
  | 1 => nanA || !eq x a
  | 2 => !nanA && lt x a
  | 3 => !nanA && !lt x a
  | 4 => !nanA && !nanB && !lt x a && !lt b x
  | 5 => (f && f32NaN x) || (!nanA && lt x a) || (!nanB && lt b x)
  | 6 => !nanA && x &&& a != 0
  | _ => true

/-! ## Counting (22 R329, R332) -/

/-- The predicates of the context that select the group in focus, for the sources given (22 R332). -/
def State.selected (s : State) (srcs : List (BitVec 4)) : List (BitVec 4 × W256) :=
  if s.grp.frame.active then []
  else ((s.ctx s.gang.vf).watch.filter fun w =>
      srcs.contains (wSrc w.record) &&
      (match (wGangSel w.record).toNat with
        | 0 => true
        | 1 => w.gang == s.gang.idx && w.seq == s.gang.seq
        | _ => w.seq == s.gang.seq) &&
      ((wGroupSel w.record).getLsbD 5 || field (wGroupSel w.record) 0 5 == s.grp.idx)).map fun w => (w.p, w.record)

/-- The counts of the context's predicate p on the core of the gang in focus (22 R329, R339). -/
def State.watchCount (s : State) (p : BitVec 4) : BitVec 16 × W32 :=
  match s.watchCounts.find? fun c => c.die == s.gang.die && c.core == s.gang.core && c.vf == s.gang.vf && c.p == p with
  | some c => (c.matches_, c.firings)
  | none => (0, 0)

/-- The counts of predicate p on the core of the gang in focus replaced. -/
def State.setWatchCount (s : State) (p : BitVec 4) (n : BitVec 16) (f : W32) : State :=
  let rest := s.watchCounts.filter fun c =>
    !(c.die == s.gang.die && c.core == s.gang.core && c.vf == s.gang.vf && c.p == p)
  { s with watchCounts := { die := s.gang.die, core := s.gang.core, vf := s.gang.vf, p, matches_ := n, firings := f } :: rest }

/-- Matches of one predicate counted lane by lane: the matches since the last firing, firings, the first firing lane. -/
def countMatches (r : W256) : List (Nat × W64) → BitVec 16 → W32 → Option (Nat × W64) →
    BitVec 16 × W32 × Option (Nat × W64)
  | [], n, f, hit => (n, f, hit)
  | (l, x) :: t, n, f, hit =>
    if (wLanes r).getLsbD l && watchCmp r x then
      if n + 1 = wCount r then
        countMatches r t 0 (if f = BitVec.allOnes 32 then f else f + 1) (match hit with | some h => some h | none => some (l, x))
      else countMatches r t (n + 1) f hit
    else countMatches r t n f hit

/-- The values each source compares for one instruction, by lane. -/
abbrev Sources := List (BitVec 4 × List (Nat × W64))

/-- The values of one source. -/
def Sources.of (v : Sources) (src : BitVec 4) : List (Nat × W64) := ((v.find? fun x => x.1 == src).map (·.2)).getD []

/-- Evaluation of predicates on the values of lanes, in ascending predicate and lane order. -/
def State.evaluate (s : State) (vals : Sources) : List (BitVec 4 × W256) → State × List Firing
  | [] => (s, [])
  | (p, r) :: t =>
    let c := s.watchCount p
    let (n, f, hit) := countMatches r (vals.of (wSrc r)) c.1 c.2 none
    let s1 := s.setWatchCount p n f
    let (s2, l) := State.evaluate s1 vals t
    match hit with
    | some (lane, v) => (s2, { p, src := wSrc r, act := wAct r, lane, value := v } :: l)
    | none => (s2, l)

/-! ## Hit records (22 R335, R337) -/

/-- The PC of an instruction less the launch's code address, in words, all ones where it does not fit (04 R63). -/
def State.pcOff (s : State) (pc : W64) : BitVec 30 :=
  let d := (pc - s.gang.lrec.code) >>> 2
  if s.gang.lrec.code.toNat ≤ pc.toNat && d.toNat < 2 ^ 30 then d.setWidth 30 else BitVec.allOnes 30

/-- A hit record. -/
def State.hitRecord (s : State) (f : Firing) (act : BitVec 3) (split : BitVec 2) (skid : Nat) (pc : W64) :
    BitVec 128 :=
  let lo : W64 := putField (putField (putField (putField (putField (putField (putField (putField (putField
    (0 : W64) 63 (1 : BitVec 1)) 59 f.p) 55 f.src) 52 act) 46 (BitVec.ofNat 6 f.lane)) 44 split) 39 s.grp.idx) 31
    (BitVec.ofNat 8 skid)) 0 (s.pcOff pc)
  f.value ++ lo

/-- A hit record appended to the watch log, or counted as dropped. -/
def State.logHit (s : State) (h : BitVec 128) : State :=
  s.updCtx s.gang.vf fun c =>
    if c.wlog.length < 256 then { c with wlog := c.wlog ++ [h] }
    else { c with wlogOvf := if c.wlogOvf = BitVec.allOnes 32 then c.wlogOvf else c.wlogOvf + 1 }

/-! ## Holding (22 R336) -/

/-- What a stop leaves with the splits it holds: the record of the firing that acted, and the up to four records of the
firings of lowest predicate number (22 R333, R344); of a debug halt nothing. -/
structure Stop where
  hit : BitVec 128 := 0
  hits : List (BitVec 128) := []
  deriving DecidableEq, Repr

/-- A split held by a stop. -/
def Split.hold (h : Stop) (x : Split) : Split :=
  if x.isFree then x else { x with held := true, hit := h.hit, hits := h.hits }

/-- Every split of a group held. -/
def Group.holdAll (h : Stop) (g : Group) : Group :=
  { g with splits := g.splits.map (Split.hold h), overflow := g.overflow.map (Split.hold h) }

/-- One lane of split k carved into a held split of its own; the whole split where it is alone or no entry can be had. -/
def State.holdLane (s : State) (k : BitVec 2) (lane : Nat) (h : Stop) : State :=
  let x := s.grp.splits.get k
  if x.mask = laneBit lane || !x.mask.getLsbD lane then { s with grp := s.grp.updSplit k (Split.hold h) }
  else match s.grp.carve k (laneBit lane) (Split.hold h) with
    | none => { s with grp := s.grp.updSplit k (Split.hold h) }
    | some (g, j) =>
      ({ s with grp := g }).traceSplit k.toNat (match j with | some i => i.toNat | none => 15) 1 (laneBit lane) x.pc

/-! ## Actions (22 R333, R334) -/

/-- Strength of an action, from log up to halt gang. -/
def strength (act : BitVec 3) : Nat :=
  match act.toNat with | 0 => 0 | 2 => 1 | 1 => 2 | 3 => 3 | _ => 4

/-- The firing whose action takes effect: the strongest, of the lowest predicate among those. -/
def strongest : List Firing → Option Firing
  | [] => none
  | f :: t =>
    match strongest t with
    | some g => if strength f.act < strength g.act then some g else some f
    | none => some f

/-- A firing put among others by predicate number. -/
def insertFiring (f : Firing) : List Firing → List Firing
  | [] => [f]
  | x :: t => if f.p.toNat < x.p.toNat then f :: x :: t else x :: insertFiring f t

/-- The hit records of the firings logged; the one that acts, its record, and up to four for the frame. -/
def State.logFirings (s : State) (fs : List Firing) (act : BitVec 3) (split : BitVec 2) (skid : Nat) (pc : W64) :
    State × List (BitVec 128) :=
  let recs := fs.map fun f => s.hitRecord f act split skid pc
  let t := recs.foldl State.logHit s
  (if fs.isEmpty then t else t.saved .wlog pc, recs.take 4)

/-- A halt applied: a lane of split k, the group or the gang; for the tile-rank source the whole split. -/
def State.halt (s : State) (act : BitVec 3) (k : BitVec 2) (lane : Nat) (src : BitVec 4) (h : Stop) : State :=
  match act.toNat with
  | 2 => if src == 6 then { s with grp := s.grp.updSplit k (Split.hold h) } else s.holdLane k lane h
  | 3 => { s with grp := s.grp.holdAll h }
  | 4 => s.mapGang (Group.holdAll h)
  | _ => s

/-- What follows an evaluation other than of the PC: hit records, then the action; a trap falls due at the next boundary
(22 R334). -/
def State.actOn (s : State) (fs : List Firing) (k : BitVec 2) (skid : Nat) (pc : W64) : State :=
  match strongest fs with
  | none => s
  | some f =>
    let (s, recs) := s.logFirings fs f.act k skid pc
    let h : Stop := { hit := s.hitRecord f f.act k skid pc, hits := recs }
    if f.act.toNat = 1 then
      let d : Due := { cause := cWATCH_TRAP, tkind := 3, pc, split := k, detail := f.p.setWidth 64, va := 0,
                       id := s.grp.nextId, queued := false, hits := recs }
      { s with grp := { s.grp with due := s.grp.due ++ [d] } }
    else s.halt f.act k f.lane f.src h

/-- Sources of the executing instruction evaluated together on the values of lanes, with the action (22 R332 to R334). -/
def State.watchAll (s : State) (vals : Sources) (pc : W64) : State :=
  match s.selected (vals.map (·.1)) with
  | [] => s
  | l =>
    let (s1, fs) := s.evaluate vals l
    s1.actOn fs s.k 0 pc

/-- One source of the executing instruction evaluated. -/
def State.watch (s : State) (src : BitVec 4) (vals : List (Nat × W64)) (pc : W64) : State := s.watchAll [(src, vals)] pc

/-- The PC source evaluated before the executing instruction issues, on every lane of its split (22 R332). -/
def State.watchPc (s : State) : State × List Firing :=
  s.evaluate [(7, (lanesOf s.sp.mask).map fun l => (l, s.sp.pc))] (s.selected [7])

/-- No predicate looks at the PC of the executing instruction. -/
def State.pcQuiet (s : State) : Bool := s.sp.skipPc == some s.sp.pc || (s.selected [7]).isEmpty

end Sys2Proof.Machine
end

