-- ==== Sys2Proof/Machine/Ops.lean ====
section
/-!
DEFINITION. Sys2Proof/Machine/Ops.lean: the shared operations of the meanings: the error registers and the error log, hardware
barriers, killing a group, taking a trap and returning from it, and issue.
-/

namespace Sys2Proof.Machine

/-! ## Context errors and the error log (04 R63, 18 R298) -/

/-- CTXERR after an error of the group in focus. -/
def State.ctxErrBits (s : State) (cause : BitVec 9) (pc : W64) : W64 :=
  let gang : BitVec 18 := if s.gang.idx.toNat < 2 ^ 18 then s.gang.idx.setWidth 18 else BitVec.allOnes 18
  (1#1 ++ 0#1 ++ cause ++ s.grp.idx ++ gang ++ s.pcOff pc)

/-- The first error of a context recorded, MULTI set by a further one (04 R63); MSI-X vector 1 (16 R259). -/
def State.recordError (s : State) (cause : BitVec 9) (pc : W64) : State :=
  if (s.ctx s.gang.vf).ctxErr.getLsbD 63 then
    s.updCtx s.gang.vf fun c => { c with ctxErr := c.ctxErr ||| (1#64 <<< 62) }
  else
    (s.updCtx s.gang.vf fun c =>
      { c with ctxErr := s.ctxErrBits cause pc, errPc := pc, errLaunch := s.gang.launch }).raiseMsix s.gang.vf 1

/-- A record appended to a context's error log; a full log counts what it drops (18 R298). -/
def Context.logged (c : Context) (r : BitVec 128) : Context :=
  if c.elog.length < 1024 then { c with elog := c.elog ++ [r] }
  else { c with elogOvf := if c.elogOvf = BitVec.allOnes 32 then c.elogOvf else c.elogOvf + 1 }

/-- A tile operation that rounds or multiplies, and so may log an error (10 R180). -/
def MemOp.tileLogs : MemOp → Bool
  | .tile .tld | .tile .tz => false
  | .tile _ => true
  | _ => false

/-- An operation that may still log an error: a tile operation that logs at all, or a store or update that is held or goes to
another module (10 R180, 16 R263). -/
def Entry.mayLog (e : Entry) : Bool := e.op.tileLogs || (e.op.queued && (e.held.isSome || e.openAccs.any Acc.remote))

/-- A record waits for the operations issued before its instruction that may still log: 18 R298 gives a group's records the issue
order of their instructions, over 21 R321, which has a record in place with the instruction's write (log 76). -/
def Group.logWaits (g : Group) (id : Nat) : Bool := g.outstanding.any fun e => e.id < id && e.mayLog

/-- A record put among those of a group that wait, in issue order. -/
def insertLog (x : Nat × BitVec 128) : List (Nat × BitVec 128) → List (Nat × BitVec 128)
  | [] => [x]
  | y :: t => if x.1 < y.1 then x :: y :: t else y :: insertLog x t

/-- Records of the group in focus appended to the error log of its context, in its save area (18 R298, 19 R302); of none nothing is
written. -/
def State.appendLog (s : State) (l : List (BitVec 128)) : State :=
  match l with
  | [] => s
  | r :: _ => (s.updCtx s.gang.vf fun c => l.foldl Context.logged c).saved .elog (field r 64 64)

/-- The records of a group whose turn has come go to the log of its context. -/
def State.flushLogs (s : State) : State :=
  if s.grp.logs.isEmpty then s
  else
    let turn := s.grp.logs.filter fun x => !s.grp.logWaits x.1
    ({ s with grp := { s.grp with logs := s.grp.logs.filter fun x => s.grp.logWaits x.1 } }).appendLog
      (turn.map fun (x : Nat × BitVec 128) => x.2)

/-- The trigger decisions a group has asked for whose earlier pushes have all been answered (15 R252). -/
def State.sendFlushes (s : State) : State :=
  if s.grp.flushes.isEmpty then s
  else
    let waits (x : Nat × BitVec 10) : Bool := s.grp.outstanding.any fun e => e.op == .qpush && e.id < x.1
    let turn := s.grp.flushes.filter fun x => !waits x
    let s := { s with grp := { s.grp with flushes := s.grp.flushes.filter waits } }
    s.updCtx s.gang.vf fun c => { c with triggers := turn.foldl (fun l x => if l.contains x.2 then l else l ++ [x.2]) c.triggers }

/-- What waited for an operation that is no longer outstanding: error-log records, trigger decisions. -/
def State.afterEntry (s : State) : State := s.flushLogs.sendFlushes

/-- An error-log record of the instruction or operation of an issue number: a group's records appear in the issue order of their
instructions (18 R298). -/
def State.logError (s : State) (id : Nat) (cause : BitVec 9) (lane : Nat) (split : BitVec 2) (pc : W64) : State :=
  let lo : W64 := putField (putField (putField (putField (putField (putField (0 : W64) 63 (1 : BitVec 1)) 54 cause)
    49 s.grp.idx) 47 split) 41 (BitVec.ofNat 6 lane)) 0 s.gang.idx
  if s.grp.logWaits id then { s with grp := { s.grp with logs := insertLog (id, pc ++ lo) s.grp.logs } }
  else s.appendLog [pc ++ lo]

/-! ## Hardware barriers (03 R30, R31, 06 R130) -/

/-- A group that has neither retired nor been killed. -/
def Group.alive (g : Group) : Bool := !g.retired && !g.killed

/-- A gang's place in its band. -/
def Gang.place (g : Gang) : Nat := g.idx.toNat % (max 1 g.lrec.band.toNat)

/-- Whether a gang belongs to a band. -/
def Band.holds (b : Band) (g : Gang) : Bool := g.present && g.vf == b.vf && g.seq == b.seq && g.band == some b.idx

/-- The band of the gang in focus. -/
def State.myBand (s : State) : Option Band := s.bands.find? fun b => b.holds s.gang

/-- The gangs of a band, resident and evicted. -/
def State.bandGangs (s : State) (b : Band) : List Resident :=
  (s.residents ++ s.evicted.map (·.image)).filter fun r => b.holds r.gang

/-- A split whose instruction has what it waited for goes on past it. -/
def Split.goOn (x : Split) : Split :=
  { x with
    st := .running, pc := x.pc + 4, issued := x.issued + 1, skids := x.skids.map fun q => (q.1, q.2 + 1), age := 0, promoted := none
    skipPc := none, joined := none, blk := .no }

/-- A split that waited at a hardware barrier goes on past it; one that is held goes on when it is released (22 R336). -/
def Split.passBarrier (band : Bool) (b : BitVec 4) (x : Split) : Split :=
  match x.st with
  | .atBarrier band' b' =>
    if band' == band && b' == b then (if x.held then { x with st := .passed none 0 } else x.goOn) else x
  | _ => x

/-- The splits of a group released from a barrier, those saved in its frame included; a phase is an event (05 R80). -/
def Group.passBarrier (band : Bool) (b : BitVec 4) (g : Group) : Group :=
  let f := Split.passBarrier band b
  Group.event 1 { g with
    splits := g.splits.map f, overflow := g.overflow.map f
    frame := { g.frame with splits := g.frame.splits.map f, stack := g.frame.stack.map f } }

/-- The barriers of a list with number b replaced. -/
def setBar (l : List (Nat × SyncBar)) (b : Nat) (x : SyncBar) : List (Nat × SyncBar) :=
  (b, x) :: l.filter fun p => p.1 != b

/-- Barrier b of a list; unused ones have nobody arrived. -/
def getBar (l : List (Nat × SyncBar)) (b : Nat) : SyncBar :=
  match l.find? fun p => p.1 == b with
  | some p => p.2
  | none => { mask := 0, arrived := [], phase := 0 }

/-- A barrier after its phase. -/
def SyncBar.next (x : SyncBar) : SyncBar := { mask := 0, arrived := [], phase := ~~~x.phase }

/-- Whether everybody a gang barrier waits for has arrived. -/
def State.gangBarDone (s : State) (x : SyncBar) : Bool :=
  !x.arrived.isEmpty && (s.grp :: s.peers).all fun g =>
    !(g.alive && x.mask.getLsbD g.idx.toNat) || x.arrived.contains (0, g.idx)

/-- Whether everybody a band barrier waits for has arrived. -/
def State.bandBarDone (s : State) (b : Band) (x : SyncBar) : Bool :=
  !x.arrived.isEmpty && (s.bandGangs b).all fun r =>
    !x.mask.getLsbD r.gang.place ||
      r.groups.all fun g => !g.alive || x.arrived.contains (BitVec.ofNat 5 r.gang.place, g.idx)

/-- Gang barriers whose phase is complete complete it. -/
def State.checkGangBars : List (Nat × SyncBar) → State → State
  | [], s => s
  | (b, x) :: t, s =>
    State.checkGangBars t <|
      if s.gangBarDone x then
        { s with gang := { s.gang with barriers := setBar s.gang.barriers b x.next } }.mapGang
          (Group.passBarrier false (BitVec.ofNat 4 b))
      else s

/-- A band barrier changed, with its 16 bytes in the band's region (14 R236, log 42). -/
def State.setBandBar (s : State) (band : Band) (b : Nat) (x : SyncBar) : State :=
  let s := { s with bands := s.bands.map fun (y : Band) =>
    if y.vf == band.vf && y.seq == band.seq && y.idx == band.idx then { y with barriers := setBar y.barriers b x } else y }
  if band.resident then
    s.writeBank (band.base + BitVec.ofNat 29 (16 * b)) (toBytes 16 (Config.bandBarrier x.mask x.arrived x.phase).toNat)
  else { s with bands := s.bands.map fun (y : Band) =>
    if y.vf == band.vf && y.seq == band.seq && y.idx == band.idx then
      { y with saved := SMap.setRange y.saved (16 * b) (toBytes 16 (Config.bandBarrier x.mask x.arrived x.phase).toNat) } else y }

/-- Band barriers whose phase is complete complete it. -/
def State.checkBandBars (band : Band) : List (Nat × SyncBar) → State → State
  | [], s => s
  | (b, x) :: t, s =>
    State.checkBandBars band t <|
      if s.bandBarDone band x then
        let f := Group.passBarrier true (BitVec.ofNat 4 b)
        let s := (s.setBandBar band b x.next).mapWhere band.holds f
        { s with evicted := s.evicted.map fun (e : Evicted) =>
          if band.holds e.image.gang then { e with image := { e.image with groups := e.image.groups.map f } } else e }
      else s

/-- Every hardware barrier of the gang in focus and of its band tested (03 R30, R31). -/
def State.checkBars (s : State) : State :=
  let s := State.checkGangBars s.gang.barriers s
  match s.myBand with
  | none => s
  | some b => State.checkBandBars b b.barriers s

/-! ## Killing a group (04 R62 to R64) -/

/-- An operation that a kill discards: one that is with the core, but for tile operations, which retire (04 R62). -/
def Entry.unfinished (e : Entry) : Bool := e.withCore && (!e.op.isTile || e.err != 0)

/-- The group in focus killed (04 R62): its lanes exited, its splits, frame and unfinished instructions discarded; operations
in flight go on to complete. -/
def State.killGroup (s : State) (cause : BitVec 9) (pc : W64) : State :=
  let s := s.traceExc s.k cause 4 pc
  let s := s.recordError cause pc
  let dropped := (s.grp.flight.filter (·.unfinished)) ++ s.grp.rq ++ s.grp.behind
  let g := { s.grp with
    live := 0, splits := SplitTable.empty, overflow := [], rq := [], behind := [], due := [], frame := Frame.none, killed := true,
    exitPc := pc, flight := s.grp.flight.filter fun e => !e.unfinished }
  let me := s.self
  let s := { s with grp := g.completeAll (dropped.map fun (e : Entry) => e.id) }.afterEntry
  let s := s.updCtx s.gang.vf fun c => { c with
    launches := c.launches.map fun (l : Launch) => if l.seq == s.gang.seq then { l with killed := true } else l
    launchReqs := c.launchReqs.filter fun (r : LaunchReq) => r.g != me }
  s.checkBars

/-! ## Taking a trap (18 R288 to R290) -/

/-- An operation put among others in issue order. -/
def insertEntry (e : Entry) : List Entry → List Entry
  | [] => [e]
  | x :: t => if e.id < x.id then e :: x :: t else x :: insertEntry e t

/-- What the replay queue holds. -/
def rqSize : Nat := 16

/-- Taking a trap (18 R289): the unfinished instructions go to the replay queue in issue order, of which it holds 16 and the rest follow
it (log 79); the split table goes to the
frame, the overflow stack out of the handler's reach, and the handler runs in entry 0 with every live lane and MODE 0. What else
was due, of operations that are not queued, stays due (R288). Without a handler, or inside one, the group is killed; so
it is where the frame cannot be written to the save area (19 R302). The operation whose own trap this is is queued without a cause. -/
def State.takeTrap (s : State) (d : Due) : State :=
  let stuck := s.stuck
  let fault := s.saveFaults (.frame :: (List.range (min stuck.length (rqSize - s.grp.rq.length))).map fun i => .replay (s.grp.rq.length + i))
  if s.gang.tvec = 0 || s.grp.frame.active then s.killGroup d.cause d.pc
  else if fault ≠ 0 then s.killGroup fault d.pc
  else
    let s := s.traceExc d.split d.cause d.tkind.toNat d.pc
    let queued := stuck.map fun e => if d.queued && d.id = e.id then { e with err := 0, failed := e.op.isTile } else e
    let g := s.grp
    let frame : Frame :=
      { active := true, split := d.split, tkind := d.tkind, cause := d.cause, pc := d.pc
        mask := d.lanes.getD (g.splits.get d.split).mask, detail := d.detail, va := d.va, splits := g.splits
        stack := g.overflow, hits := d.hits.take 4, later := g.due.filter fun x => !x.queued && !x.kills, first := g.nextId }
    let all := queued.foldl (fun l e => insertEntry e l) (g.rq ++ g.behind)
    let handler : Split := { Split.free with pc := s.gang.tvec, mask := g.live }
    let s := { s with grp := { g with
      rq := all.take rqSize, behind := all.drop rqSize
      flight := without g.flight stuck
      frame, due := g.due.filter (·.kills), splits := { SplitTable.empty with e0 := handler }, overflow := [] } }
    s.traceInd 0 s.gang.tvec

/-- What a trap at the executing split's instruction tells. -/
def State.dueHere (s : State) (cause : BitVec 9) (tkind : BitVec 2) (va : W64) : Due :=
  { cause, tkind, pc := s.sp.pc, split := s.k, detail := 0, va, id := s.grp.nextId, queued := false, hits := [] }

/-- A precise trap at the executing split's instruction, which has no effect (18 R288). -/
def State.trap (s : State) (cause : BitVec 9) : State := s.takeTrap (s.dueHere cause 0 0)

/-- A precise trap that names an address. -/
def State.trapVa (s : State) (cause : BitVec 9) (va : W64) : State := s.takeTrap (s.dueHere cause 0 va)

/-- A precise trap of a record check: a misaligned record names its base. -/
def State.trapRec (s : State) (cause : BitVec 9) (r : W256) : State :=
  s.trapVa cause (if cause = cALIGN then bufBase r else 0)

/-- The trap due to the oldest operation (18 R288); before it a kill, of several the last. -/
def oldestDue : List Due → Option Due
  | [] => none
  | d :: t =>
    match oldestDue t with
    | some e => if e.kills || (!d.kills && e.id < d.id) then some e else some d
    | none => some d

/-- The oldest trap that is due taken at an instruction boundary, after a SYNC that is due there; operations with a cause of their own keep it in the replay
queue, and what else was due stays due (18 R288). A write to the save area that failed kills the group before any trap (19 R302). -/
def State.takeDue (s : State) : State :=
  let s := s.traceSync
  match oldestDue s.grp.due with
  | none => s
  | some d =>
    if d.kills then s.killGroup d.cause d.pc
    else ({ s with grp := { s.grp with due := s.grp.due.erase d } }).takeTrap d

/-- The deferred trap of an operation that carries a cause. -/
def Entry.due (e : Entry) (queued : Bool) : Due :=
  { cause := e.err, tkind := 1, pc := e.pc, split := e.split, detail := if e.op.isEngine then e.detail else 0, va := e.va, id := e.id, queued, hits := [] }

/-- An operation put in flight; one that carries a cause traps at the next boundary (18 R282). -/
def State.launchEntry (s : State) (e : Entry) : State :=
  let s := { s with grp := { s.grp with flight := insertEntry e s.grp.flight } }
  if e.err = 0 then s else s.pend (e.due true)

/-! ## Changes of shared records, records and codebooks loaded whole (06 R136, R138, 08 R156) -/

/-- The 64-bit words of a record, as an operation that writes the table keeps them. -/
def recordWords (r : W256) : SMap 64 := SMap.ofValues 0 ((List.range 4).map fun i => (field r (64 * i) 64 : BitVec 64))

/-- Record N changed by an operation of the group, whose captured operands are e's: in the local window at once; in the shared window
in the core's copy at once, and in the table as a store of the group at the operation's place in its program order (08 R156). -/
def State.changeRecord (s : State) (e : Entry) (n : BitVec 10) (r : W256) : State :=
  if n.toNat < 256 then { s with gang := { s.gang with window := s.gang.window.set n.toNat r } }
  else
    let s := s.setCopy n r
    let e := { e with
      op := .st .table, recs := [n], result := recordWords r, dest := Dest.none, held := none, err := 0, accs := [], done := 0 }
    let (e, s) := s.loadEntry e
    ({ s with grp := { s.grp with nextId := max s.grp.nextId (e.id + 1) } }).launchEntry e

/-- A translated load of a record or of the codebook performed: the entry carries a cause where it may not be. -/
def State.loadWhole (s : State) (e : Entry) : Entry × State :=
  match s.readAccs e.accs with
  | (.error (c, va), s) => ({ e with err := c, va }, s)
  | (.ok b, s) =>
    match e.op with
    | .recLd =>
      let n := (e.recs.head?).getD 0
      let image := BitVec.ofNat 256 (ofBytes b)
      match loadRefused (s.record n) image with
      | some c => ({ e with err := c }, s)
      | none => (e, s.changeRecord e n (loadedRecord (s.record n) image))
    | _ =>
      let cb := SMap.setRange [] 0 b
      (e, ({ s with gang := { s.gang with codebook := cb } }).updCtx s.gang.vf fun c => { c with codebook := cb })

/-- The causes with which `rec.ld` is refused precisely (06 R136, R139). -/
def refusesPrecisely (c : BitVec 9) : Bool := c == cREC_BUSY || c == cREC_VALUE

/-- An operation that a fault had held, and that is now refused as at its issue: it has no effect, its split stands at it again, and
its precise trap falls due (06 R136, 15 R249, R254, 16 R264). -/
def State.refuseWhole (s : State) (e : Entry) : State :=
  let mine (x : Split) : Bool := !x.isFree && x.pc == e.pc + 4 && x.mask &&& e.mask != 0
  let back (x : Split) : Split := if mine x then { x with pc := e.pc, st := .running, blk := .no } else x
  let k := ((s.grp.splits.list.find? fun q => mine q.2).map (·.1)).getD e.split
  ({ s with grp := { s.grp with splits := s.grp.splits.map back, overflow := s.grp.overflow.map back } }).pend
    { cause := e.err, tkind := 0, pc := e.pc, split := k, detail := 0, va := e.va, id := e.id, queued := false, hits := [] }

/-! ## Returning from a trap (18 R296) -/

/-- A replay entry re-injected: its destination empty again, performed from its captured operands, held again where its page
still faults. -/
def State.reinject (s : State) (e : Entry) : State :=
  let s := { s with grp := s.grp.markAll true e.dest.regs }
  let (e, s) := s.loadEntry { e with cancelled := [], failed := false }
  if e.op.whole && e.err == 0 && e.held.isNone then
    let (e, s) := s.loadWhole e
    if e.err = 0 then s else if refusesPrecisely e.err then s.refuseWhole e else s.launchEntry e
  else s.launchEntry e

/-- The replay entries re-injected from the oldest on. The first that carries a cause raises it, and stays first in the
queue without it; a word that is illegal kills the group at the entry's PC (04 R62, 18 R296). -/
def State.reinjectAll : List Entry → State → State
  | [], s => { s with grp := { s.grp with rq := [], behind := [] } }
  | e :: t, s =>
    if (decode e.word).isNone then s.killGroup cILLEGAL e.pc
    else if e.err = 0 then State.reinjectAll t (s.reinject e)
    else
      let l := { e with err := 0, failed := e.op.isTile } :: t
      let s := { s with grp := { s.grp with rq := l.take rqSize, behind := l.drop rqSize } }
      s.takeTrap { e.due false with tkind := 1 }

/-- A split record of the frame restored, without the lanes that exited in the handler. -/
def Split.restore (live : Mask) (x : Split) : Split :=
  if x.mask &&& live = 0 then Split.free else { x with mask := x.mask &&& live }

/-- COVERCHECK for every waiting join, and the trap that falls due with it (03 R28, R31, 18 R296). -/
def State.recheck (s : State) (gone : Mask) : State :=
  let before := s.grp
  let (g, t) := s.grp.shrink gone
  let s := ({ s with grp := g }).traceMerge before s.k (if gone = 0 then 0 else 1)
  match t with
  | none => s
  | some t => ({ s with k := t.split }).takeTrap
      { cause := t.cause, tkind := 0, pc := t.pc, split := t.split, detail := 0, va := 0, id := s.grp.nextId, queued := false,
        hits := [], lanes := some t.lanes }

/-- Return from a trap by a split that holds every live lane (18 R296). -/
def State.returnFromTrap (s : State) : State :=
  let f := s.grp.frame
  let rq := s.grp.rq ++ s.grp.behind
  let g := Group.promote { s.grp with
    splits := f.splits.map (Split.restore s.grp.live)
    overflow := (f.stack.map (Split.restore s.grp.live)).filter fun x => !x.isFree
    frame := { f with active := false, stack := [], later := [] }
    due := s.grp.due ++ f.later }
  let s := { s with grp := g }
  let s := s.traceInd f.split (f.splits.get f.split).pc
  let s := State.reinjectAll rq s
  if s.grp.frame.active || s.grp.killed then s else s.recheck 0

/-! ## Fetching a shared record (06 R110 to R112, 08 R156) -/

/-- What the fetch of a shared entry meets: done, a store to the entry by its own core still to be performed, a replayable fault,
a cause. -/
inductive RecFetch where
  | ok (s : State)
  | wait
  | hold (va : W64) (level : BitVec 3) (mot : Bool) (s : State)
  | trap (cause : BitVec 9) (va : W64) (s : State)

/-- A change to shared entry N made on the core in focus is not yet in the table. -/
def State.tableBusy (s : State) (n : BitVec 10) : Bool :=
  s.residents.any fun r => r.gang.die == s.gang.die && r.gang.core == s.gang.core && r.gang.vf == s.gang.vf &&
    r.groups.any fun g => g.outstanding.any fun e => e.op == .st .table && e.recs == [n] && e.done == 0

/-- The core in focus fetches shared entry N from the table, as a translated read of the group. -/
def State.fetchRecord (s : State) (n : BitVec 10) : RecFetch :=
  let va := (s.ctx s.gang.vf).entryAddr n
  if s.tableBusy n then .wait
  else match s.translateAll .read [virtAcc va 32] with
    | (.hold va l m, s1) => .hold va l m s1
    | (.trap c va, s1) => .trap c va s1
    | (.ok accs, s1) =>
      match s1.readAccs accs with
      | (.error (c, va), s2) => .trap c va s2
      | (.ok b, s2) => .ok (s2.setCopy n (cleanImage (BitVec.ofNat 256 (ofBytes b))))

/-! ## Issue (04 R42, R46, R47, R52, 14 R242) -/

/-- What an instruction needs before it issues: whether its register ranges are well formed, the registers it reads and
whether each read carries a set wait bit, the registers it writes, whether what it waits for holds, the page at which a
split that waits for it is parked, the barrier and the phase it waits for, and the records it names. -/
structure Use where
  ok : Bool := true
  reads : List (Reg × Bool) := []
  writes : List Reg := []
  ready : Bool := true
  park : Option W64 := none
  barWait : Option (W64 × BitVec 1) := none
  recs : List (BitVec 10) := []

/-- Whether a register is declared for the launch (04 R42). -/
def State.declared (s : State) : Reg → Bool
  | .v r => r < s.gang.lrec.nv
  | .s _ => true
  | .m r => r < s.gang.lrec.nm

/-- Every register named is declared, and the ranges are well formed. -/
def State.inRange (s : State) (u : Use) : Bool :=
  u.ok && (u.reads.all fun r => s.declared r.1) && u.writes.all fun r => s.declared r

/-- The registers that an instruction waits for, full or not: the guard, reads without a set wait bit, destinations. -/
def State.waitsFor (s : State) (u : Use) : List Reg :=
  .s (modeG s.mode) :: ((u.reads.filter fun r => !r.2).map (·.1) ++ u.writes)

/-- Nothing an instruction waits for is empty. -/
def State.filled (s : State) (u : Use) : Bool := (s.waitsFor u).all fun r => !s.grp.isEmpty r

/-- Whether a register that an instruction reads with a set wait bit is empty, and nothing else it waits for: it is ready then, and
traps (04 R46, R47, 14 R242, log 22). -/
def State.readsEmpty (s : State) (u : Use) : Bool := (u.reads.any fun r => r.2 && s.grp.isEmpty r.1) && s.filled u

/-- The first shared record that an instruction names and the core holds no copy of. -/
def State.uncached (s : State) (u : Use) : Option (BitVec 10) :=
  u.recs.find? fun n => 256 ≤ n.toNat && (s.recCopy n).isNone

/-- Operations that a split stands behind until they are answered (06 R136, 15 R249, R254). -/
def MemOp.answered : MemOp → Bool
  | .recLd | .cbld | .qpush | .pmtGet | .pmtRet => true
  | _ => false

/-- Whether an operation keeps a split that holds lanes of its own from issuing: one that it stands behind until it is answered;
one whose watch action is still to land; a load still under evaluation after 31 further instructions (22 R334). -/
def Group.keepsBack (g : Group) (x : Split) (e : Entry) : Bool :=
  e.mask &&& x.mask != 0 && ((e.op.answered && x.pc == e.pc + 4) ||
    (!g.frame.active && (!e.fired.isEmpty || (!e.watch.isEmpty && !e.op.isEngine && 31 ≤ x.skid e.id))))

/-- Whether the split may issue at all: its gang resident on a core that has not failed, its group in the active set, the split running, and no bound of
18 R289 and 22 R334 reached, and no record load or push of the split outstanding. -/
def State.canIssue (s : State) : Bool :=
  s.gang.present && (s.grp.inActive || s.stepping.isSome) && s.grp.alive && !s.sp.isFree && s.sp.st == .running &&
    (!s.sp.held || s.stepping.isSome) && s.stuck.length < 16 && !s.service.failing.contains (s.gang.die, s.gang.core) &&
    s.grp.flight.all fun e => !s.grp.keepsBack s.sp e

/-- The page on which the producer of an empty register is held. -/
def Group.heldFor (g : Group) (r : Reg) : Option W64 :=
  (g.flight.find? fun e => e.held.isSome && e.writes.contains r).bind (·.held)

/-- A split that cannot issue yet: what it waits for is noted (03 R34), and it is parked where that is held by a replayable
fault (18 R283); a debug step notes that it would wait (22 R343). -/
def State.block (s : State) (u : Use) : State :=
  let empty := (s.waitsFor u).filter s.grp.isEmpty
  let why : Blocked := match empty with
    | r :: _ => .reg r (u.writes.contains r && !u.reads.contains (r, false))
    | [] => match u.barWait with
      | some (a, phase) => .barWait a phase
      | none => .other
  if s.stepping.isSome then { s with stepping := some 1 }
  else match (if u.ready then none else u.park).or (empty.filterMap s.grp.heldFor).head? with
    | some va => s.updSp fun x => { x with st := .parked va false, blk := .no }
    | none => s.updSp fun x => { x with blk := why }

/-- The core fetches a shared record that the instruction at the PC names, before it issues (06 R111): a replayable fault of the
table's page parks the split there, and a cause traps there, as for the fetch of an instruction (18 R282, R283, log 58). A debug step
goes on with its instruction. -/
def State.fillRecord (s : State) (n : BitVec 10) : State :=
  let waits (s : State) (f : Split → Split) : State := if s.stepping.isSome then { s with stepping := some 1 } else s.updSp f
  match s.fetchRecord n with
  | .ok s1 => if s1.stepping.isSome then { s1 with stepping := some 15 } else s1
  | .wait => waits s fun x => { x with blk := .other }
  | .hold va l m s1 => waits (s1.postFault s.k 0 va l m 0 false) fun x => { x with st := .parked va true, blk := .no }
  | .trap c va s1 => s1.trapVa c va

/-- The PC source of the watch, then the instruction: a halt or trap lands before it issues (22 R334). -/
def State.watchThen (s : State) (f : State → State) : State :=
  if s.pcQuiet then f s
  else
    let (s1, fs) := s.watchPc
    match strongest fs with
    | none => f s1
    | some w =>
      let pc := s.sp.pc
      let (s2, recs) := s1.logFirings fs w.act s.k 0 pc
      let s3 := s2.updSp fun x => { x with skipPc := some pc }
      match w.act.toNat with
      | 0 => f s2
      | 1 => s3.takeTrap { s3.dueHere cWATCH_TRAP 3 0 with detail := w.p.setWidth 64, hits := recs }
      | _ => s3.halt w.act s.k w.lane 7 { hit := s2.hitRecord w w.act s.k 0 pc, hits := recs }

/-- A word that kills its group where it would issue: PC predicates log their hits, and take no action (04 R64). -/
def State.killAt (s : State) (cause : BitVec 9) : State :=
  let s := s.traceSync
  let s1 :=
    if s.pcQuiet then s
    else
      let (s1, fs) := s.watchPc
      (s1.logFirings fs 0 s.k 0 s.sp.pc).1
  s1.killGroup cause s.sp.pc

/-- Issue of an instruction (04 R42, R46, R47): a trap that is due comes first; registers that do not exist kill the group;
an empty register read with a set wait bit traps where no other empty register keeps it from being ready; another empty register, or
what it waits for, blocks it; shared records it names are fetched; else it has its effect. -/
def State.issue (s : State) (u : Use) (f : State → State) : State :=
  if !s.canIssue then s
  else if !s.grp.due.isEmpty then s.takeDue
  else
    let s := s.traceSync
    if !s.inRange u then s.killAt cREG_RANGE
    else if s.readsEmpty u then s.watchThen fun s => s.trap cREG_EMPTY
    else if !s.filled u || !u.ready then s.block u
    else match s.uncached u with
      | some n => s.fillRecord n
      | none => s.watchThen f

/-- An instruction stands ready to have its effect: every condition of `issue` met, and no trace or watch work and no fetch of a
record due before it. -/
def State.Ready (s : State) (u : Use) : Prop :=
  s.canIssue = true ∧ s.grp.due = [] ∧ (s.tracing && s.grp.syncDue) = false ∧ s.inRange u = true ∧ s.filled u = true ∧
    u.ready = true ∧ s.pcQuiet = true ∧ s.readsEmpty u = false ∧ s.uncached u = none

/-- The outcome of a meaning that goes on. -/
abbrev Out := Host.Outcome State Fault Refusal

end Sys2Proof.Machine
end

