-- ==== Sys2Proof/Machine/Flags.lean ====
section
/-!
DEFINITION. Sys2Proof/Machine/Flags.lean: what lanes raise and how it is recorded: AEF, the error log and the watch on
exception flags (05 R70, R71, 10 R170, R171, 22 R332).
-/

namespace Sys2Proof.Machine

/-- What one lane of one instruction raises: flags in the layout of AEF (10 R170), and causes logged: bit 0 NAN_PROD,
1 OVERFLOW, 2 DIV_ZERO, 3 CVT_INVALID, 4 NEG_VAR. -/
structure Rep where
  fl : BitVec 6
  lg : BitVec 5
  deriving DecidableEq, Repr, Inhabited

/-- Nothing raised. -/
def Rep.none : Rep := ⟨0, 0⟩
/-- What two steps raise together. -/
def Rep.or (a b : Rep) : Rep := ⟨a.fl ||| b.fl, a.lg ||| b.lg⟩
/-- An invalid operation: IV and NAN_PROD (05 R70). -/
def Rep.invalid : Rep := ⟨0b000001, 0b00001⟩
/-- Division by zero: DZ and DIV_ZERO. -/
def Rep.divZero : Rep := ⟨0b000010, 0b00100⟩
/-- Overflow: OF, NX and OVERFLOW. -/
def Rep.overflow : Rep := ⟨0b010100, 0b00010⟩
/-- Overflow without a log record. -/
def Rep.quietOverflow : Rep := ⟨0b010100, 0⟩
/-- Inexact: NX. -/
def Rep.inexact : Rep := ⟨0b010000, 0⟩
/-- Underflow: UF and NX. -/
def Rep.underflow : Rep := ⟨0b011000, 0⟩
/-- An invalid conversion: IV and CVT_INVALID (05 R94). -/
def Rep.cvtInvalid : Rep := ⟨0b000001, 0b01000⟩
/-- A negative variance: NV, and NEG_VAR logged. -/
def Rep.negVar : Rep := ⟨0b100000, 0b10000⟩

/-- The cause a log bit stands for. -/
def logCause : Nat → BitVec 9
  | 0 => cNAN_PROD
  | 1 => cOVERFLOW
  | 2 => cDIV_ZERO
  | 3 => cCVT_INVALID
  | _ => cNEG_VAR

/-- At most one record per cause, of the lowest lane that raised it (05 R71, 18 R298). -/
def State.logCauses (s : State) (id : Nat) (l : List (Nat × Rep)) (pc : W64) : List Nat → State
  | [] => s
  | c :: t =>
    let s := match l.find? fun x => x.2.lg.getLsbD c with
      | some x => s.logError id (logCause c) x.1 s.k pc
      | none => s
    State.logCauses s id l pc t

/-- What the lanes of the instruction or operation of an issue number raise, recorded in AEF and in the error log. -/
def State.reportAs (s : State) (id : Nat) (l : List (Nat × Rep)) (pc : W64) : State :=
  let fl := l.foldl (fun (f : BitVec 6) x => f ||| x.2.fl) 0
  let s := { s with grp := { s.grp with aef := s.grp.aef ||| fl.setWidth 64 } }
  s.logCauses id l pc [0, 1, 2, 3, 4]

/-- What the lanes of the executing instruction raise. -/
def State.report (s : State) (l : List (Nat × Rep)) (pc : W64) : State := s.reportAs s.grp.nextId l pc

/-- The end of an arithmetic instruction: what its lanes raised recorded, the split advanced, the flags watched
(22 R332, R334). -/
def State.finish (s : State) (l : List (Nat × Rep)) : State :=
  let pc := s.sp.pc
  ((s.report l pc).advance).watch 4 (l.map fun x => (x.1, x.2.fl.setWidth 64)) pc

end Sys2Proof.Machine
end

