-- ==== Sys2Proof/Machine/Float.lean ====
section
/-!
DEFINITION. Sys2Proof/Machine/Float.lean: the floating-point formats, exact values, and rounding once
(05 R70, 10 R163 to R169). A finite value is a sign, a natural number m and an exponent e, standing for m × 2^e.
-/

namespace Sys2Proof.Machine

/-! ## Formats (10 R163, R164) -/

/-- A format: exponent bits, significand bits, bias, the code of its largest finite magnitude, whether it has infinities,
its canonical NaN. -/
structure Fmt where
  eb : Nat
  mb : Nat
  bias : Nat
  maxCode : Nat
  inf : Bool
  nan : Option Nat
  deriving DecidableEq, Repr, Inhabited

def fmtF64 : Fmt := ⟨11, 52, 1023, 0x7FEFFFFFFFFFFFFF, true, some 0x7FF8000000000000⟩
def fmtF32 : Fmt := ⟨8, 23, 127, 0x7F7FFFFF, true, some 0x7FC00000⟩
def fmtF16 : Fmt := ⟨5, 10, 15, 0x7BFF, true, some 0x7E00⟩
def fmtBF16 : Fmt := ⟨8, 7, 127, 0x7F7F, true, some 0x7FC0⟩
def fmtE4M3 : Fmt := ⟨4, 3, 7, 0x7E, false, some 0x7F⟩
def fmtE5M2 : Fmt := ⟨5, 2, 15, 0x7B, true, some 0x7E⟩
def fmtE3M2 : Fmt := ⟨3, 2, 3, 0x1F, false, none⟩
def fmtE2M3 : Fmt := ⟨2, 3, 1, 0x1F, false, none⟩
def fmtE2M1 : Fmt := ⟨2, 1, 1, 0x7, false, none⟩

/-- The format of a float type code. -/
def fmtOf (t : BitVec 5) : Fmt :=
  match t.toNat with
  | 9 => fmtF64 | 10 => fmtF16 | 11 => fmtBF16 | 12 => fmtE4M3 | 13 => fmtE5M2 | 14 => fmtE3M2 | 15 => fmtE2M3
  | 16 => fmtE2M1 | _ => fmtF32

/-- Width of a format. -/
def Fmt.width (f : Fmt) : Nat := 1 + f.eb + f.mb
/-- The code of infinity: just above the largest finite magnitude in the formats that have one. -/
def Fmt.infCode (f : Fmt) : Nat := (2 ^ f.eb - 1) * 2 ^ f.mb
/-- The canonical NaN, zero in the formats without one. -/
def Fmt.nanCode (f : Fmt) : Nat := f.nan.getD 0
/-- A magnitude code with its sign. -/
def Fmt.sign (f : Fmt) (neg : Bool) (code : Nat) : Nat := if neg then 2 ^ (f.eb + f.mb) + code else code

/-! ## Exact values -/

/-- A value: not a number, an infinity, or (−1)^neg × m × 2^e. -/
inductive FV where
  | nan
  | inf (neg : Bool)
  | fin (neg : Bool) (m : Nat) (e : Int)
  deriving DecidableEq, Repr, Inhabited

/-- The value of bits of a format (10 R163, R164). -/
def Fmt.value (f : Fmt) (x : Nat) : FV :=
  let code := x % 2 ^ (f.eb + f.mb)
  let neg := x / 2 ^ (f.eb + f.mb) % 2 == 1
  let e := code / 2 ^ f.mb
  let m := code % 2 ^ f.mb
  if f.maxCode < code then (if f.inf && code == f.infCode then .inf neg else .nan)
  else if e = 0 then .fin neg m (1 - (f.bias : Int) - f.mb)
  else .fin neg (2 ^ f.mb + m) ((e : Int) - f.bias - f.mb)

/-- Whether bits are subnormal. -/
def Fmt.subnormal (f : Fmt) (x : Nat) : Bool :=
  let code := x % 2 ^ (f.eb + f.mb)
  code != 0 && code < 2 ^ f.mb

/-- A value read on the vector path: subnormals flushed under FTZ (05 R70). -/
def Fmt.read (f : Fmt) (ftz : Bool) (x : Nat) : FV :=
  if ftz && f.subnormal x then .fin (x / 2 ^ (f.eb + f.mb) % 2 == 1) 0 0 else f.value x

/-- x × 2^k for an exponent of either sign, downwards. -/
def shiftNat (x : Nat) (k : Int) : Nat := if 0 ≤ k then x * 2 ^ k.toNat else x / 2 ^ (-k).toNat

/-! ## Rounding (10 R168) -/

/-- A rounded magnitude: its code, as if the exponent had no upper bound; whether inexact; whether tiny. -/
structure Rounded where
  code : Nat
  inexact : Bool
  tiny : Bool
  deriving DecidableEq, Repr

/-- Whether a magnitude rounds up: mode, sign, odd, remainder against half the quantum, and whether more lies below. -/
def roundsUp (rm : BitVec 2) (neg odd : Bool) (rem2 quantum : Nat) (sticky : Bool) : Bool :=
  match rm.toNat with
  | 0 => quantum < rem2 || (rem2 == quantum && (sticky || odd))
  | 1 => false
  | 2 => !neg && (0 < rem2 || sticky)
  | _ => neg && (0 < rem2 || sticky)

/-- m × 2^e, plus something below 2^e where sticky, rounded to a multiple of 2^q: the multiple, whether inexact. -/
def roundAt (rm : BitVec 2) (neg : Bool) (m : Nat) (e q : Int) (sticky : Bool) : Nat × Bool :=
  if q ≤ e then (m * 2 ^ (e - q).toNat, sticky)
  else
    let d := (q - e).toNat
    let up := roundsUp rm neg (m / 2 ^ d % 2 == 1) (2 * (m % 2 ^ d)) (2 ^ d) sticky
    (m / 2 ^ d + (if up then 1 else 0), m % 2 ^ d != 0 || sticky)

/-- A positive magnitude rounded to a format. Where sticky, m has more bits than the format keeps. -/
def Fmt.round (f : Fmt) (rm : BitVec 2) (neg : Bool) (m : Nat) (e : Int) (sticky : Bool) : Rounded :=
  let top : Int := (m.log2 : Int) + e
  let emin : Int := 1 - (f.bias : Int)
  let q := max (top - f.mb) (emin - f.mb)
  let (n, ix) := roundAt rm neg m e q sticky
  let (nu, _) := roundAt rm neg m e (top - f.mb) sticky
  let tiny := top < emin && !(top = emin - 1 && nu = 2 ^ (f.mb + 1))
  -- the code of n × 2^q: exponent field and fraction, a carry moving into the exponent
  let code := if n < 2 ^ f.mb then n else ((q + f.mb + f.bias - 1).toNat) * 2 ^ f.mb + n
  { code, inexact := ix, tiny }

/-- A result and what it raised. -/
structure Res where
  val : Nat
  rep : Rep
  deriving DecidableEq, Repr, Inhabited

/-- A result that raises nothing. -/
def Res.quiet (v : Nat) : Res := ⟨v, Rep.none⟩

/-- The canonical NaN, made from no NaN (05 R70). -/
def Fmt.invalid (f : Fmt) : Res := ⟨f.nanCode, Rep.invalid⟩
/-- An infinity, exactly. -/
def Fmt.infinity (f : Fmt) (neg : Bool) : Res := .quiet (f.sign neg f.infCode)

/-- The result of an overflow under a rounding mode (05 R70). -/
def Fmt.overflowCode (f : Fmt) (rm : BitVec 2) (neg : Bool) : Nat :=
  let toInf := match rm.toNat with | 0 => true | 1 => false | 2 => !neg | _ => neg
  if toInf then f.infCode else f.maxCode

/-- ROUNDT: a magnitude rounded once, with the device rules (05 R70). -/
def Fmt.result (f : Fmt) (rm : BitVec 2) (ftz neg : Bool) (m : Nat) (e : Int) (sticky : Bool) : Res :=
  if m = 0 then .quiet (f.sign neg 0)
  else
    let r := f.round rm neg m e sticky
    if f.maxCode < r.code then ⟨f.sign neg (f.overflowCode rm neg), Rep.overflow⟩
    else if ftz && r.code < 2 ^ f.mb then ⟨f.sign neg 0, Rep.underflow⟩
    else ⟨f.sign neg r.code, if r.inexact then (if r.tiny then Rep.underflow else Rep.inexact) else Rep.none⟩

/-- A value rounded. -/
def Fmt.ofFV (f : Fmt) (rm : BitVec 2) (ftz : Bool) : FV → Res
  | .nan => .quiet f.nanCode
  | .inf neg => f.infinity neg
  | .fin neg m e => f.result rm ftz neg m e false

/-! ## Exact arithmetic -/

/-- The signed numerator of a finite value at an exponent no greater than its own. -/
def scaled (neg : Bool) (m : Nat) (e at_ : Int) : Int :=
  let n : Int := ((m * 2 ^ (e - at_).toNat : Nat) : Int)
  if neg then -n else n

/-- The exact sum of two values, with the zero-sum rule (05 R70); none where it is invalid. -/
def FV.add (rm : BitVec 2) (a b : FV) : Option FV :=
  match a, b with
  | .nan, _ | _, .nan => some .nan
  | .inf p, .inf q => if p == q then some (.inf p) else none
  | .inf p, .fin _ _ _ => some (.inf p)
  | .fin _ _ _, .inf q => some (.inf q)
  | .fin p m e, .fin q n g =>
    let x := min e g
    let t := scaled p m e x + scaled q n g x
    if t = 0 then some (.fin (if p == q then p else rm == 3) 0 0)
    else some (.fin (t < 0) t.natAbs x)

/-- The exact product of two values; none where it is invalid. -/
def FV.mul (a b : FV) : Option FV :=
  match a, b with
  | .nan, _ | _, .nan => some .nan
  | .inf p, .inf q => some (.inf (p != q))
  | .inf p, .fin q n _ => if n = 0 then none else some (.inf (p != q))
  | .fin p m _, .inf q => if m = 0 then none else some (.inf (p != q))
  | .fin p m e, .fin q n g => some (.fin (p != q) (m * n) (e + g))

/-- The negative of a value. -/
def FV.neg : FV → FV
  | .nan => .nan
  | .inf p => .inf (!p)
  | .fin p m e => .fin (!p) m e

/-- A possibly invalid value rounded. -/
def Fmt.ofOpt (f : Fmt) (rm : BitVec 2) (ftz : Bool) : Option FV → Res
  | none => f.invalid
  | some v => f.ofFV rm ftz v

/-- ROUNDT(a + b). -/
def Fmt.add (f : Fmt) (rm : BitVec 2) (ftz : Bool) (a b : Nat) : Res :=
  f.ofOpt rm ftz (FV.add rm (f.read ftz a) (f.read ftz b))
/-- ROUNDT(a − b). -/
def Fmt.sub (f : Fmt) (rm : BitVec 2) (ftz : Bool) (a b : Nat) : Res :=
  f.ofOpt rm ftz (FV.add rm (f.read ftz a) (f.read ftz b).neg)
/-- ROUNDT(a × b). -/
def Fmt.mul (f : Fmt) (rm : BitVec 2) (ftz : Bool) (a b : Nat) : Res :=
  f.ofOpt rm ftz (FV.mul (f.read ftz a) (f.read ftz b))

/-- ROUNDT(±a × b ± d), rounded once: a product 0 × ∞ is invalid even when d is NaN (05 R86). -/
def Fmt.fma (f : Fmt) (rm : BitVec 2) (ftz negProd negAdd : Bool) (a b d : Nat) : Res :=
  match FV.mul (f.read ftz a) (f.read ftz b) with
  | none => f.invalid
  | some p =>
    f.ofOpt rm ftz (FV.add rm (if negProd then p.neg else p) (if negAdd then (f.read ftz d).neg else f.read ftz d))

/-- The quotient of magnitudes with at least 70 bits, its exponent, and whether more lies below. -/
def divMag (m : Nat) (e : Int) (n : Nat) (g : Int) : Nat × Int × Bool :=
  let k := n.log2 + 72
  let x := m * 2 ^ k
  (x / n, e - g - k, x % n != 0)

/-- ROUNDT(a / b) (05 R87, R70). -/
def Fmt.divide (f : Fmt) (rm : BitVec 2) (ftz : Bool) (a b : FV) : Res :=
  match a, b with
  | .nan, _ | _, .nan => .quiet f.nanCode
  | .inf _, .inf _ => f.invalid
  | .inf p, .fin q _ _ => f.infinity (p != q)
  | .fin p _ _, .inf q => .quiet (f.sign (p != q) 0)
  | .fin p m e, .fin q n g =>
    if n = 0 then (if m = 0 then f.invalid else ⟨f.sign (p != q) f.infCode, Rep.divZero⟩)
    else
      let (x, y, st) := divMag m e n g
      f.result rm ftz (p != q) x y st

/-- Division of bits. -/
def Fmt.div (f : Fmt) (rm : BitVec 2) (ftz : Bool) (a b : Nat) : Res := f.divide rm ftz (f.read ftz a) (f.read ftz b)

/-- The bits of an integer square root, from the highest down. -/
def isqrtLoop (x : Nat) : Nat → Nat → Nat
  | 0, r => r
  | i + 1, r => isqrtLoop x i (if (r + 2 ^ i) * (r + 2 ^ i) ≤ x then r + 2 ^ i else r)

/-- The integer square root. -/
def isqrt (x : Nat) : Nat := isqrtLoop x (x.log2 / 2 + 1) 0

/-- ROUNDT(√x) (05 R96, R97). -/
def Fmt.sqrtV (f : Fmt) (rm : BitVec 2) (ftz : Bool) : FV → Res
  | .nan => .quiet f.nanCode
  | .inf neg => if neg then f.invalid else f.infinity false
  | .fin neg m e =>
    if m = 0 then .quiet (f.sign neg 0)
    else if neg then f.invalid
    else
      let k : Int := 160 + (if (e % 2 : Int) = 0 then 0 else 1)
      let x := m * 2 ^ k.toNat
      let r := isqrt x
      f.result rm ftz false r ((e - k) / 2) (r * r != x)

/-- ROUNDT(1 / √x) (05 R96, R97). -/
def Fmt.rsqV (f : Fmt) (rm : BitVec 2) (ftz : Bool) : FV → Res
  | .nan => .quiet f.nanCode
  | .inf neg => if neg then f.invalid else .quiet 0
  | .fin neg m e =>
    if m = 0 then ⟨f.sign neg f.infCode, Rep.divZero⟩
    else if neg then f.invalid
    else
      -- x = m' × 2^(2h); 2^k / √m' with 2^(2k) / m' exact to the root
      let odd := (e % 2 : Int) ≠ 0
      let m' := if odd then 2 * m else m
      let h : Int := (if odd then e - 1 else e) / 2
      let k := 80 + m'.log2
      let r := isqrt (2 ^ (2 * k) / m')
      f.result rm ftz false r (-(k : Int) - h) (r * r * m' != 2 ^ (2 * k))

/-! ## Comparison, min and max (05 R83, R86) -/

/-- The order of two numbers: less, equal, greater; none where unordered. −0 equals +0. -/
def FV.cmp (a b : FV) : Option Ordering :=
  match a, b with
  | .nan, _ | _, .nan => none
  | .inf p, .inf q => if p == q then some .eq else some (if p then .lt else .gt)
  | .inf p, .fin _ _ _ => some (if p then .lt else .gt)
  | .fin _ _ _, .inf q => some (if q then .gt else .lt)
  | .fin p m e, .fin q n g =>
    let x := min e g
    some (compare (scaled p m e x) (scaled q n g x))

/-- The sign of a value. -/
def FV.isNeg : FV → Bool
  | .nan => false
  | .inf p => p
  | .fin p _ _ => p

/-- Float min or max of bits: −0 below +0, a number before a NaN, no flag (05 R86). Flushed inputs give zeros. -/
def Fmt.minmax (f : Fmt) (ftz wantMax : Bool) (a b : Nat) : Nat :=
  let x := f.read ftz a
  let y := f.read ftz b
  let a' := if ftz && f.subnormal a then f.sign x.isNeg 0 else a
  let b' := if ftz && f.subnormal b then f.sign y.isNeg 0 else b
  match x.cmp y with
  | none => if x == .nan then (if y == .nan then f.nanCode else b') else a'
  | some .lt => if wantMax then b' else a'
  | some .gt => if wantMax then a' else b'
  | some .eq => if wantMax then (if x.isNeg then b' else a') else (if x.isNeg then a' else b')

/-! ## Integral rounding (05 R88, R94) -/

/-- A magnitude rounded to an integer, and whether inexact. -/
def roundInt (rm : BitVec 2) (neg : Bool) (m : Nat) (e : Int) : Nat × Bool := roundAt rm neg m e 0 false

/-- rnd: an integral value in the same type, no inexact flag (05 R88). -/
def Fmt.rnd (f : Fmt) (rm : BitVec 2) (ftz : Bool) (x : Nat) : Res :=
  match f.read ftz x with
  | .nan => .quiet f.nanCode
  | .inf p => f.infinity p
  | .fin p m e =>
    if m = 0 then .quiet (f.sign p 0)
    else if 0 ≤ e then .quiet (f.sign p (f.round 0 p m e false).code)
    else
      let n := (roundInt rm p m e).1
      if n = 0 then .quiet (f.sign p 0) else .quiet (f.sign p (f.round 0 p n 0 false).code)

end Sys2Proof.Machine
end

