-- ==== Sys2Proof/Machine/Special.lean ====
section
/-!
DEFINITION. Sys2Proof/Machine/Special.lean: the special functions, correctly rounded (05 R96 to R98).
A transcendental value is enclosed between two fixed-point numbers of p fraction bits, and p doubles until both ends round
alike; what rounds alike at both ends is the rounding of the value (log 10).
-/

namespace Sys2Proof.Machine

/-! ## Enclosures of non-negative numbers: lo / 2^p ≤ x ≤ hi / 2^p -/

/-- An enclosure. -/
structure Iv where
  lo : Nat
  hi : Nat
  deriving DecidableEq, Repr

/-- A whole number. -/
def Iv.nat (p n : Nat) : Iv := ⟨n * 2 ^ p, n * 2 ^ p⟩
/-- A quotient of whole numbers. -/
def Iv.ratio (p a b : Nat) : Iv := ⟨a * 2 ^ p / b, a * 2 ^ p / b + 1⟩
def Iv.add (a b : Iv) : Iv := ⟨a.lo + b.lo, a.hi + b.hi⟩
/-- The difference of numbers whose difference is not negative. -/
def Iv.sub (a b : Iv) : Iv := ⟨a.lo - b.hi, a.hi - b.lo⟩
def Iv.mul (p : Nat) (a b : Iv) : Iv := ⟨a.lo * b.lo / 2 ^ p, a.hi * b.hi / 2 ^ p + 1⟩
def Iv.div (p : Nat) (a b : Iv) : Iv := ⟨a.lo * 2 ^ p / b.hi, a.hi * 2 ^ p / b.lo + 1⟩
def Iv.divNat (a : Iv) (n : Nat) : Iv := ⟨a.lo / n, a.hi / n + 1⟩
def Iv.mulNat (a : Iv) (n : Nat) : Iv := ⟨a.lo * n, a.hi * n⟩

/-- e^r for 0 ≤ r ≤ 1 by Horner's rule over n terms; the tail lies between 1 and 3. -/
def expLoop (p : Nat) (r : Iv) : Nat → Iv → Iv
  | 0, acc => acc
  | n + 1, acc => expLoop p r n ((Iv.nat p 1).add ((r.mul p acc).divNat (n + 1)))

def ivExp (p : Nat) (r : Iv) : Iv := expLoop p r p ⟨2 ^ p, 3 * 2 ^ p⟩

/-- Σ z^(2k) / (2k + 1) from z², z² ≤ 1/2; the tail lies between 0 and 2. -/
def atanhLoop (p : Nat) (z2 : Iv) : Nat → Iv → Iv
  | 0, acc => acc
  | n + 1, acc => atanhLoop p z2 n ((Iv.ratio p 1 (2 * n + 1)).add (z2.mul p acc))

/-- ln y = 2 artanh((y − 1) / (y + 1)) for 1 ≤ y ≤ 2. -/
def ivLn (p : Nat) (y : Iv) : Iv :=
  let one := Iv.nat p 1
  let z := (y.sub one).div p (y.add one)
  (z.mul p (atanhLoop p (z.mul p z) p ⟨0, 2 * 2 ^ p⟩)).mulNat 2

/-- ln 2. -/
def ivLn2 (p : Nat) : Iv := ivLn p (Iv.nat p 2)

/-- Σ (−1)^k q^(−2k) / (2k + 1). -/
def atanLoop (p q : Nat) : Nat → Iv → Iv
  | 0, acc => acc
  | n + 1, acc => atanLoop p q n ((Iv.ratio p 1 (2 * n + 1)).sub (acc.divNat (q * q)))

/-- arctan(1/q). -/
def ivAtan (p q : Nat) : Iv := (atanLoop p q p ⟨0, 2 ^ p⟩).divNat q

/-- π = 16 arctan(1/5) − 4 arctan(1/239). -/
def ivPi (p : Nat) : Iv := ((ivAtan p 5).mulNat 16).sub ((ivAtan p 239).mulNat 4)

/-- 1 − t/((2n)(2n ± 1)) × …, the series of the sine (odd true) or cosine in t = θ². -/
def trigLoop (p : Nat) (odd : Bool) (t : Iv) : Nat → Iv → Iv
  | 0, acc => acc
  | n + 1, acc =>
    let d := if odd then (2 * n + 2) * (2 * n + 3) else (2 * n + 1) * (2 * n + 2)
    trigLoop p odd t n ((Iv.nat p 1).sub ((t.mul p acc).divNat d))

/-- sin θ for 0 ≤ θ ≤ π/2. -/
def ivSin (p : Nat) (th : Iv) : Iv := th.mul p (trigLoop p true (th.mul p th) p ⟨0, 2 ^ p⟩)
/-- cos θ for 0 ≤ θ ≤ π/2. -/
def ivCos (p : Nat) (th : Iv) : Iv := trigLoop p false (th.mul p th) p ⟨0, 2 ^ p⟩

/-- Σ (2x²)^k / (3 × 5 × … (2k + 1)) for x² < 64: the tail after many terms lies between 1 and 2. -/
def erfLoop (p : Nat) (t : Iv) : Nat → Iv → Iv
  | 0, acc => acc
  | n + 1, acc => erfLoop p t n ((Iv.nat p 1).add ((t.mul p acc).divNat (2 * n + 3)))

/-! ## Magnitudes -/

/-- A positive value between two ends, each times 2^e, and its sign; or known to lie just above one end. -/
structure Encl where
  neg : Bool
  lo : Nat
  hi : Nat
  e : Int
  deriving DecidableEq, Repr

/-- m × 2^e with p fraction bits, exact where no bit falls below. -/
def fixed (p m : Nat) (e : Int) : Iv :=
  let x := shiftNat m (e + p)
  if -(p : Int) ≤ e then ⟨x, x⟩ else ⟨x, x + 1⟩

/-- e^x of x = n ln 2 + r, from the fixed-point x ≥ 0, and of −x from the same: 2^n times an enclosure in [1, 2]. -/
def enclExp (p : Nat) (neg : Bool) (x : Iv) : Iv × Int :=
  let l := ivLn2 p
  let n := x.lo / l.hi
  let r := x.sub (l.mulNat n)
  let y := ivExp p r
  if neg then ((Iv.nat p 1).div p y, -(n : Int)) else (y, n)

/-- 2^x for x = ±m × 2^e. -/
def encl2 (p : Nat) (neg : Bool) (m : Nat) (e : Int) : Encl :=
  let x := fixed p m e
  let n := x.lo / 2 ^ p
  let f := x.sub (Iv.nat p n)
  let y := ivExp p (f.mul p (ivLn2 p))
  if neg then
    let z := (Iv.nat p 1).div p y
    ⟨false, z.lo, z.hi, -(p : Int) - n⟩
  else ⟨false, y.lo, y.hi, n - (p : Int)⟩

/-- e^x. -/
def enclE (p : Nat) (neg : Bool) (m : Nat) (e : Int) : Encl :=
  let (y, n) := enclExp p neg (fixed p m e)
  ⟨false, y.lo, y.hi, n - (p : Int)⟩

/-- ln x for x = m × 2^e > 0, x ≠ 1: sign and magnitude. -/
def enclLn (p : Nat) (m : Nat) (e : Int) : Bool × Iv :=
  let k := m.log2
  let n : Int := e + k
  let ly := ivLn p ⟨m * 2 ^ p / 2 ^ k, m * 2 ^ p / 2 ^ k + (if m % 2 ^ k = 0 then 0 else 1)⟩
  let l := ivLn2 p
  if 0 ≤ n then (false, (l.mulNat n.toNat).add ly) else (true, (l.mulNat (-n).toNat).sub ly)

/-- The natural logarithm, and the logarithm to base 2. -/
def enclLog (base2 : Bool) (p : Nat) (m : Nat) (e : Int) : Encl :=
  let (neg, y) := enclLn p m e
  let z := if base2 then y.div p (ivLn2 p) else y
  ⟨neg, z.lo, z.hi, -(p : Int)⟩

/-- Twice the fraction of a turn: quarter turns from 0 to 3, and the rest of a turn below 1/4. -/
def quarter (p : Nat) (neg : Bool) (m : Nat) (e : Int) : Nat × Nat :=
  let x := shiftNat m (e + p) % 2 ^ p
  let f := if neg && x != 0 then 2 ^ p - x else x
  (4 * f / 2 ^ p, f - 4 * f / 2 ^ p * 2 ^ p / 4)

/-- sin 2πx or cos 2πx away from multiples of a quarter turn. -/
def enclTurn (cosine : Bool) (p : Nat) (neg : Bool) (m : Nat) (e : Int) : Encl :=
  let (q0, g) := quarter p neg m e
  let th := ((ivPi p).mulNat 2).mul p ⟨g, g⟩
  let q := (if cosine then q0 + 1 else q0) % 4
  let y := if q % 2 = 0 then ivSin p th else ivCos p th
  ⟨2 ≤ q, y.lo, y.hi, -(p : Int)⟩

/-- A magnitude just below 1. -/
def belowOne (neg : Bool) : Encl := ⟨neg, 2 ^ 120 - 1, 2 ^ 120, -120⟩

/-- tanh x = (e^2x − 1) / (e^2x + 1). -/
def enclTanh (p : Nat) (neg : Bool) (m : Nat) (e : Int) : Encl :=
  let x := fixed p m e
  if 64 * 2 ^ p ≤ x.lo then belowOne neg
  else
    let (y, n) := enclExp p false (x.mulNat 2)
    let w := y.mulNat (2 ^ n.toNat)
    let one := Iv.nat p 1
    let lo := (w.lo - 2 ^ p) * 2 ^ p / (w.lo + 2 ^ p)
    let hi := (w.hi - 2 ^ p) * 2 ^ p / (w.hi + 2 ^ p) + 1
    ⟨neg, lo, min hi one.hi, -(p : Int)⟩

/-- erf x = 2 / √π × e^−x² × x × Σ (2x²)^k / (3 × 5 × … (2k + 1)). -/
def enclErf (p : Nat) (neg : Bool) (m : Nat) (e : Int) : Encl :=
  let x := fixed p m e
  if 8 * 2 ^ p ≤ x.lo then belowOne neg
  else
    let x2 := x.mul p x
    let s := x.mul p (erfLoop p (x2.mulNat 2) (p + 256) ⟨2 ^ p, 2 * 2 ^ p⟩)
    let (y, n) := enclExp p false x2
    let w := y.mulNat (2 ^ n.toNat)
    let pi := ivPi p
    let root : Iv := ⟨isqrt (pi.lo * 2 ^ p), isqrt (pi.hi * 2 ^ p) + 1⟩
    let r := ((s.mulNat 2).div p w).div p root
    ⟨neg, r.lo, min r.hi (2 ^ p), -(p : Int)⟩

/-! ## Rounding an enclosed value -/

/-- The rounding of an enclosed value where both ends round alike. -/
def Fmt.settled (f : Fmt) (rm : BitVec 2) (c : Encl) : Bool :=
  2 ^ 60 ≤ c.lo && f.round rm c.neg c.lo c.e true == f.round rm c.neg (c.hi - 1) c.e true

/-- The value rounded at the first precision that settles it: p, 2p, 4p, …. -/
def Fmt.settle (f : Fmt) (rm : BitVec 2) (ftz : Bool) (encl : Nat → Encl) : Nat → Nat → Res
  | 0, p => let c := encl p; f.result rm ftz c.neg c.lo c.e true
  | n + 1, p =>
    let c := encl p
    if f.settled rm c then f.result rm ftz c.neg c.lo c.e true else Fmt.settle f rm ftz encl n (2 * p)

/-- The first precision, and how often it may double. -/
def Fmt.enclosed (f : Fmt) (rm : BitVec 2) (ftz : Bool) (encl : Nat → Encl) : Res := f.settle rm ftz encl 6 384

/-! ## The functions on f32 (05 R96, R97) -/

/-- 2^x or e^x: exact at 0, and at integers for 2^x; beyond ±256 far outside the range. -/
def expV (base2 : Bool) (f : Fmt) (rm : BitVec 2) (ftz : Bool) : FV → Res
  | .nan => .quiet f.nanCode
  | .inf neg => if neg then .quiet 0 else f.infinity false
  | .fin neg m e =>
    if m = 0 then f.result rm ftz false 1 0 false
    else if 256 ≤ shiftNat m e then
      if neg then f.result rm ftz false (2 ^ 80) (-1000) true else f.result rm ftz false (2 ^ 80) 1000 true
    else if base2 && m * 2 ^ (e + 200).toNat % 2 ^ 200 = 0 then
      let n := shiftNat m e
      f.result rm ftz false 1 (if neg then -(n : Int) else n) false
    else f.enclosed rm ftz fun p => if base2 then encl2 p neg m e else enclE p neg m e

/-- log2 x or ln x: exact at 1, and at powers of two for log2. -/
def logV (base2 : Bool) (f : Fmt) (rm : BitVec 2) (ftz : Bool) : FV → Res
  | .nan => .quiet f.nanCode
  | .inf neg => if neg then f.invalid else f.infinity false
  | .fin neg m e =>
    if m = 0 then ⟨f.sign true f.infCode, Rep.divZero⟩
    else if neg then f.invalid
    else
      let n : Int := e + m.log2
      if m = 2 ^ m.log2 && (base2 || n = 0) then
        if n = 0 then .quiet 0 else f.result rm ftz (n < 0) n.natAbs 0 false
      else f.enclosed rm ftz fun p => enclLog base2 p m e

/-- sin 2πx or cos 2πx: exact at multiples of a quarter turn. -/
def turnV (cosine : Bool) (f : Fmt) (rm : BitVec 2) (ftz : Bool) : FV → Res
  | .nan => .quiet f.nanCode
  | .inf _ => f.invalid
  | .fin neg m e =>
    let (q0, g) := quarter 200 neg m e
    if g = 0 then
      if cosine then
        if q0 % 2 = 1 then .quiet 0 else f.result rm ftz (q0 = 2) 1 0 false
      else if q0 % 2 = 0 then .quiet (f.sign neg 0) else f.result rm ftz (q0 = 3) 1 0 false
    else f.enclosed rm ftz fun p => enclTurn cosine p neg m e

/-- tanh x or erf x. -/
def sigmoidV (erf : Bool) (f : Fmt) (rm : BitVec 2) (ftz : Bool) : FV → Res
  | .nan => .quiet f.nanCode
  | .inf neg => f.result rm ftz neg 1 0 false
  | .fin neg m e =>
    if m = 0 then .quiet (f.sign neg 0)
    else f.enclosed rm ftz fun p => if erf then enclErf p neg m e else enclTanh p neg m e

/-- 1/x (05 R97): a zero gives an infinity of its sign. -/
def rcpV (f : Fmt) (rm : BitVec 2) (ftz : Bool) (x : FV) : Res := f.divide rm ftz (.fin false 1 0) x

end Sys2Proof.Machine
end

