-- ==== Sys2Proof/Machine/Operands.lean ====
section
/-!
DEFINITION. Sys2Proof/Machine/Operands.lean: the operand forms of typed vector instructions: registers and pairs, elements
within a register, integer ranges, immediates (04 R40, R58, 05 R66 to R69, R91).
-/

namespace Sys2Proof.Machine

/-! ## Modes of the executing split -/

/-- MODE.T. -/
def State.ty (s : State) : BitVec 5 := modeT s.mode
/-- MODE.RM. -/
def State.rm (s : State) : BitVec 2 := modeRM s.mode
/-- MODE.FTZ. -/
def State.ftz (s : State) : Bool := modeFTZ s.mode
/-- MODE.SAT. -/
def State.sat (s : State) : Bool := modeSAT s.mode

/-! ## Registers of an operand (04 R42, 05 R67) -/

/-- The registers of a typed vector operand: a pair under the 64-bit types. -/
def vregs (t : BitVec 5) (r : BitVec 7) : List Reg := if is64 t then [.v r.toNat, .v (r.toNat + 1)] else [.v r.toNat]

/-- A pair has an even base. -/
def pairOk (t : BitVec 5) (r : BitVec 7) : Bool := !is64 t || r.toNat % 2 == 0

/-- What a typed vector instruction needs: sources with their wait bits, the destination, read as well where rd. -/
def vuse (t : BitVec 5) (d : BitVec 7) (src : List (BitVec 7 × BitVec 1)) (rd : Bool) : Use :=
  { ok := (d :: src.map (·.1)).all (pairOk t)
    reads := (src.flatMap fun p => (vregs t p.1).map fun r => (r, p.2 == 1)) ++
      (if rd then (vregs t d).map fun r => (r, false) else [])
    writes := vregs t d }

/-- What a scalar instruction needs. -/
def suse (d : BitVec 6) (src : List (BitVec 6 × BitVec 1)) : Use :=
  { reads := src.map fun p => (.s p.1, p.2 == 1), writes := [.s d] }

/-- One lane of a typed operand, as a number. -/
def State.lane (s : State) (t : BitVec 5) (r : BitVec 7) (l : Nat) : Nat :=
  if is64 t then (s.grp.vpair r.toNat l).toNat else (s.grp.vreg r.toNat l).toNat

/-- A typed destination written in the active lanes. -/
def State.writeLanes (s : State) (t : BitVec 5) (r : BitVec 7) (out : List (Nat × Nat)) : State :=
  if is64 t then { s with grp := s.grp.putPair r.toNat (out.map fun x => (x.1, BitVec.ofNat 64 x.2)) }
  else { s with grp := s.grp.putV r.toNat (out.map fun x => (x.1, BitVec.ofNat 32 x.2)) }

/-! ## Elements (05 R68) -/

/-- How many elements of w bits an operand holds. -/
def perReg (w : Nat) : Nat := if 32 ≤ w then 1 else 32 / w

/-- Element j of w bits. -/
def elem (w x j : Nat) : Nat := x / 2 ^ (w * j) % 2 ^ w

/-- Elements of w bits put together, the first lowest. -/
def joinElems (w : Nat) : List Nat → Nat
  | [] => 0
  | x :: t => x % 2 ^ w + 2 ^ w * joinElems w t

/-- An operation applied element by element to the operands of one lane. -/
def laneOp (w : Nat) (f : List Nat → Res) (args : List Nat) : Res :=
  let rs := (List.range (perReg w)).map fun j => f (args.map fun x => elem w x j)
  ⟨joinElems w (rs.map (·.val)), rs.foldl (fun r x => r.or x.rep) Rep.none⟩

/-- A typed vector operation: its results written in the active lanes, and what they raised reported. Every source is read
before any write. -/
def State.vecOp (s : State) (t : BitVec 5) (d : BitVec 7) (srcs : List (BitVec 7)) (f : List Nat → Res) : State :=
  let out := s.lanes.map fun l => (l, laneOp (typeBits t) f (srcs.map fun r => s.lane t r l))
  (s.writeLanes t d (out.map fun x => (x.1, x.2.val))).finish (out.map fun x => (x.1, x.2.rep))

/-- An instruction that takes its element type from MODE.T: unsupported codes trap before any effect (05 R67). -/
def State.typed (s : State) (accept : BitVec 5 → Bool) (u : Use) (f : State → State) : State :=
  s.issue u fun s => if accept s.ty then f s else s.trap cTYPE_UNSUPPORTED

/-! ## Accepted types (05 R85) -/

/-- Integers and the vector floats. -/
def accAll (t : BitVec 5) : Bool := t.toNat ≤ 11
/-- Integers. -/
def accInt (t : BitVec 5) : Bool := t.toNat ≤ 7
/-- 32-bit and 64-bit integers. -/
def accWideInt (t : BitVec 5) : Bool := t.toNat ≤ 3
/-- 32-bit and 64-bit integers and floats. -/
def accWide (t : BitVec 5) : Bool := t.toNat ≤ 3 || t == 8 || t == 9

/-! ## Integers (05 R69) -/

/-- The integer of an element: signed for i types. -/
def intVal (t : BitVec 5) (x : Nat) : Int :=
  let w := typeBits t
  if isInt t && 2 ^ (w - 1) ≤ x then (x : Int) - ((2 ^ w : Nat) : Int) else x

/-- The least and greatest values of a type. -/
def intMin (t : BitVec 5) : Int := if isInt t then -((2 ^ (typeBits t - 1) : Nat) : Int) else 0
def intMax (t : BitVec 5) : Int := if isInt t then ((2 ^ (typeBits t - 1) : Nat) : Int) - 1 else ((2 ^ typeBits t : Nat) : Int) - 1

/-- An exact integer modulo 2^w. -/
def wrapInt (w : Nat) (z : Int) : Nat := (z % ((2 ^ w : Nat) : Int)).toNat

/-- An exact integer as an element: clamped under SAT, else wrapped (05 R69). -/
def intRes (sat : Bool) (t : BitVec 5) (z : Int) : Nat :=
  wrapInt (typeBits t) (if sat then max (intMin t) (min (intMax t) z) else z)

/-- A signed immediate as an element (05 R91). -/
def immElem (t : BitVec 5) (i : BitVec 10) : Nat := wrapInt (typeBits t) i.toInt

/-- The number a signed immediate adds or multiplies by: the element, and on an n type a negative immediate stays
negative, so that `add vD, vA, #-1` under SAT clamps at 0 (05 R91; log 19). DEDUCED. -/
def immVal (t : BitVec 5) (i : BitVec 10) : Int :=
  if !isInt t && decide (i.toInt < 0) then (immElem t i : Int) - ((2 ^ typeBits t : Nat) : Int)
  else intVal t (immElem t i)

end Sys2Proof.Machine
end

