-- ==== Sys2Proof/Machine/Perform.lean ====
section
/-!
DEFINITION. Sys2Proof/Machine/Perform.lean: performing the lanes of loads, stores, atomics and bank operations of the group in
focus, in the order its program order and the store queue allow
(06 R114 to R118, R121, R132 to R135, 08 R142 to R144, R160, 16 R263, 18 R283).
-/

namespace Sys2Proof.Machine

/-! ## Operations in flight -/

/-- The operation of an issue number in flight. -/
def Group.entry (g : Group) (id : Nat) : Option Entry := g.flight.find? fun e => e.id == id

/-- An operation in flight replaced by its later self. -/
def State.updEntry (s : State) (e : Entry) : State :=
  { s with grp := { s.grp with flight := s.grp.flight.map fun x => if x.id = e.id then e else x } }

/-- An operation no longer in flight. -/
def State.dropEntry (s : State) (id : Nat) : State :=
  ({ s with grp := { s.grp with flight := s.grp.flight.filter fun x => x.id != id } }).afterEntry

/-- An operation that carries a cause: it stays in flight, its trap due at the next boundary (18 R288). A remote load that a capture
finds with its target down goes to the replay queue with the cause (19 R303 step 3). One of a killed group is discarded with what
the kill discards (04 R62). -/
def State.failEntry (s : State) (e : Entry) : State :=
  if s.grp.killed then
    ({ s with grp := ({ s.grp with flight := s.grp.flight.filter fun x => x.id != e.id } : Group).complete e.id }).afterEntry
  else if (s.ctx s.gang.vf).stopped && e.err == cFABRIC_DOWN then
    { s with grp := { s.grp with flight := s.grp.flight.filter fun x => x.id != e.id, rq := insertEntry e s.grp.rq } }
  else (s.updEntry e).pend (e.due true)

/-- The destination full, its write not cancelled (04 R45, 22 R342). -/
def State.fillDest (s : State) (e : Entry) : State :=
  { s with grp := s.grp.markAll false e.writes }

/-! ## What lanes store -/

/-- An f32 element rounded to bf16, as the moment store does (21 R324). -/
def toBF16 (x : W32) : Res := fmtBF16.ofFV 0 false (fmtF32.read false x.toNat)

/-- A moment pair as an element of a record's format. -/
def momentDatum (f : BitVec 8) (mean var : W32) : Nat :=
  if f = 19 then var.toNat * 2 ^ 32 + mean.toNat else (toBF16 var).val * 2 ^ 16 + (toBF16 mean).val

/-- What a store writes for a lane. -/
def Entry.datum (e : Entry) (lane : Nat) : Nat :=
  match e.op with
  | .st .scalar => (e.sc 1).toNat
  | .st .record => (e.snap 0).toNat
  | .st .table => (List.range 4).foldl (fun n i => n + (e.result.get i).toNat * 2 ^ (64 * i)) 0
  | .st .wide => (e.blk 2 lane ++ e.blk 1 lane).toNat
  | .st .moment => momentDatum (bufFmt (e.snap 0)) (e.blk 1 lane) (e.blk 2 lane)
  | _ => (e.blk 1 lane).toNat

/-- The bytes a store writes for an access. -/
def Entry.bytesFor (e : Entry) (a : Acc) : List Byte := toBytes a.n (e.datum a.lane)

/-- An access whose bytes a higher lane of the same store writes too (06 R118). -/
def Entry.covered (e : Entry) (a : Acc) : Bool :=
  e.accs.any fun b => a.lane < b.lane && a.place == b.place && a.key == b.key && a.place != .nowhere

/-- One byte of a load with the queued bytes of a store over it; of several lanes the highest counts, performed or not
(06 R118). -/
def Entry.overlay (x : Entry) (pl : Place) (key : Nat) (b : Byte) : Byte :=
  (x.openAccs.filter fun y => !x.covered y).foldl (fun b y =>
    if y.place = pl && y.key ≤ key && key < y.key + y.n then ((x.bytesFor y)[key - y.key]?).getD b else b) b

/-- The bytes of a load with the group's earlier queued stores over them, the oldest first (06 R118). -/
def Group.forward (g : Group) (e : Entry) (a : Acc) (l : List Byte) : List Byte :=
  let q := g.flight.filter fun x => x.id < e.id && x.op.isStore && x.held.isNone
  if a.place = .nowhere then l
  else (List.range a.n).map fun i => q.foldl (fun b x => x.overlay a.place (a.key + i) b) ((l[i]?).getD 0)

/-! ## Loads -/

/-- The value of an element widened to n bits: signed for i codes (06 R114, R115). -/
def widen (n : Nat) (f : BitVec 8) (raw : Nat) : BitVec n :=
  let t : BitVec 5 := f.setWidth 5
  if isInt t then BitVec.ofInt n (intVal t raw) else BitVec.ofNat n raw

/-- One lane of a load written to its destination; a lane that has exited keeps its register values (03 R16). -/
def State.landLane (s : State) (e : Entry) (lane raw : Nat) : State :=
  let f := bufFmt (e.snap 0)
  let r := e.dest.reg.toNat
  if e.op != .ld .scalar && !s.grp.live.getLsbD lane then s
  else s.keeping (match e.op with
    | .ld .scalar => s.writeS (e.dest.reg.setWidth 6) (widen 64 f raw)
    | .ld .wide => { s with grp := s.grp.setPair r lane (BitVec.ofNat 64 raw) }
    | .ld .moment =>
      let x : W64 := if f = 19 then BitVec.ofNat 64 raw
        else BitVec.ofNat 16 (raw / 2 ^ 16) ++ 0#16 ++ (BitVec.ofNat 16 raw ++ 0#16)
      { s with grp := s.grp.setM r lane x }
    | _ => { s with grp := s.grp.setV r lane (widen 32 f raw) }) e.cancelled

/-- Lanes of a load performed in ascending order; a read that fails leaves the rest, with its cause. -/
def State.loadLanes (e : Entry) : List Acc → State → Entry × State
  | [], s => (e, s)
  | a :: t, s =>
    match s.readAcc a with
    | (.error c, s1) => ({ e with err := c, va := a.addr }, s1)
    | (.ok b, s1) =>
      let raw := ofBytes (s1.grp.forward e a b)
      State.loadLanes { e with
        done := e.done ||| laneBit a.lane
        result := if e.watch.isEmpty then e.result else e.result.set a.lane (BitVec.ofNat 64 raw) } t (s1.landLane e a.lane raw)

/-- Two lanes of a load that are performed together: they read a byte in common (06 R118), or name one granule that `ld.c` reads
and clears (R121). -/
def Entry.linked (e : Entry) (a b : Acc) : Bool :=
  a.overlaps b || (e.op == .ld .clear && a.place != .nowhere && b.place != .nowhere && a.granule == b.granule)

/-- The open lanes that go with those of a list, by n links. -/
def Entry.linkedTo (e : Entry) : Nat → List Acc → List Acc
  | 0, l => l
  | n + 1, l =>
    let more := e.openAccs.filter fun a => l.contains a || l.any (e.linked a)
    if more.length = l.length then l else e.linkedTo n more

/-- The lanes of a load that may be performed, of those named, each with the lanes it goes together with. -/
def State.loadable (s : State) (e : Entry) (lanes : Mask) : List Acc :=
  let ok (a : Acc) : Bool := s.mayPerform e a && (!e.op.waitsFull || s.gang.served a)
  e.openAccs.filter fun a =>
    let l := e.linkedTo 64 [a]
    (l.any fun b => lanes.getLsbD b.lane) && l.all ok

/-- Granules made empty or full. -/
def Gang.setGranules (g : Gang) (v : BitVec 1) (l : List Nat) : Gang :=
  { g with granules := l.foldl (fun m i => SMap.set m i v) g.granules }

/-- The granules of accesses in gang memory. -/
def granulesOf (l : List Acc) : List Nat := (l.filter fun a => a.place == .gmem).map (·.granule)

/-- A load whose lanes are all performed: its register is full; its values wait for load-value predicates, and actions that its
addresses fired for their landing, if any, with no register left to write. -/
def State.endLoad (s : State) (e : Entry) : State :=
  if !e.finished then s.updEntry e
  else
    let s := s.fillDest e
    if e.watch.isEmpty && e.fired.isEmpty then s.dropEntry e.id else s.updEntry { e with cancelled := e.dest.regs }

/-- Lanes of a load performed (04 R45, 06 R114, R121, R143). -/
def State.performLoad (s : State) (e : Entry) (lanes : Mask) : State :=
  let l := s.loadable e lanes
  let (e1, s) := State.loadLanes e l s
  let s := if e.op == .ld .clear then
      { s with gang := s.gang.setGranules 0 (granulesOf (l.filter fun a => e1.done.getLsbD a.lane)) } else s
  if e1.err = 0 then s.endLoad e1 else s.failEntry e1

/-! ## Stores -/

/-- A lane of a store or update that another module refused: noted for the log, and its cause left for the next fence or release at
system scope (16 R263). -/
def State.noteRefused (s : State) (e : Entry) (a : Acc) (c : BitVec 9) : Entry × State :=
  let b := laneBit a.lane
  ({ e with shut := if c = cFABRIC_DOWN then (e.shut.1, e.shut.2 ||| b) else (e.shut.1 ||| b, e.shut.2) },
    if s.grp.fabricErr = 0 then { s with grp := { s.grp with fabricErr := c, fabricVa := a.addr } } else s)

/-- The refusals of a store or update, once all its lanes are performed: one record for each cause, naming the lowest lane that met it
(16 R263, 18 R298). -/
def State.logRefused (s : State) (e : Entry) : State :=
  let log (c : BitVec 9) (m : Mask) (s : State) : State := if m = 0 then s else s.logError e.id c (lowestBit m) e.split e.pc
  log cFABRIC_DOWN e.shut.2 (log cFABRIC_REFUSED e.shut.1 s)

/-- A granule set full is an event for sleepers of the gang (05 R80). -/
def State.fillGranules (s : State) (l : List Nat) : State :=
  if l.all fun i => s.gang.full i then s
  else ({ s with gang := s.gang.setGranules 1 l }).mapGang (Group.event 2)

/-- Lanes of a store performed. -/
def State.storeLanes (e : Entry) : List Acc → State → Entry × State
  | [], s => (e, s)
  | a :: t, s =>
    let e1 := { e with done := e.done ||| laneBit a.lane }
    if e.covered a then State.storeLanes e1 t s
    else match s.writeAcc a (e.bytesFor a) with
      | (some c, s1) =>
        let (e2, s2) := s1.noteRefused e1 a c
        State.storeLanes e2 t s2
      | (none, s1) => State.storeLanes e1 t s1

/-- Lanes of a store performed; `st.f` sets the granules it wrote full once all its bytes are stored (06 R121, 08 R154); a release at
system scope after a refused remote store traps with its cause (16 R263). -/
def State.performStore (s : State) (e : Entry) (lanes : Mask) : State :=
  let l := e.openAccs.filter fun a => lanes.getLsbD a.lane && s.mayPerform e a
  if e.systemRelease && !l.isEmpty && s.grp.fabricErr != 0 then
    ({ s with grp := { s.grp with fabricErr := 0 } }).failEntry { e with err := s.grp.fabricErr, va := s.grp.fabricVa }
  else
    let (e1, s) := State.storeLanes e l s
    if e1.finished then ((if e.op == .st .full then s.fillGranules (granulesOf e.accs) else s).logRefused e1).dropEntry e.id
    else s.updEntry e1

/-! ## Atomics and bank operations (06 R132 to R135) -/

/-- The arithmetic of an atomic on an element: old value, operand, compare value. -/
def atomStep (fn : AtomFn) (t : BitVec 5) (w x cmp : Nat) : Nat :=
  let n := typeBits t
  let f := fmtOf t
  match fn with
  | .add => if isFloat t then (f.add 0 false w x).val else (w + x) % 2 ^ n
  | .min => if isFloat t then f.minmax false false w x else if intVal t x < intVal t w then x else w
  | .max => if isFloat t then f.minmax false true w x else if intVal t w < intVal t x then x else w
  | .and => w &&& x
  | .or => w ||| x
  | .xor => w ^^^ x
  | .xchg => x
  | .cas => if w = cmp then x else w

/-- The word no score replaces less (06 R133). -/
def bankEmpty : W64 := 0xFF800000FFFFFFFF

/-- `bank.mx` on a packed word (06 R133). -/
def mxStep (w c : W64) : W64 :=
  let ws : W64 := (field w 32 32 : BitVec 32).setWidth 64
  let cs : W64 := (field c 32 32 : BitVec 32).setWidth 64
  if f32NaN cs then w
  else if f32NaN ws then c
  else if f32Key ws < f32Key cs then c
  else if f32Key cs = f32Key ws && (field c 0 32 : W32).toNat < (field w 0 32 : W32).toNat then c
  else w

/-- `bank.sup` on a packed word. -/
def supStep (w : W64) (i : W32) : W64 := if field w 0 32 = i then bankEmpty else w

/-- The range `chunk` hands out, and the counter word after it (06 R135). -/
def chunkStep (r : W256) (w : W64) : W64 × W64 :=
  let next := (field w 0 32 : W32).toNat
  let last := (field w 32 32 : W32).toNat
  let p := (bufStride1 r).toNat
  let cmin := (field (bufStride2 r) 0 16 : BitVec 16).toNat
  let cmax := (field (bufStride2 r) 16 16 : BitVec 16).toNat
  let left := last - next
  let c := min left (max cmin (min cmax ((left + 2 * p - 1) / (2 * p))))
  (BitVec.ofNat 32 c ++ BitVec.ofNat 32 next, BitVec.ofNat 32 last ++ BitVec.ofNat 32 (next + c))

/-- The operand of a lane: one register, or a pair (06 R132). -/
def Entry.operand (e : Entry) (lane : Nat) : Nat :=
  let wide := esize (bufFmt (e.snap 0)) == some 8
  match e.op with
  | .atom .cas => if wide then (e.blk 4 lane ++ e.blk 3 lane).toNat else (e.blk 2 lane).toNat
  | .bankVadd => (e.blk 1 lane).toNat
  | .bankSup => (e.blk 1 lane).toNat
  | _ => if wide then (e.blk 2 lane ++ e.blk 1 lane).toNat else (e.blk 1 lane).toNat

/-- The compare value of a lane. -/
def Entry.compareVal (e : Entry) (lane : Nat) : Nat :=
  if esize (bufFmt (e.snap 0)) == some 8 then (e.blk 2 lane ++ e.blk 1 lane).toNat else (e.blk 1 lane).toNat

/-- One element of a granule replaced. -/
def putElem (old : List Byte) (i n x : Nat) : List Byte :=
  old.take (i * n) ++ toBytes n x ++ old.drop (i * n + n)

/-- The bytes after a lane's step, and what the step returns. -/
def Entry.stepBytes (e : Entry) (lane : Nat) (old : List Byte) : List Byte × W64 :=
  let t : BitVec 5 := (bufFmt (e.snap 0)).setWidth 5
  let w := ofBytes old
  match e.op with
  | .atom fn | .red fn => (toBytes old.length (atomStep fn t w (e.operand lane) (e.compareVal lane)), BitVec.ofNat 64 w)
  | .bankMx => (toBytes 8 (mxStep (BitVec.ofNat 64 w) (BitVec.ofNat 64 (e.operand lane))).toNat, 0)
  | .bankSup => (toBytes 8 (supStep (BitVec.ofNat 64 w) (BitVec.ofNat 32 (e.operand lane))).toNat, 0)
  | .bankVadd =>
    let i := lane % 16
    (putElem old i 4 (atomStep .add t (ofBytes ((old.drop (4 * i)).take 4)) (e.operand lane) 0), 0)
  | .chunk =>
    let r := chunkStep (e.snap 0) (BitVec.ofNat 64 w)
    (toBytes 8 r.2.toNat, r.1)
  | _ => (old, 0)

/-- Lanes of an atomic or bank operation performed in the order given. -/
def State.stepLanes (e : Entry) : List Acc → State → Entry × State
  | [], s => (e, s)
  | a :: t, s =>
    match s.readAcc a with
    | (.error c, s1) =>
      if a.remote && e.op.queued then
        let (e2, s2) := s1.noteRefused { e with done := e.done ||| laneBit a.lane } a c
        State.stepLanes e2 t s2
      else ({ e with err := c, va := a.addr }, s1)
    | (.ok b, s1) =>
      let r := e.stepBytes a.lane b
      let s2 := if a.remote then s1 else (s1.writeAcc a r.1).2
      State.stepLanes { e with done := e.done ||| laneBit a.lane, result := e.result.set a.lane r.2 } t s2

/-- The lanes an atomic or bank operation performs next: ascending, none before a lower one; a granule's updates by one
`bank.vadd` together (06 R132, R134). -/
def State.steppable (s : State) (e : Entry) (lanes : Mask) : List Acc :=
  let named (a : Acc) : Bool :=
    if e.op == .bankVadd then e.openAccs.any fun b => lanes.getLsbD b.lane && b.place == a.place && b.key == a.key
    else lanes.getLsbD a.lane
  let l := e.openAccs.filter named
  if e.op == .bankVadd then (if l.all (s.mayPerform e) then l else [])
  else e.openAccs.takeWhile fun a => named a && s.mayPerform e a

/-- Lanes of an atomic or bank operation performed; a counted one completes with its last lane (06 R123). -/
def State.performBank (s : State) (e : Entry) (lanes : Mask) : State :=
  let (e1, s) := State.stepLanes e (s.steppable e lanes) s
  if e1.err ≠ 0 then s.failEntry e1
  else if e1.finished && e1.op.queued then
    let s := (s.logRefused e1).dropEntry e.id
    { s with grp := s.grp.complete e.id }
  else s.updEntry e1

/-- A returning atomic or `chunk` whose steps are done writes its destination (06 R132, R135), in the lanes still live (03 R16). -/
def State.finishBank (s : State) (e : Entry) : State :=
  if !e.finished || e.err ≠ 0 || e.held.isSome then s
  else
    let r := e.dest.reg.toNat
    let t :=
      if e.op == .chunk then s.writeS (e.dest.reg.setWidth 6) (e.result.get e.lowLane)
      else
        let out := (lanesOf (e.active &&& s.grp.live)).map fun l => (l, e.result.get l)
        if e.dest.count = 2 then { s with grp := s.grp.putPair r out }
        else { s with grp := s.grp.putV r (out.map fun x => (x.1, x.2.setWidth 32)) }
    let s := s.keeping t e.cancelled
    let s := s.fillDest e
    if e.watch.isEmpty && e.fired.isEmpty then s.dropEntry e.id else s.updEntry { e with cancelled := e.dest.regs }

end Sys2Proof.Machine
end

