-- ==== Sys2Proof/Machine/Loads.lean ====
section
/-!
DEFINITION. Sys2Proof/Machine/Loads.lean: issue of loads and stores (06 R108, R109, R114 to R118, R121, 22 R332), and their
performance by the memory system.
-/

namespace Sys2Proof.Machine

/-! ## Operations at issue (06 R111, 18 R291) -/

/-- The operand block of a vector register. -/
def Group.block (g : Group) (r : Nat) : SMap 32 := g.v.slice (64 * r) 64

/-- The two operand blocks of a moment register, the low half first. -/
def Group.momentBlocks (g : Group) (r : Nat) : List (SMap 32) :=
  let f (lo : Nat) : SMap 32 := (List.range 64).foldl (fun m l => SMap.set m l (field (g.mreg r l) lo 32)) []
  [f 0, f 32]

/-- An operation of the executing split, with nothing captured yet. -/
def State.newEntry (s : State) (i : Instr) (op : MemOp) : Entry :=
  { id := s.grp.nextId, op, word := (encode i).getD 0, pc := s.sp.pc, split := s.k, mask := s.sp.mask, active := s.active,
    mode := s.mode, scal := [], dest := Dest.none, snaps := [], recs := [], blocks := [], accs := [], done := 0,
    landed := [], result := [], held := none, more := [], part := 0, err := 0, detail := 0, va := 0, claimed := none, failed := false,
    cancelled := [], refused := [], shut := (0, 0), stale := false, watch := [], fired := [], seq := 0, codebook := [] }

/-- A counted operation added to its class (06 R123). -/
def Group.countOne (g : Group) (cls : BitVec 3) (id : Nat) : Group :=
  { g with counters := g.counters ++ [{ cls, id, done := false }] }

/-- The next issue number taken. -/
def Group.bump (g : Group) : Group := { g with nextId := g.nextId + 1 }

/-- What narrowing a moment pair to bf16 raises in a lane of `mst` (21 R324). -/
def Entry.narrowing (e : Entry) (lane : Nat) : Rep :=
  if bufFmt (e.snap 0) = 20 then (toBF16 (e.blk 1 lane)).rep.or (toBF16 (e.blk 2 lane)).rep else Rep.none

/-- What the address and value sources of the watch see of an operation at issue (22 R332). -/
def Entry.sources (e : Entry) : Sources :=
  let addrs := e.accs.map fun a => (a.lane, a.addr)
  let bits (a : Acc) (x : Nat) : W64 := BitVec.ofNat 64 (x % 2 ^ (8 * a.n))
  let vals := e.accs.map fun a => (a.lane, bits a (e.datum a.lane))
  let opnds := e.accs.map fun a => (a.lane, BitVec.ofNat 64 (e.operand a.lane))
  match e.op with
  | .ld _ => [(0, addrs)]
  | .st .record | .st .table => []
  | .st .moment =>
    [(1, addrs), (3, vals), (4, (lanesOf e.active).map fun l => (l, (e.narrowing l).fl.setWidth 64))]
  | .st _ => [(1, addrs), (3, vals)]
  | .atom _ => [(0, addrs), (1, addrs), (3, opnds)]
  | .red _ | .bankMx | .bankSup | .bankVadd => [(1, addrs), (3, opnds)]
  | _ => []

/-- The store queue's operation that a fault holds, by its page (18 R283). -/
def Group.heldStore (g : Group) : Option W64 := (g.flight.find? fun e => e.op.queued && e.held.isSome).bind (·.held)

/-- The executing split counts, from here on, what it issues after an operation that watch predicates look at (22 R334). -/
def State.countSkid (s : State) (e : Entry) : State :=
  if e.watch.isEmpty then s else s.updSp fun x => { x with skids := putSkid (e.id, 0) x.skids }

/-- The address and operand sources of an operation at issue. The action that they fire on a load or returning atomic lands once its
registers are written, and its split issues nothing before that; on a store, which is queued, at once (22 R334). -/
def State.watchMem (s : State) (e : Entry) (pc : W64) : State :=
  match s.selected (e.sources.map (·.1)) with
  | [] => s
  | l =>
    let (s1, fs) := s.evaluate e.sources l
    if e.dest.count = 0 then s1.actOn fs s.k 0 pc else s1.updEntry { e with fired := fs }

/-- An operation whose operands are captured goes to the memory system: its bytes are found and checked, which may trap; every
lane is translated; its destination is empty until it completes (04 R45, 18 R281). `cls` is the class it is counted in. -/
def State.sendMem (s : State) (e : Entry) (cls : Option (BitVec 3)) : State :=
  let pc := s.sp.pc
  match s.prepare e with
  | .error (c, va) => s.trapVa c va
  | .ok l =>
    let e := { e with accs := l, watch := if e.op.isLoad || e.dest.file == 1 then s.selected [2] else [] }
    let (e, s) := s.translateEntry e
    let g := (s.grp.markAll true e.dest.regs).bump
    let s := { s with grp := match cls with | some c => g.countOne c e.id | none => g }
    (((s.launchEntry e).advance).countSkid e).watchMem e pc

/-- An aligned base (06 R108). -/
def alignOk (r : W256) (n : Nat) : Bool := (bufBase r).toNat % n == 0

/-- The checks of a record that a memory instruction names: those of 06 R109, then alignment (R108), which the bank operations and
`chunk` are held to as atomics are (log 73). -/
def checkMem (r : W256) (fmtOk : BitVec 8 → Bool) (spaceOk : BitVec 3 → Bool) (scope write : Bool) (align : Nat) :
    Option (BitVec 9) :=
  match checkBuf r fmtOk spaceOk scope write with
  | some c => some c
  | none => if alignOk r (if align = 0 then (esize (bufFmt r)).getD 1 else align) then none else some cALIGN

/-! ## Loads (06 R114 to R117, R121) -/

/-- What a vector load needs: its offsets with the wait bit, n destination registers, even for a pair. -/
def ldUse (d : BitVec 7) (n : Nat) (a : BitVec 7) (w : BitVec 1) : Use :=
  { ok := n == 1 || d.toNat % 2 == 0, reads := [(.v a.toNat, w == 1)], writes := (Dest.vec d.toNat n).regs }

/-- A vector load at issue: n registers from vD, record R, offsets vA. -/
def State.loadOf (s : State) (i : Instr) (k : LdKind) (d : BitVec 7) (n : Nat) (r : BitVec 10) (a : BitVec 7) : Entry :=
  { s.newEntry i (.ld k) with
    snaps := [s.record r], recs := [r], blocks := [s.grp.block a.toNat], dest := Dest.vec d.toNat n }

/-- A debug step of a load that waits for full granules finds them full (22 R343). -/
def State.stepServed (s : State) (e : Entry) : Bool :=
  s.stepping.isNone || !e.op.waitsFull || match s.prepare e with
    | .ok l => l.all s.gang.served
    | .error _ => true

/-- A vector load of n registers. -/
def State.vload (s : State) (i : Instr) (k : LdKind) (d : BitVec 7) (n : Nat) (r : BitVec 10) (a : BitVec 7) (w : BitVec 1)
    (sizes : List Nat) (spaceOk : BitVec 3 → Bool) : State :=
  s.issue { ldUse d n a w with recs := [r], ready := s.stepServed (s.loadOf i k d n r a) } fun s =>
    match checkMem (s.record r) (sizeIn sizes) spaceOk (k == .acquire) false 0 with
    | some c => s.trapRec c (s.record r)
    | none => s.sendMem (s.loadOf i k d n r a) none

/-- `ld` (06 R114). -/
def execLd (d : BitVec 7) (r : BitVec 10) (a : BitVec 7) (w : BitVec 1) (s : State) : Out :=
  .next (s.vload (.ld d r a w) .plain d 1 r a w [1, 2, 4] anySpace)
/-- `ld.acq` (06 R117). -/
def execLdAcq (d : BitVec 7) (r : BitVec 10) (a : BitVec 7) (w : BitVec 1) (s : State) : Out :=
  .next (s.vload (.ldAcq d r a w) .acquire d 1 r a w [1, 2, 4] anySpace)
/-- `ld.c` (06 R121). -/
def execLdC (d : BitVec 7) (r : BitVec 10) (a : BitVec 7) (w : BitVec 1) (s : State) : Out :=
  .next (s.vload (.ldC d r a w) .clear d 1 r a w [1, 2, 4] gmemSpace)
/-- `ld.k` (06 R121). -/
def execLdK (d : BitVec 7) (r : BitVec 10) (a : BitVec 7) (w : BitVec 1) (s : State) : Out :=
  .next (s.vload (.ldK d r a w) .keep d 1 r a w [1, 2, 4] gmemSpace)
/-- `ld.w` (06 R116). -/
def execLdW (d : BitVec 7) (r : BitVec 10) (a : BitVec 7) (w : BitVec 1) (s : State) : Out :=
  .next (s.vload (.ldW d r a w) .wide d 2 r a w [8] anySpace)

/-- `ld.s` (06 R115): once for the split. -/
def execLdS (d : BitVec 6) (r : BitVec 10) (a : BitVec 6) (w : BitVec 1) (s : State) : Out :=
  .next <| s.issue { reads := [(.s a, w == 1)], writes := [.s d], recs := [r] } fun s =>
    let rec_ := s.record r
    match checkMem rec_ (sizeIn [1, 2, 4, 8]) anySpace false false 0 with
    | some c => s.trapRec c rec_
    | none => s.sendMem { s.newEntry (.ldS d r a w) (.ld .scalar) with
        snaps := [rec_], recs := [r], scal := [s.readS a], dest := Dest.scal d.toNat 1 } none

/-! ## Stores (06 R114 to R118, R121) -/

/-- What a vector store needs: its offsets, n data registers that always block, and no store held by a fault. -/
def stUse (g : Group) (d : BitVec 7) (n : Nat) (a : BitVec 7) (w : BitVec 1) : Use :=
  { ok := n == 1 || d.toNat % 2 == 0
    reads := (.v a.toNat, w == 1) :: (Dest.vec d.toNat n).regs.map fun r => (r, false)
    ready := g.heldStore.isNone, park := g.heldStore }

/-- A vector store of n registers. -/
def State.vstore (s : State) (i : Instr) (k : StKind) (d : BitVec 7) (n : Nat) (r : BitVec 10) (a : BitVec 7) (w : BitVec 1)
    (sizes : List Nat) (spaceOk : BitVec 3 → Bool) : State :=
  s.issue { stUse s.grp d n a w with recs := [r] } fun s =>
    let rec_ := s.record r
    match checkMem rec_ (sizeIn sizes) spaceOk (k == .release) true 0 with
    | some c => s.trapRec c rec_
    | none => s.sendMem { s.newEntry i (.st k) with
        snaps := [rec_], recs := [r]
        blocks := s.grp.block a.toNat :: (List.range n).map fun j => s.grp.block (d.toNat + j) } none

/-- `st` (06 R114). -/
def execSt (d : BitVec 7) (r : BitVec 10) (a : BitVec 7) (w : BitVec 1) (s : State) : Out :=
  .next (s.vstore (.st d r a w) .plain d 1 r a w [1, 2, 4] anySpace)
/-- `st.rel` (06 R117). -/
def execStRel (d : BitVec 7) (r : BitVec 10) (a : BitVec 7) (w : BitVec 1) (s : State) : Out :=
  .next (s.vstore (.stRel d r a w) .release d 1 r a w [1, 2, 4] anySpace)
/-- `st.f` (06 R121). -/
def execStF (d : BitVec 7) (r : BitVec 10) (a : BitVec 7) (w : BitVec 1) (s : State) : Out :=
  .next (s.vstore (.stF d r a w) .full d 1 r a w [1, 2, 4] gmemSpace)
/-- `st.w` (06 R116). -/
def execStW (d : BitVec 7) (r : BitVec 10) (a : BitVec 7) (w : BitVec 1) (s : State) : Out :=
  .next (s.vstore (.stW d r a w) .wide d 2 r a w [8] anySpace)

/-- `st.s` (06 R115): once for the split. -/
def execStS (d : BitVec 6) (r : BitVec 10) (a : BitVec 6) (w : BitVec 1) (s : State) : Out :=
  let u : Use :=
    { reads := [(.s a, w == 1), (.s d, false)], ready := s.grp.heldStore.isNone, park := s.grp.heldStore, recs := [r] }
  .next <| s.issue u fun s =>
    let rec_ := s.record r
    match checkMem rec_ (sizeIn [1, 2, 4, 8]) anySpace false true 0 with
    | some c => s.trapRec c rec_
    | none => s.sendMem { s.newEntry (.stS d r a w) (.st .scalar) with
        snaps := [rec_], recs := [r], scal := [s.readS a, s.readS d] } none

/-- Stores reach their point of coherence (08 R146): lanes of a queued store performed. -/
def execStorePerform (g : GroupRef) (id : Nat) (lanes : Mask) (s : State) : Out :=
  .next <| s.onGroup g fun s =>
    match s.grp.entry id with
    | some e => if e.op.isStore then s.performStore e lanes else s
    | none => s

end Sys2Proof.Machine
end

