-- ==== Sys2Proof/Machine/Atomic.lean ====
section
/-!
DEFINITION. Sys2Proof/Machine/Atomic.lean: issue of the atomics, the bank operations and `chunk` (06 R132 to R135), and their
performance at the point that serves their space.
-/

namespace Sys2Proof.Machine

/-! ## Formats (06 R132) -/

/-- 32-bit and 64-bit integers and floats. -/
def fmtArith (f : BitVec 8) : Bool := f.toNat ≤ 3 || f == 8 || f == 9
/-- 32-bit and 64-bit integers. -/
def fmtBits (f : BitVec 8) : Bool := f.toNat ≤ 3
/-- Any format of 4 or 8 bytes. -/
def fmtAny48 : BitVec 8 → Bool := sizeIn [4, 8]
/-- n64 only (06 R133, R135). -/
def fmtN64 (f : BitVec 8) : Bool := f == 3
/-- i32, n32 and f32 (06 R134). -/
def fmtVadd (f : BitVec 8) : Bool := f == 0 || f == 1 || f == 8

/-- Operand registers of an atomic under a record it accepts: one per 4 bytes, twice as many for `atom.cas`; one under a
record that its checks refuse, which traps. -/
def atomRegs (fn : AtomFn) (fmtOk : BitVec 8 → Bool) (r : W256) : Nat :=
  if (checkBuf r fmtOk anySpace false true).isSome then 1
  else
    let n := if esize (bufFmt r) == some 8 then 2 else 1
    if fn == .cas then 2 * n else n

/-- What an atomic needs: its offsets, n operand registers from a base that is a multiple of n. -/
def atomUse (g : Group) (d : BitVec 7) (n m : Nat) (a : BitVec 7) (w : BitVec 1) (more : Bool) : Use :=
  { ok := d.toNat % n == 0
    reads := (.v a.toNat, w == 1) :: (Dest.vec d.toNat n).regs.map fun r => (r, false)
    writes := (Dest.vec d.toNat m).regs
    ready := g.heldStore.isNone && more, park := g.heldStore }

/-- The blocks of an atomic: offsets, then operands (18 R291). -/
def Group.atomBlocks (g : Group) (d a : BitVec 7) (n : Nat) : List (SMap 32) :=
  g.block a.toNat :: (List.range n).map fun j => g.block (d.toNat + j)

/-- A returning atomic (06 R132): its result goes to the first register, or pair, of D. -/
def State.atomic (s : State) (i : Instr) (fn : AtomFn) (fmtOk : BitVec 8 → Bool) (d : BitVec 7) (r : BitVec 8) (a : BitVec 7)
    (w : BitVec 1) : State :=
  let n := atomRegs fn fmtOk (s.record (r.setWidth 10))
  let m := if fn == .cas then max 1 (n / 2) else n
  s.issue (atomUse s.grp d n m a w true) fun s =>
    let rec_ := s.record (r.setWidth 10)
    match checkMem rec_ fmtOk anySpace false true 0 with
    | some c => s.trapRec c rec_
    | none => s.sendMem { s.newEntry i (.atom fn) with
        snaps := [rec_], recs := [r.setWidth 10], blocks := s.grp.atomBlocks d a n, dest := Dest.vec d.toNat m } none

/-- Room for one more operation in a counter (06 R123). -/
def Group.room (g : Group) (cls : BitVec 3) : Bool := g.count cls < 255

/-- A counted update at a location: the `red` forms and the bank operations. -/
def State.update (s : State) (i : Instr) (op : MemOp) (fmtOk : BitVec 8 → Bool) (spaceOk : BitVec 3 → Bool) (align : Nat)
    (n : Nat) (d : BitVec 7) (r : BitVec 8) (a : BitVec 7) (w : BitVec 1) : State :=
  s.issue { atomUse s.grp d n 0 a w (s.grp.room 6) with writes := [] } fun s =>
    let rec_ := s.record (r.setWidth 10)
    match checkMem rec_ fmtOk spaceOk false true align with
    | some c => s.trapRec c rec_
    | none => s.sendMem { s.newEntry i op with
        snaps := [rec_], recs := [r.setWidth 10], blocks := s.grp.atomBlocks d a n } (some 6)

def execAtomAdd (d : BitVec 7) (r : BitVec 8) (a : BitVec 7) (w : BitVec 1) (s : State) : Out :=
  .next (s.atomic (.atomAdd d r a w) .add fmtArith d r a w)
def execAtomMin (d : BitVec 7) (r : BitVec 8) (a : BitVec 7) (w : BitVec 1) (s : State) : Out :=
  .next (s.atomic (.atomMin d r a w) .min fmtArith d r a w)
def execAtomMax (d : BitVec 7) (r : BitVec 8) (a : BitVec 7) (w : BitVec 1) (s : State) : Out :=
  .next (s.atomic (.atomMax d r a w) .max fmtArith d r a w)
def execAtomAnd (d : BitVec 7) (r : BitVec 8) (a : BitVec 7) (w : BitVec 1) (s : State) : Out :=
  .next (s.atomic (.atomAnd d r a w) .and fmtBits d r a w)
def execAtomOr (d : BitVec 7) (r : BitVec 8) (a : BitVec 7) (w : BitVec 1) (s : State) : Out :=
  .next (s.atomic (.atomOr d r a w) .or fmtBits d r a w)
def execAtomXor (d : BitVec 7) (r : BitVec 8) (a : BitVec 7) (w : BitVec 1) (s : State) : Out :=
  .next (s.atomic (.atomXor d r a w) .xor fmtBits d r a w)
def execAtomXchg (d : BitVec 7) (r : BitVec 8) (a : BitVec 7) (w : BitVec 1) (s : State) : Out :=
  .next (s.atomic (.atomXchg d r a w) .xchg fmtAny48 d r a w)
def execAtomCas (d : BitVec 7) (r : BitVec 8) (a : BitVec 7) (w : BitVec 1) (s : State) : Out :=
  .next (s.atomic (.atomCas d r a w) .cas fmtAny48 d r a w)

def execRedAdd (d : BitVec 7) (r : BitVec 8) (a : BitVec 7) (w : BitVec 1) (s : State) : Out :=
  .next (s.update (.redAdd d r a w) (.red .add) fmtArith anySpace 0 (atomRegs .add fmtArith (s.record (r.setWidth 10))) d r a w)
def execRedMin (d : BitVec 7) (r : BitVec 8) (a : BitVec 7) (w : BitVec 1) (s : State) : Out :=
  .next (s.update (.redMin d r a w) (.red .min) fmtArith anySpace 0 (atomRegs .min fmtArith (s.record (r.setWidth 10))) d r a w)
def execRedMax (d : BitVec 7) (r : BitVec 8) (a : BitVec 7) (w : BitVec 1) (s : State) : Out :=
  .next (s.update (.redMax d r a w) (.red .max) fmtArith anySpace 0 (atomRegs .max fmtArith (s.record (r.setWidth 10))) d r a w)

/-- `bank.mx` (06 R133): a candidate in a pair. -/
def execBankMx (d : BitVec 7) (r : BitVec 8) (a : BitVec 7) (w : BitVec 1) (s : State) : Out :=
  .next (s.update (.bankMx d r a w) .bankMx fmtN64 bankSpace 0 2 d r a w)
/-- `bank.sup` (06 R133). -/
def execBankSup (d : BitVec 7) (r : BitVec 8) (a : BitVec 7) (w : BitVec 1) (s : State) : Out :=
  .next (s.update (.bankSup d r a w) .bankSup fmtN64 bankSpace 0 1 d r a w)
/-- `bank.vadd` (06 R134): granules of 64 bytes. -/
def execBankVadd (d : BitVec 7) (r : BitVec 8) (a : BitVec 7) (w : BitVec 1) (s : State) : Out :=
  .next (s.update (.bankVadd d r a w) .bankVadd fmtVadd bankSpace 64 1 d r a w)

/-- A chunk record's P, CMIN and CMAX (06 R135). -/
def chunkOk (r : W256) : Bool :=
  let cmin := (field (bufStride2 r) 0 16 : BitVec 16)
  let cmax := (field (bufStride2 r) 16 16 : BitVec 16)
  0 < (bufStride1 r).toInt && cmin != 0 && cmin.toNat ≤ cmax.toNat

/-- `chunk` (06 R135): once for the split. Its record is checked as an atomic's, then P, CMIN and CMAX, then the alignment of BASE to
its 8 bytes (log 73). -/
def execChunk (d : BitVec 6) (r : BitVec 8) (a : BitVec 6) (w : BitVec 1) (s : State) : Out :=
  .next <| s.issue { reads := [(.s a, w == 1)], writes := [.s d] } fun s =>
    let rec_ := s.record (r.setWidth 10)
    match checkBuf rec_ fmtN64 bankSpace false true with
    | some c => s.trapRec c rec_
    | none =>
      if !chunkOk rec_ then s.trap cREC_VALUE
      else if !alignOk rec_ 8 then s.trapRec cALIGN rec_
      else s.sendMem { s.newEntry (.chunk d r a w) .chunk with
        snaps := [rec_], recs := [r.setWidth 10], scal := [s.readS a], dest := Dest.scal d.toNat 1 } none

/-- An atomic or bank operation is performed where its location lies, lane by lane (06 R132). -/
def execBankOperationPerform (g : GroupRef) (id : Nat) (lanes : Mask) (s : State) : Out :=
  .next <| s.onFlight g fun s =>
    match s.grp.entry id with
    | some e =>
      match e.op with
      | .atom _ | .red _ | .bankMx | .bankSup | .bankVadd | .chunk => s.performBank e lanes
      | _ => s
    | none => s

end Sys2Proof.Machine
end

