-- ==== Sys2Proof/Machine/Control.lean ====
section
/-!
DEFINITION. Sys2Proof/Machine/Control.lean: control and mode instructions, and the wakes of sleep and yield
(05 R74 to R80).
-/

namespace Sys2Proof.Machine

/-! ## Branches (05 R75, R76, 03 R22, R23) -/

/-- The target of a branch: PC + 4 × DISP18. -/
def State.target (s : State) (d : BitVec 18) : W64 := s.sp.pc + (d.signExtend 64) * 4

/-- A branch that moves or may move the whole split sets one bit of the branch map (22 R348): the whole split goes to the target, or on. -/
def State.branch (s : State) (taken : Bool) (d : BitVec 18) : State :=
  (s.traceBit taken).goto (if taken then s.target d else s.sp.pc + 4)

/-- The lanes of a mask divided off to an address (03 R22): into the free entry of lowest index, else onto the stack;
a full stack traps, and one that
cannot be written to the save area kills the group (19 R302). -/
def State.divide (s : State) (lanes : Mask) (target : W64) : State :=
  let mode := s.mode
  match s.grp.carve s.k lanes fun x =>
      { Split.free with pc := target, mask := x.mask, mode := mode, issued := x.issued, skids := s.grp.tickSkids x.skids } with
  | none => s.trap cSPLIT_OVERFLOW
  | some (g, j) =>
    if j.isNone && s.saveFault .stack ≠ 0 then s.killGroup (s.saveFault .stack) s.sp.pc
    else
      let s1 := ({ s with grp := g }).advance
      s1.traceSplit s.k.toNat (match j with | some i => i.toNat | none => 15) 0 lanes target

/-- A mask branch reads S with its wait bit. -/
def buse (r : BitVec 6) (w : BitVec 1) : Use := { reads := [(.s r, w == 1)] }

/-- `nop` (05 R74). -/
def execNop (s : State) : Out := .next (s.issue {} fun s => s.advance)

/-- The lanes of the executing split exited; what is left of it goes on (05 R74). -/
def State.exitLanes (s : State) (lanes : Mask) : State :=
  let last := s.grp.live &&& ~~~lanes = 0
  let s := { s with grp := { s.grp with exitPc := if last then s.sp.pc else s.grp.exitPc, exitAt := s.cycles + 1 } }
  s.advance.recheck lanes

/-- `exit` (05 R74). -/
def execExit (s : State) : Out := .next (s.issue {} fun s => s.exitLanes s.active)

/-- `bra` (05 R75). -/
def execBra (d : BitVec 18) (s : State) : Out := .next (s.issue {} fun s => s.branch true d)

/-- `brm.any` (05 R75). -/
def execBrmAny (r : BitVec 6) (w : BitVec 1) (d : BitVec 18) (s : State) : Out :=
  .next <| s.issue (buse r w) fun s =>
    let t := s.sp.mask &&& s.readS r
    if t = 0 then s.branch false d
    else if t = s.sp.mask then s.branch true d
    else s.divide t (s.target d)

/-- `brm.all` (05 R75). -/
def execBrmAll (r : BitVec 6) (w : BitVec 1) (d : BitVec 18) (s : State) : Out :=
  .next <| s.issue (buse r w) fun s => s.branch (s.sp.mask &&& ~~~(s.readS r) == 0) d

/-- `brm.none` (05 R75). -/
def execBrmNone (r : BitVec 6) (w : BitVec 1) (d : BitVec 18) (s : State) : Out :=
  .next <| s.issue (buse r w) fun s => s.branch (s.sp.mask &&& s.readS r == 0) d

/-- `brz` (05 R75). -/
def execBrz (r : BitVec 6) (w : BitVec 1) (d : BitVec 18) (s : State) : Out :=
  .next <| s.issue (buse r w) fun s => s.branch (s.readS r == 0) d

/-- `brnz` (05 R75). -/
def execBrnz (r : BitVec 6) (w : BitVec 1) (d : BitVec 18) (s : State) : Out :=
  .next <| s.issue (buse r w) fun s => s.branch (s.readS r != 0) d

/-- `call` (05 R76): the link, then the target. -/
def execCall (r : BitVec 6) (d : BitVec 18) (s : State) : Out :=
  .next <| s.issue { writes := [.s r] } fun s => (s.writeS r (s.sp.pc + 4)).branch true d

/-- An indirect transfer: a target that is no multiple of 4 traps (05 R76). -/
def State.jump (s : State) (t : W64) : State :=
  if field t 0 2 ≠ 0 then s.trap cPC_ALIGN else (s.traceInd s.k t).goto t

/-- `ret` (05 R76). -/
def execRet (a : BitVec 6) (s : State) : Out :=
  .next <| s.issue { reads := [(.s a, false)] } fun s => s.jump (s.readS a)

/-- `jmp` (05 R76). -/
def execJmp (a : BitVec 6) (i : BitVec 13) (s : State) : Out :=
  .next <| s.issue { reads := [(.s a, false)] } fun s => s.jump (s.readS a + i.signExtend 64 * 4)

/-! ## Joins (03 R25 to R29) -/

/-- The executing split arrives at its join or synchronising instruction with a membership; where it (or what it merged
into) passes, f follows in the split that passed. -/
def State.joinThen (s : State) (x : Mask) (advance : Bool) (f : State → State) : State :=
  match s.issuing.grp.arrive s.k (x &&& s.wmask) advance with
  | .trap c => s.trap c
  | .pass g k =>
    let s1 := ({ s with grp := g, k := k }).traceMerge s.grp k 0
    f s1
  | .wait g => ({ s with grp := g }).traceMerge s.grp s.k 0
  | .deadlock g k => ({ s with grp := g, k := k }).trap cJOIN_DEADLOCK

/-- `join` (05 R77). -/
def execJoin (a : BitVec 6) (s : State) : Out :=
  .next <| s.issue { reads := [(.s a, false)] } fun s =>
    s.joinThen (s.readS a) true fun s => s.goto s.sp.pc

/-! ## Mode (05 R78, 04 R51) -/

/-- `setm` (04 R51). -/
def execSetm (a : BitVec 6) (s : State) : Out :=
  .next <| s.issue { reads := [(.s a, false)] } fun s =>
    let m := s.readS a
    if modeOk m then (s.updSp fun x => { x with mode := m }).advance else s.trap cMODE_VALUE

/-- `getm` (05 R78). -/
def execGetm (d : BitVec 6) (s : State) : Out :=
  .next <| s.issue { writes := [.s d] } fun s => (s.writeS d s.mode).advance

/-! ## Yield and sleep (05 R79, R80) -/

/-- A split ready to issue, but for its group's place in the active set (14 R242). -/
def Split.ready (x : Split) : Bool := !x.isFree && !x.held && x.st == .running && x.blk == .no

/-- The splits of a group ready to issue, by index. -/
def Group.ready (g : Group) : List (BitVec 2 × Split) :=
  if g.alive then g.splits.list.filter fun q => q.2.ready else []

/-- The ready splits of the active set of the quadrant of the group in focus, with their counts of issued instructions. -/
def State.quadReady (s : State) : List (GroupRef × BitVec 2 × BitVec 32) :=
  (s.residents.filter fun r => r.gang.die == s.gang.die && r.gang.core == s.gang.core).flatMap fun r =>
    (r.groups.filter fun g => g.inActive && g.idx.toNat % 4 == s.grp.idx.toNat % 4).flatMap fun g =>
      g.ready.map fun q =>
        ({ gang := { vf := r.gang.vf, seq := r.gang.seq, gang := r.gang.idx }, group := g.idx }, q.1, q.2.issued)

/-- `yield` (05 R79): the split is not ready until its yield expires. -/
def execYield (s : State) : Out :=
  .next <| s.issue {} fun s =>
    let s1 := s.advance
    let others := s.quadReady.filter fun x => !(x.1 == s.self && x.2.1 == s.k)
    if s.stepping.isSome then s1 else s1.updSp fun x => { x with st := .yielded s.cycles others }

/-- A yield expires once every other split that was ready has been picked or is ready no more, or 64 cycles have passed
(05 R79). -/
def execYieldExpiry (g : GroupRef) (k : BitVec 2) (s : State) : Out :=
  .next <| s.onGroup g fun s =>
    match (s.grp.splits.get k).st with
    | .yielded since others =>
      if 64 ≤ (s.cycles - since).toNat || others.all fun x => !s.quadReady.contains x then
        { s with grp := s.grp.updSplit k fun x => { x with st := .running } }
      else s
    | _ => s

/-- The moment n ns after t; TIME never goes past its last value (22 R353). -/
def deadline (t n : W64) : W64 := if t.toNat + n.toNat < 2 ^ 64 then t + n else BitVec.allOnes 64

/-- `sleep` (05 R80): an sA of 0 wakes the split at once with status 0. -/
def execSleep (d a : BitVec 6) (e : BitVec 3) (s : State) : Out :=
  .next <| s.issue { reads := [(.s a, false)], writes := [.s d], ready := s.stepping.isNone || s.readS a == 0 } fun s =>
    if s.readS a = 0 then (s.writeS d 0).advance
    else
      (s.waitIn (.asleep d (deadline s.time (s.readS a)) e)).updSp fun x => { x with woke := none }

/-- The status a wake writes, with the split going on after its `sleep`. A write of the register that another split issued while this
one slept is overwritten: 04 R44 has the later write stand, 05 R80 has the status written at the wake (log 45). -/
def State.wake (s : State) (k : BitVec 2) (status : W64) : State :=
  let x := s.grp.splits.get k
  match x.st with
  | .asleep d _ _ =>
    (({ s with k := k }).writeS d status).updSp fun x => { x.goOn with woke := none }
  | _ => s

/-- A sleep ends at its deadline (05 R80): once TIME has reached it, unless an event came first; a held split wakes on
release. -/
def execSleepTimeout (g : GroupRef) (k : BitVec 2) (s : State) : Out :=
  .next <| s.onGroup g fun s =>
    let x := s.grp.splits.get k
    match x.st with
    | .asleep d t _ =>
      if x.held || s.grp.isEmpty (.s d) then s
      else match x.woke with
        | some 0 => s.wake k 0
        | some _ => s
        | none => if t.toNat ≤ s.time.toNat then s.wake k 0 else s
    | _ => s

/-- A sleep ends at one of its events (05 R80). -/
def execSleepEventWake (g : GroupRef) (k : BitVec 2) (s : State) : Out :=
  .next <| s.onGroup g fun s =>
    let x := s.grp.splits.get k
    match x.st, x.woke with
    | .asleep d _ _, some v => if x.held || v = 0 || s.grp.isEmpty (.s d) then s else s.wake k v
    | _, _ => s

end Sys2Proof.Machine
end

