-- ==== Sys2Proof/Machine/Scalar.lean ====
section
/-!
DEFINITION. Sys2Proof/Machine/Scalar.lean: scalar instructions and special registers (05 R81, R82, 04 R53, R54).
-/

namespace Sys2Proof.Machine

/-- A scalar instruction: sD receives a value, the split goes on (05 R81). -/
def State.scalar (s : State) (u : Use) (d : BitVec 6) (f : State → W64) : State :=
  s.issue u fun s => (s.writeS d (f s)).advance

/-- A scalar instruction of two sources. -/
def State.scalar2 (s : State) (d a b : BitVec 6) (x y : BitVec 1) (f : W64 → W64 → W64) : State :=
  s.scalar (suse d [(a, x), (b, y)]) d fun s => f (s.readS a) (s.readS b)

/-- A scalar instruction of one source. -/
def State.scalar1 (s : State) (d a : BitVec 6) (x : BitVec 1) (f : W64 → W64) : State :=
  s.scalar (suse d [(a, x)]) d fun s => f (s.readS a)

/-- Bits [127:64] of the signed product. -/
def mulHigh (a b : W64) : W64 := BitVec.ofInt 64 (a.toInt * b.toInt / (2 : Int) ^ 64)

/-- The shift count of a scalar shift: bits [5:0]. -/
def shiftCount (b : W64) : Nat := (field b 0 6).toNat

def execSadd (d a b : BitVec 6) (x y : BitVec 1) (s : State) : Out := .next (s.scalar2 d a b x y fun p q => p + q)
def execSsub (d a b : BitVec 6) (x y : BitVec 1) (s : State) : Out := .next (s.scalar2 d a b x y fun p q => p - q)
def execSmul (d a b : BitVec 6) (x y : BitVec 1) (s : State) : Out := .next (s.scalar2 d a b x y fun p q => p * q)
def execSmulh (d a b : BitVec 6) (x y : BitVec 1) (s : State) : Out := .next (s.scalar2 d a b x y mulHigh)
def execSand (d a b : BitVec 6) (x y : BitVec 1) (s : State) : Out := .next (s.scalar2 d a b x y fun p q => p &&& q)
def execSor (d a b : BitVec 6) (x y : BitVec 1) (s : State) : Out := .next (s.scalar2 d a b x y fun p q => p ||| q)
def execSxor (d a b : BitVec 6) (x y : BitVec 1) (s : State) : Out := .next (s.scalar2 d a b x y fun p q => p ^^^ q)
def execSshl (d a b : BitVec 6) (x y : BitVec 1) (s : State) : Out :=
  .next (s.scalar2 d a b x y fun p q => p <<< shiftCount q)
def execSshr (d a b : BitVec 6) (x y : BitVec 1) (s : State) : Out :=
  .next (s.scalar2 d a b x y fun p q => p >>> shiftCount q)
def execSsra (d a b : BitVec 6) (x y : BitVec 1) (s : State) : Out :=
  .next (s.scalar2 d a b x y fun p q => p.sshiftRight (shiftCount q))
def execSmin (d a b : BitVec 6) (x y : BitVec 1) (s : State) : Out :=
  .next (s.scalar2 d a b x y fun p q => if p.slt q then p else q)
def execSmax (d a b : BitVec 6) (x y : BitVec 1) (s : State) : Out :=
  .next (s.scalar2 d a b x y fun p q => if p.slt q then q else p)
def execSslt (d a b : BitVec 6) (x y : BitVec 1) (s : State) : Out :=
  .next (s.scalar2 d a b x y fun p q => if p.slt q then 1 else 0)
def execSseq (d a b : BitVec 6) (x y : BitVec 1) (s : State) : Out :=
  .next (s.scalar2 d a b x y fun p q => if p = q then 1 else 0)
def execSpop (d a : BitVec 6) (x : BitVec 1) (s : State) : Out :=
  .next (s.scalar1 d a x fun p => BitVec.ofNat 64 (popCount p))
def execSclz (d a : BitVec 6) (x : BitVec 1) (s : State) : Out :=
  .next (s.scalar1 d a x fun p => BitVec.ofNat 64 (clzOf p))
def execSffs (d a : BitVec 6) (x : BitVec 1) (s : State) : Out :=
  .next (s.scalar1 d a x fun p => BitVec.ofNat 64 (lowestBit p))

/-- `saddi` (05 R82). -/
def execSaddi (d a : BitVec 6) (i : BitVec 13) (s : State) : Out := .next (s.scalar1 d a 0 fun p => p + i.signExtend 64)

/-- `sli` (05 R82). -/
def execSli (d : BitVec 6) (i : BitVec 18) (s : State) : Out :=
  .next (s.scalar (suse d []) d fun _ => i.signExtend 64)

/-- `sli.hi` (05 R82). -/
def execSliHi (d : BitVec 6) (i : BitVec 18) (s : State) : Out :=
  .next (s.scalar (suse d [(d, 0)]) d fun s => (s.readS d <<< 18) ||| i.setWidth 64)

/-! ## Special registers (04 R53, R54) -/

/-- The cycle counter of the core in focus (04 R53). -/
def State.cycle (s : State) : W64 := s.cycles - s.lost.get s.gang.die.toNat - s.coreStart.get (128 * s.gang.die.toNat + s.gang.core.toNat)

/-- The value of special register n. -/
def State.special (s : State) (n : BitVec 5) : W64 :=
  match n.toNat with
  | 1 => s.grp.idx.setWidth 64
  | 2 => s.k.setWidth 64
  | 3 => s.gang.idx.setWidth 64
  | 4 => (match s.gang.band with | some b => b | none => BitVec.allOnes 32).setWidth 64
  | 5 => s.gang.launch.setWidth 64
  | 6 => s.gang.seq
  | 7 => BitVec.ofNat 64 s.width
  | 8 => s.grp.live
  | 9 => s.gang.core.setWidth 64
  | 10 => s.gang.die.setWidth 64
  | 11 => s.device.setWidth 64
  | 12 => s.time
  | 13 => s.cycle
  | 14 => s.grp.tsf
  | 15 => s.grp.aef
  | 16 => (s.ctx s.gang.vf).ctxErr
  | 17 => s.gang.tvec
  | 18 => s.grp.tracectl
  | _ => 0

/-- `rdsr sD` (04 R54). -/
def execRdsr (d : BitVec 6) (n : BitVec 5) (s : State) : Out :=
  .next (s.scalar (suse d []) d fun s => s.special n)

/-- `rdsr vD, LANE` (04 R54): its lane index into each active lane. -/
def execRdsrLane (d : BitVec 7) (s : State) : Out :=
  .next <| s.issue { writes := [.v d.toNat] } fun s => (s.writeV d.toNat fun l => BitVec.ofNat 32 l).advance

/-- Bits of TSF that hold flags (11 R191); AEF and TRACECTL likewise (10 R170, 22 R347). -/
def tsfMask : W64 := 3
def aefMask : W64 := 0x3F
def traceMask : W64 := 0xFF0F

/-- A writable special register replaced (04 R54). -/
def State.setSpecial (s : State) (n : BitVec 5) (v : W64) : State :=
  match n.toNat with
  | 14 => { s with grp := { s.grp with tsf := v &&& tsfMask } }
  | 15 => { s with grp := { s.grp with aef := v &&& aefMask } }
  | 16 => s.updCtx s.gang.vf fun c => { c with ctxErr := 0, errPc := 0, errLaunch := 0 }
  | 17 => { s with gang := { s.gang with tvec := v &&& ~~~3 } }
  | 18 =>
    let on := v.getLsbD 0 && !s.grp.tracectl.getLsbD 0
    let s := if !v.getLsbD 0 then (if s.tracing then s.flushBits else s) else s
    { s with grp := { s.grp with
      tracectl := v &&& traceMask, syncDue := on || s.grp.syncDue, quiet := on || (s.grp.quiet && v.getLsbD 0), brCount := if on then 0 else s.grp.brCount
      tsAt := if on then s.cycles else s.grp.tsAt } }
  | _ => s

/-- `wrsr` (04 R54). -/
def execWrsr (a : BitVec 6) (n : BitVec 5) (s : State) : Out :=
  .next <| s.issue { reads := [(.s a, false)] } fun s => (s.setSpecial n (s.readS a)).advance

end Sys2Proof.Machine
end

