-- ==== Sys2Proof/Machine/Vector.lean ====
section
/-!
DEFINITION. Sys2Proof/Machine/Vector.lean: mask and compare, the vector ALU, immediate forms and moves (05 R83 to R92).
-/

namespace Sys2Proof.Machine

/-! ## Compare (05 R83) -/

/-- The order of two elements of a type; none where unordered. -/
def cmpElem (t : BitVec 5) (ftz : Bool) (a b : Nat) : Option Ordering :=
  if isFloat t then FV.cmp ((fmtOf t).read ftz a) ((fmtOf t).read ftz b)
  else some (compare (intVal t a) (intVal t b))

/-- What a comparison needs. -/
def cmpUse (t : BitVec 5) (d : BitVec 6) (a b : BitVec 7) (x y : BitVec 1) : Use :=
  { ok := pairOk t a && pairOk t b, writes := [.s d]
    reads := (vregs t a).map (fun r => (r, x == 1)) ++ (vregs t b).map fun r => (r, y == 1) }

/-- The active lanes whose relation holds. -/
def State.related (s : State) (a b : BitVec 7) (rel : Option Ordering → Bool) : Mask :=
  maskOf (s.lanes.filter fun l => rel (cmpElem s.ty s.ftz (s.lane s.ty a l) (s.lane s.ty b l)))

/-- A comparison: bit L of sD for each active lane whose relation holds. -/
def State.compare (s : State) (d : BitVec 6) (a b : BitVec 7) (x y : BitVec 1) (rel : Option Ordering → Bool) : State :=
  s.typed accWide (cmpUse s.ty d a b x y) fun s => (s.writeS d (s.related a b rel)).advance

def execVcmpEq (d : BitVec 6) (a b : BitVec 7) (x y : BitVec 1) (s : State) : Out :=
  .next (s.compare d a b x y fun o => o == some .eq)
def execVcmpNe (d : BitVec 6) (a b : BitVec 7) (x y : BitVec 1) (s : State) : Out :=
  .next (s.compare d a b x y fun o => o != some .eq)
def execVcmpLt (d : BitVec 6) (a b : BitVec 7) (x y : BitVec 1) (s : State) : Out :=
  .next (s.compare d a b x y fun o => o == some .lt)
def execVcmpLe (d : BitVec 6) (a b : BitVec 7) (x y : BitVec 1) (s : State) : Out :=
  .next (s.compare d a b x y fun o => o == some .lt || o == some .eq)
def execVcmpUn (d : BitVec 6) (a b : BitVec 7) (x y : BitVec 1) (s : State) : Out :=
  .next (s.compare d a b x y fun o => o.isNone)

/-! ## Masks (05 R84): bits at and above the width are written as zero (04 R41) -/

def execMand (d a b : BitVec 6) (x y : BitVec 1) (s : State) : Out :=
  .next (s.scalar2 d a b x y fun p q => p &&& q &&& s.wmask)
def execMor (d a b : BitVec 6) (x y : BitVec 1) (s : State) : Out :=
  .next (s.scalar2 d a b x y fun p q => (p ||| q) &&& s.wmask)
def execMxor (d a b : BitVec 6) (x y : BitVec 1) (s : State) : Out :=
  .next (s.scalar2 d a b x y fun p q => (p ^^^ q) &&& s.wmask)
def execMnot (d a : BitVec 6) (x : BitVec 1) (s : State) : Out :=
  .next (s.scalar1 d a x fun p => ~~~p &&& s.wmask)
def execMlive (d : BitVec 6) (s : State) : Out :=
  .next (s.scalar (suse d []) d fun s => s.grp.live &&& s.wmask)

/-- `mexpand` (05 R84). -/
def execMexpand (d : BitVec 7) (a : BitVec 6) (x : BitVec 1) (s : State) : Out :=
  .next <| s.issue { reads := [(.s a, x == 1)], writes := [.v d.toNat] } fun s =>
    (s.writeV d.toNat fun l => if (s.readS a).getLsbD l then BitVec.allOnes 32 else 0).advance

/-! ## The vector ALU (05 R85 to R90): each function takes the elements of its sources in order A, B, D -/

/-- Modes and type of a typed operation. -/
structure Alu where
  t : BitVec 5
  rm : BitVec 2
  ftz : Bool
  sat : Bool
  deriving DecidableEq, Repr

/-- The modes of the executing split. -/
def State.alu (s : State) : Alu := { t := s.ty, rm := s.rm, ftz := s.ftz, sat := s.sat }

/-- Element k of the sources. -/
def arg (l : List Nat) (k : Nat) : Nat := (l[k]?).getD 0

/-- Width of an element. -/
def Alu.w (m : Alu) : Nat := typeBits m.t

/-- Integer or float arithmetic of two elements. -/
def Alu.arith (m : Alu) (i : Int → Int → Int) (f : Fmt → BitVec 2 → Bool → Nat → Nat → Res) (l : List Nat) : Res :=
  if isFloat m.t then f (fmtOf m.t) m.rm m.ftz (arg l 0) (arg l 1)
  else .quiet (intRes m.sat m.t (i (intVal m.t (arg l 0)) (intVal m.t (arg l 1))))

def Alu.add (m : Alu) : List Nat → Res := m.arith (· + ·) Fmt.add
def Alu.sub (m : Alu) : List Nat → Res := m.arith (· - ·) Fmt.sub
def Alu.mul (m : Alu) : List Nat → Res := m.arith (· * ·) Fmt.mul

/-- min and max (05 R86). -/
def Alu.minmax (m : Alu) (wantMax : Bool) (l : List Nat) : Res :=
  let a := arg l 0
  let b := arg l 1
  if isFloat m.t then .quiet ((fmtOf m.t).minmax m.ftz wantMax a b)
  else if intVal m.t a < intVal m.t b then .quiet (if wantMax then b else a) else .quiet (if wantMax then a else b)

/-- fma, fms and fnma: sign of the product, sign of d (05 R86). -/
def Alu.fma (m : Alu) (negProd negAdd : Bool) (l : List Nat) : Res :=
  let a := arg l 0
  let b := arg l 1
  let d := arg l 2
  if isFloat m.t then (fmtOf m.t).fma m.rm m.ftz negProd negAdd a b d
  else
    let p := intVal m.t a * intVal m.t b
    let z := intVal m.t d
    .quiet (intRes m.sat m.t ((if negProd then -p else p) + (if negAdd then -z else z)))

/-- mulh (05 R89). -/
def Alu.mulh (m : Alu) (l : List Nat) : Res :=
  .quiet (wrapInt m.w (intVal m.t (arg l 0) * intVal m.t (arg l 1) / ((2 ^ m.w : Nat) : Int)))

/-- div (05 R87). -/
def Alu.div (m : Alu) (l : List Nat) : Res :=
  let a := arg l 0
  let b := arg l 1
  if isFloat m.t then (fmtOf m.t).div m.rm m.ftz a b
  else if b = 0 then ⟨2 ^ m.w - 1, Rep.divZero⟩
  else .quiet (intRes m.sat m.t ((intVal m.t a).tdiv (intVal m.t b)))

/-- rem (05 R87). -/
def Alu.rem (m : Alu) (l : List Nat) : Res :=
  let a := arg l 0
  let b := arg l 1
  if b = 0 then ⟨a, Rep.divZero⟩ else .quiet (wrapInt m.w ((intVal m.t a).tmod (intVal m.t b)))

/-- abs and neg: the sign bit of floats, R69 on integers (05 R88). -/
def Alu.abs (m : Alu) (l : List Nat) : Res :=
  if isFloat m.t then .quiet (arg l 0 % 2 ^ (m.w - 1))
  else .quiet (intRes m.sat m.t ((intVal m.t (arg l 0)).natAbs : Int))
def Alu.neg (m : Alu) (l : List Nat) : Res :=
  if isFloat m.t then .quiet ((arg l 0 + 2 ^ (m.w - 1)) % 2 ^ m.w)
  else .quiet (intRes m.sat m.t (-(intVal m.t (arg l 0))))

/-- rnd: integers are copied (05 R88). -/
def Alu.rnd (m : Alu) (l : List Nat) : Res :=
  if isFloat m.t then (fmtOf m.t).rnd m.rm m.ftz (arg l 0) else .quiet (arg l 0)

/-- A bit operation on elements (05 R89). -/
def Alu.bits (m : Alu) (f : BitVec m.w → BitVec m.w → BitVec m.w) (l : List Nat) : Res :=
  .quiet (f (BitVec.ofNat m.w (arg l 0)) (BitVec.ofNat m.w (arg l 1))).toNat

/-- Shift counts are taken modulo the width. -/
def Alu.count (m : Alu) (b : BitVec m.w) : Nat := b.toNat % m.w

def Alu.not (m : Alu) : List Nat → Res := m.bits fun a _ => ~~~a
def Alu.and (m : Alu) : List Nat → Res := m.bits fun a b => a &&& b
def Alu.or (m : Alu) : List Nat → Res := m.bits fun a b => a ||| b
def Alu.xor (m : Alu) : List Nat → Res := m.bits fun a b => a ^^^ b
def Alu.shl (m : Alu) : List Nat → Res := m.bits fun a b => a <<< m.count b
def Alu.shr (m : Alu) : List Nat → Res := m.bits fun a b => a >>> m.count b
def Alu.sra (m : Alu) : List Nat → Res := m.bits fun a b => a.sshiftRight (m.count b)
def Alu.rol (m : Alu) : List Nat → Res := m.bits fun a b => a.rotateLeft (m.count b)
def Alu.popc (m : Alu) : List Nat → Res := m.bits fun a _ => BitVec.ofNat m.w (popCount a)
def Alu.clz (m : Alu) : List Nat → Res := m.bits fun a _ => BitVec.ofNat m.w (clzOf a)
def Alu.brev (m : Alu) : List Nat → Res := m.bits fun a _ => a.reverse

/-- Offset and length of a bit field: bits [7:0] and [15:8] of b, the length cut at the width (05 R90). -/
def Alu.span (m : Alu) (b : Nat) : Nat × Nat :=
  let o := b % 256
  let n := b / 256 % 256
  (o, if m.w < o + n then m.w - o else n)

/-- bfe (05 R90). -/
def Alu.bfe (m : Alu) (l : List Nat) : Res :=
  let (o, n) := m.span (arg l 1)
  if m.w ≤ o || n = 0 then .quiet 0
  else
    let x := arg l 0 / 2 ^ o % 2 ^ n
    .quiet (if isInt m.t && 2 ^ (n - 1) ≤ x then 2 ^ m.w - 2 ^ n + x else x)

/-- bfi (05 R90). -/
def Alu.bfi (m : Alu) (l : List Nat) : Res :=
  let (o, n) := m.span (arg l 1)
  let d := arg l 2
  if m.w ≤ o || n = 0 then .quiet d
  else .quiet (d - d / 2 ^ o % 2 ^ n * 2 ^ o + arg l 0 % 2 ^ n * 2 ^ o)

/-! ## Forms -/

/-- Two sources. -/
def State.vec2 (s : State) (acc : BitVec 5 → Bool) (d a b : BitVec 7) (x y : BitVec 1) (f : Alu → List Nat → Res) : State :=
  s.typed acc (vuse s.ty d [(a, x), (b, y)] false) fun s => s.vecOp s.ty d [a, b] (f s.alu)

/-- Two sources and D, read. -/
def State.vec3 (s : State) (acc : BitVec 5 → Bool) (d a b : BitVec 7) (x y : BitVec 1) (f : Alu → List Nat → Res) : State :=
  s.typed acc (vuse s.ty d [(a, x), (b, y)] true) fun s => s.vecOp s.ty d [a, b, d] (f s.alu)

/-- One source. -/
def State.vec1 (s : State) (acc : BitVec 5 → Bool) (d a : BitVec 7) (x : BitVec 1) (f : Alu → List Nat → Res) : State :=
  s.typed acc (vuse s.ty d [(a, x)] false) fun s => s.vecOp s.ty d [a] (f s.alu)

/-- One source and a signed immediate (05 R91). -/
def State.vecI (s : State) (d a : BitVec 7) (w : BitVec 1) (i : BitVec 10) (f : Alu → List Nat → Res) : State :=
  s.typed accInt (vuse s.ty d [(a, w)] false) fun s =>
    s.vecOp s.ty d [a] fun l => f s.alu (l ++ [immElem s.ty i])

/-- One source and the number an immediate stands for, the exact result under R69 (05 R91). -/
def State.vecNum (s : State) (d a : BitVec 7) (w : BitVec 1) (i : BitVec 10) (f : Int → Int → Int) : State :=
  s.typed accInt (vuse s.ty d [(a, w)] false) fun s =>
    s.vecOp s.ty d [a] fun l => .quiet (intRes s.sat s.ty (f (intVal s.ty (arg l 0)) (immVal s.ty i)))

def execAdd (d a b : BitVec 7) (x y : BitVec 1) (s : State) : Out := .next (s.vec2 accAll d a b x y Alu.add)
def execSub (d a b : BitVec 7) (x y : BitVec 1) (s : State) : Out := .next (s.vec2 accAll d a b x y Alu.sub)
def execMin (d a b : BitVec 7) (x y : BitVec 1) (s : State) : Out := .next (s.vec2 accAll d a b x y fun m => m.minmax false)
def execMax (d a b : BitVec 7) (x y : BitVec 1) (s : State) : Out := .next (s.vec2 accAll d a b x y fun m => m.minmax true)
def execMul (d a b : BitVec 7) (x y : BitVec 1) (s : State) : Out := .next (s.vec2 accAll d a b x y Alu.mul)
def execMulh (d a b : BitVec 7) (x y : BitVec 1) (s : State) : Out := .next (s.vec2 accInt d a b x y Alu.mulh)
def execDiv (d a b : BitVec 7) (x y : BitVec 1) (s : State) : Out := .next (s.vec2 accWide d a b x y Alu.div)
def execRem (d a b : BitVec 7) (x y : BitVec 1) (s : State) : Out := .next (s.vec2 accWideInt d a b x y Alu.rem)
def execFma (d a b : BitVec 7) (x y : BitVec 1) (s : State) : Out := .next (s.vec3 accAll d a b x y fun m => m.fma false false)
def execFms (d a b : BitVec 7) (x y : BitVec 1) (s : State) : Out := .next (s.vec3 accAll d a b x y fun m => m.fma false true)
def execFnma (d a b : BitVec 7) (x y : BitVec 1) (s : State) : Out := .next (s.vec3 accAll d a b x y fun m => m.fma true false)
def execAbs (d a : BitVec 7) (x : BitVec 1) (s : State) : Out := .next (s.vec1 accAll d a x Alu.abs)
def execNeg (d a : BitVec 7) (x : BitVec 1) (s : State) : Out := .next (s.vec1 accAll d a x Alu.neg)
def execRnd (d a : BitVec 7) (x : BitVec 1) (s : State) : Out := .next (s.vec1 accAll d a x Alu.rnd)
def execNot (d a : BitVec 7) (x : BitVec 1) (s : State) : Out := .next (s.vec1 accInt d a x Alu.not)
def execAnd (d a b : BitVec 7) (x y : BitVec 1) (s : State) : Out := .next (s.vec2 accInt d a b x y Alu.and)
def execOr (d a b : BitVec 7) (x y : BitVec 1) (s : State) : Out := .next (s.vec2 accInt d a b x y Alu.or)
def execXor (d a b : BitVec 7) (x y : BitVec 1) (s : State) : Out := .next (s.vec2 accInt d a b x y Alu.xor)
def execShl (d a b : BitVec 7) (x y : BitVec 1) (s : State) : Out := .next (s.vec2 accInt d a b x y Alu.shl)
def execShr (d a b : BitVec 7) (x y : BitVec 1) (s : State) : Out := .next (s.vec2 accInt d a b x y Alu.shr)
def execSra (d a b : BitVec 7) (x y : BitVec 1) (s : State) : Out := .next (s.vec2 accInt d a b x y Alu.sra)
def execRol (d a b : BitVec 7) (x y : BitVec 1) (s : State) : Out := .next (s.vec2 accInt d a b x y Alu.rol)
def execPopc (d a : BitVec 7) (x : BitVec 1) (s : State) : Out := .next (s.vec1 accInt d a x Alu.popc)
def execClz (d a : BitVec 7) (x : BitVec 1) (s : State) : Out := .next (s.vec1 accInt d a x Alu.clz)
def execBrev (d a : BitVec 7) (x : BitVec 1) (s : State) : Out := .next (s.vec1 accInt d a x Alu.brev)
def execBfe (d a b : BitVec 7) (x y : BitVec 1) (s : State) : Out := .next (s.vec2 accWideInt d a b x y Alu.bfe)
def execBfi (d a b : BitVec 7) (x y : BitVec 1) (s : State) : Out := .next (s.vec3 accWideInt d a b x y Alu.bfi)

def execAddI (d a : BitVec 7) (w : BitVec 1) (i : BitVec 10) (s : State) : Out := .next (s.vecNum d a w i (· + ·))
def execMulI (d a : BitVec 7) (w : BitVec 1) (i : BitVec 10) (s : State) : Out := .next (s.vecNum d a w i (· * ·))
def execAndI (d a : BitVec 7) (w : BitVec 1) (i : BitVec 10) (s : State) : Out := .next (s.vecI d a w i Alu.and)
def execOrI (d a : BitVec 7) (w : BitVec 1) (i : BitVec 10) (s : State) : Out := .next (s.vecI d a w i Alu.or)
def execXorI (d a : BitVec 7) (w : BitVec 1) (i : BitVec 10) (s : State) : Out := .next (s.vecI d a w i Alu.xor)
def execShlI (d a : BitVec 7) (w : BitVec 1) (i : BitVec 10) (s : State) : Out := .next (s.vecI d a w i Alu.shl)
def execShrI (d a : BitVec 7) (w : BitVec 1) (i : BitVec 10) (s : State) : Out := .next (s.vecI d a w i Alu.shr)
def execSraI (d a : BitVec 7) (w : BitVec 1) (i : BitVec 10) (s : State) : Out := .next (s.vecI d a w i Alu.sra)

/-! ## Moves (05 R92) -/

/-- What each active lane raises in a move: nothing. -/
def State.noReps (s : State) : List (Nat × Rep) := s.lanes.map fun l => (l, Rep.none)

/-- `sel` (05 R92). -/
def execSel (d a : BitVec 7) (b : BitVec 6) (x y : BitVec 1) (s : State) : Out :=
  .next <| s.issue { reads := [(.v a.toNat, x == 1), (.s b, y == 1)], writes := [.v d.toNat] } fun s =>
    let out := (s.lanes.filter fun l => (s.readS b).getLsbD l).map fun l => (l, s.grp.vreg a.toNat l)
    ({ s with grp := s.grp.putV d.toNat out }).finish s.noReps

/-- `mov` (05 R92): the pair under the 64-bit types. -/
def execMov (d a : BitVec 7) (x : BitVec 1) (s : State) : Out :=
  .next <| s.issue (vuse s.ty d [(a, x)] false) fun s =>
    (s.writeLanes s.ty d (s.lanes.map fun l => (l, s.lane s.ty a l))).finish s.noReps

/-- `movs` (05 R92). -/
def execMovs (d : BitVec 7) (a : BitVec 6) (x : BitVec 1) (s : State) : Out :=
  .next <| s.issue { ok := pairOk s.ty d, reads := [(.s a, x == 1)], writes := vregs s.ty d } fun s =>
    (s.writeLanes s.ty d (s.lanes.map fun l => (l, (s.readS a).toNat))).finish s.noReps

/-- `lid` (05 R92). -/
def execLid (d : BitVec 7) (s : State) : Out :=
  .next <| s.issue { writes := [.v d.toNat] } fun s =>
    (s.writeV d.toNat fun l => BitVec.ofNat 32 l).finish s.noReps

/-- `li` (05 R92). -/
def execLi (d : BitVec 7) (i : BitVec 18) (s : State) : Out :=
  .next <| s.issue { writes := [.v d.toNat] } fun s =>
    (s.writeV d.toNat fun _ => i.signExtend 32).finish s.noReps

end Sys2Proof.Machine
end

