-- ==== Sys2Proof/Machine/Convert.lean ====
section
/-!
DEFINITION. Sys2Proof/Machine/Convert.lean: conversion, packing and the special functions (05 R93 to R98).
-/

namespace Sys2Proof.Machine

/-! ## Conversion (05 R93, R94) -/

/-- The narrow types, which take no part in FTZ (10 R169). -/
def isNarrow (t : BitVec 5) : Bool := 12 ≤ t.toNat

/-- The value of an element of any type from 0 to 17 (10 R163 to R166). -/
def typeValue (t : BitVec 5) (ftz : Bool) (x : Nat) : FV :=
  if t.toNat ≤ 7 then
    let z := intVal t x
    .fin (z < 0) z.natAbs 0
  else if t = 17 then (if x = 255 then .nan else .fin false 1 ((x : Int) - 127))
  else (fmtOf t).read ftz x

/-- To an integer type. -/
def cvtInt (m : Alu) (v : FV) : Res :=
  let bad (z : Int) : Res := ⟨wrapInt m.w z, if m.sat then Rep.none else Rep.cvtInvalid⟩
  match v with
  | .nan => bad 0
  | .inf neg => bad (if neg then intMin m.t else intMax m.t)
  | .fin neg n e =>
    let (q, ix) := roundInt m.rm neg n e
    let z : Int := if neg then -(q : Int) else q
    if z < intMin m.t then bad (intMin m.t)
    else if intMax m.t < z then bad (intMax m.t)
    else ⟨wrapInt m.w z, if ix then Rep.inexact else Rep.none⟩

/-- An overflow of a conversion: the value under SAT = 0, and the largest finite value under SAT = 1. -/
def cvtOver (m : Alu) (f : Fmt) (neg : Bool) (open_ : Nat) : Res :=
  if m.sat then ⟨f.sign neg f.maxCode, Rep.quietOverflow⟩ else ⟨open_, Rep.overflow⟩

/-- To a float type. -/
def cvtFloat (m : Alu) (v : FV) : Res :=
  let f := fmtOf m.t
  let noInf := m.t == 12 || 14 ≤ m.t.toNat
  let noNan := 14 ≤ m.t.toNat
  -- what an overflow writes under SAT = 0
  let most (neg : Bool) : Nat :=
    if noNan then f.sign neg f.maxCode else if m.t = 12 then f.nanCode else f.sign neg (f.overflowCode m.rm neg)
  match v with
  | .nan => if noNan then ⟨0, if m.sat then Rep.none else Rep.cvtInvalid⟩ else .quiet f.nanCode
  | .inf neg => if noInf then cvtOver m f neg (most neg) else f.infinity neg
  | .fin neg n e =>
    if n != 0 && f.maxCode < (f.round m.rm neg n e false).code then cvtOver m f neg (most neg)
    else f.result m.rm m.ftz neg n e false

/-- To e8m0: the exponent of the magnitude, clamped. A non-zero magnitude below 2^-127 sets NX and not UF: e8m0 has no smallest normal
in 10 R164, and 05 R94 does not say whether it is tiny (log 61). -/
def cvtScale (v : FV) : Res :=
  match v with
  | .nan | .inf _ => ⟨255, Rep.cvtInvalid⟩
  | .fin neg n e =>
    if n = 0 then ⟨0, Rep.inexact⟩
    else
      let x : Int := e + n.log2
      let y := max (-127) (min 127 x)
      ⟨(y + 127).toNat, if neg || n != 2 ^ n.log2 || x != y then Rep.inexact else Rep.none⟩

/-- One conversion from type t of an element to m.t. -/
def convert (m : Alu) (t : BitVec 5) (x : Nat) : Res :=
  let m := { m with ftz := m.ftz && !isNarrow t && !isNarrow m.t }
  if t = m.t then
    (if 8 ≤ t.toNat && t != 17 && (fmtOf t).value x == .nan then .quiet (fmtOf t).nanCode else .quiet x)
  else if m.t.toNat ≤ 7 then
    (if t.toNat ≤ 7 then .quiet (intRes m.sat m.t (intVal t x)) else cvtInt m (typeValue t m.ftz x))
  else if m.t = 17 then cvtScale (typeValue t m.ftz x)
  else cvtFloat m (typeValue t m.ftz x)

/-- `cvt` (05 R93): one value per lane, from the low bits of the source to the low bits of the destination. -/
def execCvt (d a : BitVec 7) (w : BitVec 1) (t : BitVec 5) (s : State) : Out :=
  .next <|
    s.typed (fun ty => ty.toNat ≤ 17)
      { ok := pairOk t a && pairOk s.ty d, reads := (vregs t a).map fun r => (r, w == 1), writes := vregs s.ty d } fun s =>
      let out := s.lanes.map fun l => (l, convert s.alu t (s.lane t a l % 2 ^ typeBits t))
      (s.writeLanes s.ty d (out.map fun x => (x.1, x.2.val))).finish (out.map fun x => (x.1, x.2.rep))

/-! ## Packing (05 R95, R66) -/

/-- n consecutive vector registers. -/
def vrange (r n : Nat) : List Reg := (List.range n).map fun i => .v (r + i)

/-- Values of consecutive registers written in one lane. -/
def Group.putRange (l r : Nat) : List Nat → Group → Group
  | [], g => g
  | x :: t, g => Group.putRange l (r + 1) t (g.setV r l (BitVec.ofNat 32 x))

/-- n source registers of a lane repacked into k destination registers, every source read first. -/
def repackLanes (src : Group) (d a n : Nat) (f : List Nat → List Nat) : List Nat → Group → Group
  | [], g => g
  | l :: t, g =>
    repackLanes src d a n f t (g.putRange l d (f ((List.range n).map fun i => (src.vreg (a + i) l).toNat)))

/-- A packing instruction of n sources and k destinations. -/
def State.pack (s : State) (d a : BitVec 7) (x : BitVec 1) (n k : Nat) (ok : Bool) (f : List Nat → List Nat) : State :=
  s.issue { ok, reads := (vrange a.toNat n).map fun r => (r, x == 1), writes := vrange d.toNat k } fun s =>
    ({ s with grp := repackLanes s.grp d.toNat a.toNat n f s.lanes s.grp }).advance

/-- Words of 32 bits of a number. -/
def words (k x : Nat) : List Nat := (List.range k).map fun i => x / 2 ^ (32 * i) % 2 ^ 32
/-- Elements of w bits of a number. -/
def cut (w k x : Nat) : List Nat := (List.range k).map fun i => elem w x i

def execPk8 (d a : BitVec 7) (x : BitVec 1) (s : State) : Out := .next (s.pack d a x 4 1 true fun l => [joinElems 8 l])
def execUpk8 (d a : BitVec 7) (x : BitVec 1) (s : State) : Out := .next (s.pack d a x 1 4 true fun l => cut 8 4 (arg l 0))
def execPk4 (d a : BitVec 7) (x : BitVec 1) (s : State) : Out := .next (s.pack d a x 8 1 true fun l => [joinElems 4 l])
def execUpk4 (d a : BitVec 7) (x : BitVec 1) (s : State) : Out := .next (s.pack d a x 1 8 true fun l => cut 4 8 (arg l 0))
/-- `pk6`: 21 elements into a quadruple whose base is a multiple of 4. -/
def execPk6 (d a : BitVec 7) (x : BitVec 1) (s : State) : Out :=
  .next (s.pack d a x 21 4 (d.toNat % 4 == 0) fun l => words 4 (joinElems 6 l))
def execUpk6 (d a : BitVec 7) (x : BitVec 1) (s : State) : Out :=
  .next (s.pack d a x 4 21 (a.toNat % 4 == 0) fun l => cut 6 21 (joinElems 32 l))

/-! ## Special functions (05 R96, R97) -/

/-- f32 only. -/
def accF32 (t : BitVec 5) : Bool := t == 8
/-- f32 and f64. -/
def accF3264 (t : BitVec 5) : Bool := t == 8 || t == 9

/-- A special function of each lane's value. -/
def State.sfu (s : State) (acc : BitVec 5 → Bool) (d a : BitVec 7) (x : BitVec 1) (f : Fmt → BitVec 2 → Bool → FV → Res) :
    State :=
  s.vec1 acc d a x fun m l => f (fmtOf m.t) m.rm m.ftz ((fmtOf m.t).read m.ftz (arg l 0))

def execRcp (d a : BitVec 7) (x : BitVec 1) (s : State) : Out := .next (s.sfu accF3264 d a x rcpV)
def execRsq (d a : BitVec 7) (x : BitVec 1) (s : State) : Out := .next (s.sfu accF3264 d a x Fmt.rsqV)
def execSqrt (d a : BitVec 7) (x : BitVec 1) (s : State) : Out := .next (s.sfu accF3264 d a x Fmt.sqrtV)
def execExp2 (d a : BitVec 7) (x : BitVec 1) (s : State) : Out := .next (s.sfu accF32 d a x (expV true))
def execExp (d a : BitVec 7) (x : BitVec 1) (s : State) : Out := .next (s.sfu accF32 d a x (expV false))
def execLog2 (d a : BitVec 7) (x : BitVec 1) (s : State) : Out := .next (s.sfu accF32 d a x (logV true))
def execLog (d a : BitVec 7) (x : BitVec 1) (s : State) : Out := .next (s.sfu accF32 d a x (logV false))
def execSin2pi (d a : BitVec 7) (x : BitVec 1) (s : State) : Out := .next (s.sfu accF32 d a x (turnV false))
def execCos2pi (d a : BitVec 7) (x : BitVec 1) (s : State) : Out := .next (s.sfu accF32 d a x (turnV true))
def execTanh (d a : BitVec 7) (x : BitVec 1) (s : State) : Out := .next (s.sfu accF32 d a x (sigmoidV false))
def execErf (d a : BitVec 7) (x : BitVec 1) (s : State) : Out := .next (s.sfu accF32 d a x (sigmoidV true))

end Sys2Proof.Machine
end

