-- ==== Sys2Proof/Machine/Engine.lean ====
section
/-!
DEFINITION. Sys2Proof/Machine/Engine.lean: full/empty granules, copies and gathers, counters, barriers, fences, prefetch and
invalidation (06 R119 to R131).
-/

namespace Sys2Proof.Machine

/-! ## Granules (06 R122) -/

/-- No queued store or update of the group to gang memory is open: what granules are set by comes after them (08 R154). -/
def State.gmemSettled (s : State) : Bool :=
  s.grp.flight.all fun x => !x.op.queued || x.openAccs.all fun a => a.place != .gmem

/-- A granule within the allocation. -/
def State.granuleIn (s : State) (i : Nat) : Bool := 16 * i < s.alloc

/-- `fe.set` and `fe.clr`: n granules from the one that holds sA. -/
def State.granuleOp (s : State) (a : BitVec 6) (n : BitVec 11) (f : State → List Nat → State) : State :=
  s.issue { reads := [(.s a, false)], ready := s.gmemSettled } fun s =>
    let first := (s.readS a).toNat / 16
    let count := n.toNat + 1
    if !s.granuleIn (first + count - 1) then s.trapVa cGMEM_RANGE (s.readS a)
    else (f s ((List.range count).map (first + ·))).advance

/-- `fe.set`: granules made full. -/
def execFeSet (a : BitVec 6) (n : BitVec 11) (s : State) : Out := .next (s.granuleOp a n fun s l => s.fillGranules l)
/-- `fe.clr`: granules made empty. -/
def execFeClr (a : BitVec 6) (n : BitVec 11) (s : State) : Out :=
  .next (s.granuleOp a n fun s l => { s with gang := s.gang.setGranules 0 l })

/-- `fe.rd`: the bits of 64 granules; those beyond the allocation read as 0. -/
def execFeRd (d a : BitVec 6) (s : State) : Out :=
  .next <| s.issue { reads := [(.s a, false)], writes := [.s d], ready := s.gmemSettled } fun s =>
    let first := (s.readS a).toNat / 16
    (s.writeS d (maskOf ((List.range 64).filter fun i => s.granuleIn (first + i) && s.gang.full (first + i)))).advance

/-! ## Byte-counting barriers (06 R128, R129) -/

/-- A barrier operand: whether it lies in bank memory, and its address; or the cause it traps with (06 R128). It is tested before the
count of `bar.init` and `bar.exp`, where the spec gives no order (log 73). -/
def State.barOperand (s : State) (x : W64) : Chk (Bool × Nat) :=
  if field x 0 4 ≠ (0 : BitVec 4) then .error (cALIGN, x)
  else if x.getLsbD 63 then
    let a := (field x 0 29 : BitVec 29).toNat
    if field x 29 34 ≠ (0 : BitVec 34) || !s.bankHeld s.gang.vf a 16 then .error (cBANK_RANGE, x) else .ok (true, a)
  else if field x 19 44 ≠ (0 : BitVec 44) || s.alloc < x.toNat + 16 then .error (cGMEM_RANGE, x)
  else .ok (false, x.toNat)

/-- The 16 bytes of a barrier object. -/
def State.barrier (s : State) (b : Bool × Nat) : BitVec 128 :=
  BitVec.ofNat 128 (ofBytes (if b.1 then s.readBank (BitVec.ofNat 29 b.2) 16 else SMap.getRange s.gang.gmem b.2 16))

/-- A barrier object that lies in no line of its memory that cannot be corrected; else that line reported (23 R363). -/
def State.barrierRead (s : State) (b : Bool × Nat) : Option (List Byte) × State :=
  if b.1 then s.readBankLine (BitVec.ofNat 29 b.2) 16 else s.readGmem b.2 16

/-- A barrier object with its must-be-zero bits zero (00 R10). -/
def cleanBarrier (x : BitVec 128) : BitVec 128 := putField (putField x 97 (0 : BitVec 31)) 56 (0 : BitVec 8)

/-- A barrier object written. -/
def State.setBarrier (s : State) (b : Bool × Nat) (x : BitVec 128) : State :=
  let l := toBytes 16 (cleanBarrier x).toNat
  if b.1 then s.writeBank (BitVec.ofNat 29 b.2) l
  else { s with gang := { s.gang with gmem := SMap.setRange s.gang.gmem b.2 l } }

def barPending (x : BitVec 128) : BitVec 56 := field x 0 56
def barExpected (x : BitVec 128) : BitVec 16 := field x 64 16
def barArrived (x : BitVec 128) : BitVec 16 := field x 80 16
def barPhase (x : BitVec 128) : BitVec 1 := field x 96 1

/-- The phase is complete. -/
def barDone (x : BitVec 128) : Bool := barArrived x == barExpected x && barPending x == 0

/-- The next phase. -/
def barNext (x : BitVec 128) : BitVec 128 := putField (putField x 96 (~~~barPhase x)) 80 (0 : BitVec 16)

/-- Sleepers told of a phase: the gang's own for a barrier in gang memory, a band's for one in its region (05 R80). -/
def State.phaseEvent (s : State) (b : Bool × Nat) : State :=
  if !b.1 then s.mapGang (Group.event 1)
  else
    let in_ (x : Band) : Bool := x.resident && x.base.toNat ≤ b.2 && b.2 < x.base.toNat + x.bytes
    s.mapWhere (fun g => s.bands.any fun x => in_ x && x.holds g) (Group.event 1)

/-- A barrier object after an arrival, an expectation or a credit: a phase that is complete ends (06 R129). -/
def State.settleBarrier (s : State) (b : Bool × Nat) (x : BitVec 128) : State :=
  if barDone x then (s.setBarrier b (barNext x)).phaseEvent b else s.setBarrier b x

/-- Bytes credited to a barrier by the copy engine (06 R126); whether its object could be read, without which nothing is credited (23 R363). -/
def State.credit (s : State) (b : Bool × Nat) (n : Nat) : Bool × State :=
  if n = 0 then (true, s)
  else match s.barrierRead b with
    | (none, s) => (false, s)
    | (some l, s) =>
      let x : BitVec 128 := BitVec.ofNat 128 (ofBytes l)
      (true, s.settleBarrier b (putField x 0 (barPending x - BitVec.ofNat 56 n)))

/-- Every earlier access of the group on this module is performed, but for lanes that wait for full granules: an arrival
comes after them (08 R144, R150). -/
def State.settled (s : State) : Bool :=
  s.grp.flight.all fun x => !x.op.isMem ||
    x.openAccs.all fun a => a.remote || (x.op.waitsFull && !s.gang.served a)

/-- A barrier instruction on the operand in sA, which is tested before the instruction's count (log 73). -/
def State.barOp (s : State) (u : Use) (a : BitVec 6) (f : State → (Bool × Nat) → State) : State :=
  s.issue { u with ready := s.settled } fun s =>
    match s.barOperand (s.readS a) with
    | .error (c, va) => s.trapVa c va
    | .ok b => f s b

/-- What an instruction does with a barrier object that it reads: one in a line that cannot be corrected traps MEM_UNCORR, with no
effect (18 R299, 23 R363, log 77). -/
def State.withBarrier (s : State) (a : BitVec 6) (o : Bool × Nat) (f : State → BitVec 128 → State) : State :=
  match s.barrierRead o with
  | (none, s) => s.trapVa cMEM_UNCORR (s.readS a)
  | (some b, s) => f s (BitVec.ofNat 128 (ofBytes b))

/-- `bar.init` (06 R129). -/
def execBarInit (a b : BitVec 6) (x y : BitVec 1) (s : State) : Out :=
  .next <| s.barOp { reads := [(.s a, x == 1), (.s b, y == 1)] } a fun s o =>
    let n := s.readS b
    if n = 0 || 65535 < n.toNat then s.trap cBAR_VALUE
    else (s.setBarrier o (putField (0 : BitVec 128) 64 (n.setWidth 16))).advance

/-- `bar.exp` (06 R129). -/
def execBarExp (a b : BitVec 6) (x y : BitVec 1) (s : State) : Out :=
  .next <| s.barOp { reads := [(.s a, x == 1), (.s b, y == 1)] } a fun s o =>
    let n := s.readS b
    if 2 ^ 55 ≤ n.toNat then s.trap cBAR_VALUE
    else s.withBarrier a o fun s v => (s.settleBarrier o (putField v 0 (barPending v + n.setWidth 56))).advance

/-- `bar.arr` (06 R129): the phase, then one arrival. -/
def execBarArr (d a : BitVec 6) (x : BitVec 1) (s : State) : Out :=
  .next <| s.barOp { reads := [(.s a, x == 1)], writes := [.s d] } a fun s o =>
    s.withBarrier a o fun s v =>
      if barArrived v = barExpected v then s.trap cBAR_OVERARRIVE
      else ((s.settleBarrier o (putField v 80 (barArrived v + 1))).writeS d ((barPhase v).setWidth 64)).advance

/-- Whether `bar.wait` may go on: its operand is refused, its object cannot be read, or the phase has changed. -/
def State.barOpen (s : State) (a b : BitVec 6) : Bool :=
  match s.barOperand (s.readS a) with
  | .error _ => true
  | .ok o => (s.barrierRead o).1.isNone || barPhase (s.barrier o) != field (s.readS b) 0 1

/-- `bar.wait` (06 R129): blocks until the phase is no longer sB[0]. -/
def execBarWait (a b : BitVec 6) (x y : BitVec 1) (s : State) : Out :=
  .next <| s.issue { reads := [(.s a, x == 1), (.s b, y == 1)], ready := s.settled && s.barOpen a b,
                     barWait := if s.settled then some (s.readS a, field (s.readS b) 0 1) else none } fun s =>
    match s.barOperand (s.readS a) with
    | .error (c, va) => s.trapVa c va
    | .ok o => s.withBarrier a o fun s _ => s.advance

/-! ## Hardware barriers (06 R130, 03 R30) -/

/-- A group's arrival at a barrier of the gang with a mask of groups. -/
def State.arriveGang (s : State) (b : BitVec 4) (m : BitVec 32) : State :=
  let x := getBar s.gang.barriers b.toNat
  let alive := (s.grp :: s.peers).foldl (fun (w : BitVec 32) g => if g.alive then w ||| BitVec.ofNat 32 (2 ^ g.idx.toNat) else w) 0
  if !x.arrived.isEmpty && x.mask &&& alive ≠ m &&& alive then s.trap cMASK_DISAGREE
  else
    let y : SyncBar := { x with mask := m, arrived := (0, s.grp.idx) :: x.arrived }
    let s := s.waitIn (.atBarrier false b)
    ({ s with gang := { s.gang with barriers := setBar s.gang.barriers b.toNat y } }).checkBars

/-- A group's arrival at a barrier of its band with a mask of gangs by their places. -/
def State.arriveBand (s : State) (band : Band) (b : BitVec 4) (m : BitVec 32) : State :=
  let x := getBar band.barriers b.toNat
  let alive := (s.bandGangs band).foldl (fun (w : BitVec 32) r =>
    if r.groups.any Group.alive then w ||| BitVec.ofNat 32 (2 ^ r.gang.place) else w) 0
  if !x.arrived.isEmpty && x.mask &&& alive ≠ m &&& alive then s.trap cMASK_DISAGREE
  else
    let y : SyncBar := { x with mask := m, arrived := (BitVec.ofNat 5 s.gang.place, s.grp.idx) :: x.arrived }
    let s := s.waitIn (.atBarrier true b)
    (s.setBandBar band b.toNat y).checkBars

/-- `bar.sync` (06 R130): the group joins its splits, then arrives. Whether the group, or its gang, stands in its own mask is tested
at each split that reaches the instruction, on that split's sA, before it joins; the split that passes the join arrives with its sA:
the spec says neither when the test is made nor which sA counts (log 59). -/
def execBarSync (a : BitVec 6) (k : BitVec 1) (b : BitVec 4) (s : State) : Out :=
  .next <| s.issue { reads := [(.s a, false)], ready := s.settled } fun s =>
    if k = 0 then
      if !(s.readS a).getLsbD s.grp.idx.toNat then s.trap cMASK_OUTSIDE
      else s.joinThen s.grp.live false fun s => s.arriveGang b ((s.readS a).setWidth 32)
    else match s.myBand with
      | none => s.trap cREC_SPACE
      | some band =>
        let m : BitVec 32 := (s.readS a).setWidth 32 &&& BitVec.ofNat 32 (2 ^ s.gang.lrec.band.toNat - 1) &&& 0xFFFF
        if !m.getLsbD s.gang.place then s.trap cMASK_OUTSIDE
        else s.joinThen s.grp.live false fun s => s.arriveBand band b m

/-! ## Counters and fences (06 R124, R131) -/

/-- The counter of a class and tag. -/
def counterOf (c t : BitVec 2) : BitVec 3 :=
  match c.toNat with | 0 => t.setWidth 3 | 1 => 4 | 2 => 5 | _ => 6

/-- The page on which an operation of a class is held (18 R283). -/
def Group.heldCounted (g : Group) (cls : BitVec 3) : Option W64 :=
  (g.flight.find? fun e => e.held.isSome && g.counters.any fun c => c.cls == cls && c.id == e.id).bind (·.held)

/-- `waitc` (06 R124): blocks until the counter is at most n. -/
def execWaitc (c t : BitVec 2) (n : BitVec 8) (s : State) : Out :=
  .next <| s.issue { ready := s.grp.count (counterOf c t) ≤ n.toNat, park := s.grp.heldCounted (counterOf c t) } fun s => s.advance

/-- `cnt` (06 R124). -/
def execCnt (d : BitVec 6) (c t : BitVec 2) (s : State) : Out :=
  .next <| s.issue { writes := [.s d] } fun s =>
    (s.writeS d (BitVec.ofNat 64 (s.grp.count (counterOf c t)))).advance

/-- Every access of the group is performed. What a trap has put into the replay queue is no access in flight: a fence of the handler
does not wait for what only the handler's `rte` performs (log 74). -/
def State.drained (s : State) : Bool := s.grp.flight.all fun x => !x.op.isMem || x.openAccs.isEmpty

/-- `fence` (06 R131): at system scope it traps with what a refused remote store left (16 R263). -/
def execFence (sc : BitVec 3) (s : State) : Out :=
  .next <| s.issue { ready := s.drained, park := s.grp.heldStore } fun s =>
    if sc = 5 && s.grp.fabricErr ≠ 0 then
      ({ s with grp := { s.grp with fabricErr := 0 } }).trapVa s.grp.fabricErr s.grp.fabricVa
    else s.advance

/-! ## Prefetch and invalidation (06 R119) -/

/-- The pages that bytes [a, a + n) touch. -/
def pagesOf (a n : Nat) : List W64 :=
  if n = 0 then [] else (List.range ((a + n - 1) / 65536 - a / 65536 + 1)).map fun i => BitVec.ofNat 64 ((a / 65536 + i) * 65536)

/-- A page whose leaf may be read and is marked migrate on touch: its migration starts. -/
def State.startMigration (s : State) (va : W64) : State :=
  match s.tlbFind s.gang.vf s.coreId va, s.walkVa s.gang.vf s.coreId va with
  | none, .leaf l pte _ =>
    if field va 57 7 == (0 : BitVec 7) && pteR pte && (s.ctx s.gang.vf).keys.contains (pteKey pte) && pteMOT pte
    then s.postFault s.k 0 va (BitVec.ofNat 3 l) true 0 false else s
  | _, _ => s

/-- A prefetch of bytes of a record that the core holds: a hint, but that level 2 starts the migration of migrate-on-touch pages. -/
def State.prefetch (s : State) (r : W256) (off len : W64) (v : BitVec 2) : State :=
  let n := min len.toNat ((bufExtent r).toNat - off.toNat)
  if v = 2 && bufSpace r != 1 && bufSpace r != 2 && (bufBase r).toNat + off.toNat < 2 ^ 57 then
    ((pagesOf ((bufBase r).toNat + off.toNat) n).foldl State.startMigration s).advance
  else s.advance

/-- `pf` (06 R119): a shared record that the core holds no copy of is fetched, and where its fetch would fault, or waits for a change
still to be performed, the prefetch is dropped; a check of the record that fails traps (log 46). -/
def execPf (l a : BitVec 6) (v : BitVec 2) (n : BitVec 10) (s : State) : Out :=
  .next <| s.issue { reads := [(.s l, false), (.s a, false)] } fun s =>
    let go (t : State) : State :=
      match checkBuf (t.record n) (fun _ => true) anySpace false false with
      | some c => t.trap c
      | none => t.prefetch (t.record n) (t.readS a) (t.readS l) v
    match s.uncached { recs := [n] } with
    | none => go s
    | some n => match s.fetchRecord n with
      | .ok t => go t
      | .trap _ _ t => t.advance
      | .wait | .hold _ _ _ _ => s.advance

/-- `cinv` of a range (06 R119): no L1 line is held in the model (log 3). -/
def execCinv (l a : BitVec 6) (n : BitVec 10) (s : State) : Out :=
  .next <| s.issue { reads := [(.s l, false), (.s a, false)], recs := [n] } fun s =>
    match checkBuf (s.record n) (fun _ => true) anySpace false false with
    | some c => s.trap c
    | none => s.advance

/-- `cinv all` (06 R119). -/
def execCinvAll (s : State) : Out := .next (s.issue {} fun s => s.advance)

end Sys2Proof.Machine
end

