-- ==== Sys2Proof/Machine/Copies.lean ====
section
/-!
DEFINITION. Sys2Proof/Machine/Copies.lean: the asynchronous copies and gathers: issue, and the landing of their bytes and entries
(06 R120, R125 to R127, 16 R263, 18 R283, R286).
A copy's bytes are numbered 0 to n − 1, those of `cp.a` as 32 × lane + k; a gather's entries 0 to c − 1.
-/

namespace Sys2Proof.Machine

/-! ## Checks at issue -/

/-- The first failing check of n bytes at an offset of a record that an engine copies (06 R106, R107). -/
def State.rangeFault (s : State) (r : W256) (b n : Nat) : Option (BitVec 9 × W64) :=
  let base := (bufBase r).toNat
  let avail := s.alloc - base
  let limit := if bufSpace r == 1 then min (bufExtent r).toNat avail else (bufExtent r).toNat
  let at_ (x : Nat) : W64 := BitVec.ofNat 64 (base + x)
  let m := if bufBounds r = 3 then n else min n (limit - b)
  if n = 0 then none
  else if bufBounds r = 0 && limit < b + n then some (cBOUNDS, at_ (max b limit))
  else if bufBounds r = 3 && bufSpace r == 1 && avail < b + n then some (cGMEM_RANGE, at_ (max b avail))
  else if bufSpace r == 2 && m != 0 && (2 ^ 29 < base + b + m || !s.bankHeld s.gang.vf (base + b) m) then some (cBANK_RANGE, at_ b)
  else none

/-- The first failing check of several ranges. -/
def State.rangeFaults (s : State) (r : W256) : List (Nat × Nat) → Option (BitVec 9 × W64)
  | [] => none
  | (b, n) :: t => match s.rangeFault r b n with | some f => some f | none => State.rangeFaults s r t

/-- The checks of the two records of a copy: any format; the destination in the spaces allowed, and writable. The source is checked
first; the count of `cp.a` and `cp.b` and the barrier come after the records, the ranges last, where the spec gives no order
(log 73). -/
def checkPair (src dst : W256) (spaceOk : BitVec 3 → Bool) : Option (BitVec 9) :=
  match checkBuf src (fun _ => true) anySpace false false with
  | some c => some c
  | none => checkBuf dst (fun _ => true) spaceOk false true

/-- An engine operation issued: counted, and in flight. -/
def State.sendEngine (s : State) (e : Entry) (cls : BitVec 3) : State :=
  let s := { s with grp := (s.grp.bump).countOne cls e.id }
  (s.launchEntry e).advance

/-! ## Issue -/

/-- `cp.a` (06 R125). -/
def execCpA (v : BitVec 7) (r q : BitVec 8) (g : BitVec 2) (s : State) : Out :=
  .next <| s.issue { reads := (Dest.vec v.toNat 3).regs.map fun x => (x, false), ready := s.grp.room (g.setWidth 3) } fun s =>
    let src := s.record (r.setWidth 10)
    let dst := s.record (q.setWidth 10)
    match checkPair src dst gmemSpace with
    | some c => s.trap c
    | none =>
      let arg (i l : Nat) : Nat := (s.grp.vreg (v.toNat + i) l).toNat
      if s.lanes.any fun l => 32 < arg 2 l then s.trap cENGINE_VALUE
      else match (s.rangeFaults src (s.lanes.map fun l => (arg 0 l, arg 2 l))).or
          (s.rangeFaults dst (s.lanes.map fun l => (arg 1 l, 32))) with
        | some (c, va) => s.trapVa c va
        | none => s.sendEngine { s.newEntry (.cpA v r q g) .cpA with
            snaps := [src, dst], recs := [r.setWidth 10, q.setWidth 10]
            blocks := (List.range 3).map fun i => s.grp.block (v.toNat + i) } (g.setWidth 3)

/-- The scalar registers from a base. -/
def State.scalars (s : State) (v : BitVec 6) (n : Nat) : List W64 :=
  (List.range n).map fun i => s.readS (v + BitVec.ofNat 6 i)

/-- What an engine instruction on n scalar registers needs. -/
def scalUse (g : Group) (v : BitVec 6) (n : Nat) (ok : Bool) (cls : BitVec 3) : Use :=
  { ok := ok && v.toNat + n ≤ 64, ready := g.room cls
    reads := (List.range n).map fun i => (.s (v + BitVec.ofNat 6 i), false) }

/-- `cp.b` (06 R126). -/
def execCpB (v : BitVec 6) (r q : BitVec 8) (g : BitVec 2) (s : State) : Out :=
  .next <| s.issue (scalUse s.grp v 4 true (g.setWidth 3)) fun s =>
    let src := s.record (r.setWidth 10)
    let dst := s.record (q.setWidth 10)
    let arg (i : Nat) : W64 := s.readS (v + BitVec.ofNat 6 i)
    let n := (arg 2).toNat
    match checkPair src dst anySpace with
    | some c => s.trap c
    | none =>
      if 2 ^ 32 ≤ n then s.trap cENGINE_VALUE
      else match if arg 3 = BitVec.allOnes 64 then none
          else (match s.barOperand (arg 3) with | .error f => some f | .ok _ => none) with
        | some (c, va) => s.trapVa c va
        | none =>
          match (s.rangeFault src (arg 0).toNat n).or (s.rangeFault dst (arg 1).toNat n) with
          | some (c, va) => s.trapVa c va
          | none =>
            let e := { s.newEntry (.cpB v r q g) .cpB with
              snaps := [src, dst], recs := [r.setWidth 10, q.setWidth 10], scal := s.scalars v 4 }
            if n = 0 then
              let s := { s with grp := ((s.grp.bump).countOne (g.setWidth 3) e.id).complete e.id }
              s.advance
            else s.sendEngine e (g.setWidth 3)

/-- The checks of a gather's records (06 R127): index record, destination, data record. -/
def checkGather (idx dst data : W256) (tiles : Bool) : Option (BitVec 9) :=
  match checkBuf idx (fun f => f == 1) anySpace false false with
  | some c => some c
  | none => match checkBuf dst (fun _ => true) anySpace false true with
    | some c => some c
    | none => match checkBuf data (fun f => (esize f).isSome) anySpace false false with
      | some c => some c
      | none => if !tiles && (bufStride1 data).toInt < 1 then some cENGINE_VALUE else none

/-- `gth` (06 R127). Its count and the third word are checked before the records, the index record before the destination and that
before the data record, where the spec gives no order (log 73). -/
def execGth (v : BitVec 6) (i d : BitVec 8) (s : State) : Out :=
  .next <| s.issue { scalUse s.grp v 3 true 5 with recs := [field (s.readS (v + 2)) 0 10] } fun s =>
    let arg (j : Nat) : W64 := s.readS (v + BitVec.ofNat 6 j)
    let dn : BitVec 10 := field (arg 2) 0 10
    if 4096 < (arg 1).toNat || field (arg 2) 11 53 ≠ (0 : BitVec 53) then s.trap cENGINE_VALUE
    else
      let idx := s.record (i.setWidth 10)
      let dst := s.record (d.setWidth 10)
      let data := s.record dn
      match checkGather idx dst data ((arg 2).getLsbD 10) with
      | some c => s.trap c
      | none =>
        let e := { s.newEntry (.gth v i d) .gth with
          snaps := [idx, dst, data], recs := [i.setWidth 10, d.setWidth 10, dn], scal := s.scalars v 3 }
        if arg 1 = 0 then
          let s := { s with grp := ((s.grp.bump).countOne 5 e.id).complete e.id }
          s.advance
        else s.sendEngine e 5

/-! ## Bytes of a copy or gather -/

/-- One byte at an offset of a record, which a gather's strides may put below its base; CLAMP acts as ZERO
(06 R107, log 13). -/
def State.byteAcc (s : State) (r : W256) (b : Int) : Chk Acc :=
  let w : W64 := BitVec.ofInt 64 b
  if 0 ≤ b then
    match resolveByte s.alloc r b.toNat with
    | .error c => .error (c, bufBase r + w)
    | .ok o => s.accessAt r 0 1 b.toNat o
  else match (bufBounds r).toNat with
    | 0 => .error (cBOUNDS, bufBase r + w)
    | 3 =>
      if bufSpace r == 1 && (((bufBase r).toNat : Int) + b < 0 || (s.alloc : Int) ≤ ((bufBase r).toNat : Int) + b)
      then .error (cGMEM_RANGE, bufBase r + w)
      else s.accessAt r 0 1 w.toNat (some w.toNat)
    | _ => .ok { lane := 0, place := .nowhere, addr := bufBase r + w, n := 1, pa := 0, via := {} }

/-- Bytes of one gather entry (06 R127). -/
def Entry.entryBytes (e : Entry) : Nat :=
  let es := (esize (bufFmt (e.snap 2))).getD 1
  if (e.sc 2).getLsbD 10 then 4096 * es else (bufStride1 (e.snap 2)).toNat * es

/-- The parts an engine operation is made of: bytes of a copy, bytes of all entries of a gather. -/
def Entry.total (e : Entry) : Nat :=
  match e.op with
  | .cpA => 32 * 64
  | .cpB => (e.sc 2).toNat
  | _ => (e.sc 1).toNat * e.entryBytes

/-- Whether a part exists: bytes of active lanes only. -/
def Entry.exists_ (e : Entry) (p : Nat) : Bool :=
  p < e.total && (e.op != .cpA || e.active.getLsbD (p / 32))

/-- A part has landed. -/
def Entry.hasLanded (e : Entry) (p : Nat) : Bool := e.landed.any fun r => r.1 ≤ p && p < r.1 + r.2

/-- A part landed, joined to the range it follows. -/
def addLanded (p n : Nat) : List (Nat × Nat) → List (Nat × Nat)
  | (q, m) :: t => if q + m = p then (q, m + n) :: t else (p, n) :: (q, m) :: t
  | [] => [(p, n)]

/-- The offset in its record that byte p is written at. -/
def Entry.dstOff (e : Entry) (p : Nat) : Nat :=
  match e.op with
  | .cpA => (e.blk 1 (p / 32)).toNat + p % 32
  | .cpB => (e.sc 1).toNat + p
  | _ => p

/-- The offset in its record that byte p is read at, given a gather's index; none for the zero bytes of `cp.a`. -/
def Entry.srcOff (e : Entry) (x p : Nat) : Option Int :=
  match e.op with
  | .cpA => if p % 32 < (e.blk 2 (p / 32)).toNat then some ((e.blk 0 (p / 32)).toNat + p % 32 : Nat) else none
  | .cpB => some ((e.sc 0).toNat + p : Nat)
  | _ =>
    let es := (esize (bufFmt (e.snap 2))).getD 1
    let j := p % e.entryBytes
    if (e.sc 2).getLsbD 10 then
      let row := j / (64 * es)
      some (((x : Int) * (bufStride2 (e.snap 2)).toInt + (row : Int) * (bufStride1 (e.snap 2)).toInt) * (es : Int) +
        ((j % (64 * es) : Nat) : Int))
    else some ((x * e.entryBytes + j : Nat) : Int)

/-- A byte of `cp.a` that a higher active lane writes too (06 R125). -/
def Entry.byteCovered (e : Entry) (p : Nat) : Bool :=
  e.op == .cpA && (lanesOf e.active).any fun l =>
    p / 32 < l && (e.blk 1 l).toNat ≤ e.dstOff p && e.dstOff p < (e.blk 1 l).toNat + 32

/-- A byte of the destination that the operation has still to pass, by its offset in the record. -/
def Entry.owes (e : Entry) (off : Nat) : Bool :=
  match e.op with
  | .cpA => (lanesOf e.active).any fun l =>
      let d := (e.blk 1 l).toNat
      d ≤ off && off < d + 32 && !e.hasLanded (32 * l + (off - d))
  | .cpB =>
    let d := (e.sc 1).toNat
    d ≤ off && off < d + e.total && !e.hasLanded (off - d)
  | _ => off < e.total && !e.hasLanded off

/-- A byte of the destination lies in gang memory, dropped by no bound (06 R107). -/
def State.lands (s : State) (e : Entry) (off : Nat) : Bool :=
  match s.byteAcc (e.snap 1) (off : Nat) with
  | .ok d => d.place == .gmem
  | .error _ => false

/-- A granule of gang memory is set full when the last byte that the operation writes in it has landed (06 R120). -/
def State.granuleLanded (s : State) (e : Entry) (a : Acc) : State :=
  let base := (bufBase (e.snap 1)).toNat
  let first := 16 * (a.addr.toNat / 16)
  let due (i : Nat) : Bool := base ≤ first + i && e.owes (first + i - base) && s.lands e (first + i - base)
  if (List.range 16).any due then s else s.fillGranules [a.granule]

/-! ## Translation by an engine -/

/-- What an engine's access of one byte meets. -/
inductive Met where
  | at_ (a : Acc)
  | held
  | fault (c : BitVec 9) (va : W64)

/-- A page of the context on which a fault is outstanding holds every further access of an engine. -/
def State.outstanding (s : State) (va : W64) : Bool := s.faults.any fun f => f.vf == s.gang.vf && f.va == pageOf va

/-- The pages on which an operation is held. -/
def Entry.pages (e : Entry) : List W64 := e.held.toList ++ e.more

/-- An operation held on the pages of a list. -/
def Entry.onPages (e : Entry) (l : List W64) : Entry := { e with held := l.head?, more := l.tail }

/-- An engine operation about to try parts again: held on those pages whose faults are outstanding. -/
def State.retrying (s : State) (e : Entry) : Entry := e.onPages (e.pages.filter s.outstanding)

/-- One byte translated for an engine (18 R281 to R283). -/
def State.engineXlat (s : State) (e : Entry) (a : Acc) (w : Bool) (part : Nat) (src : BitVec 3) : Met × State :=
  if a.place ≠ .virt then (.at_ a, s)
  else if s.outstanding a.addr then (.held, s)
  else match s.translate s.gang.vf s.coreId a.addr (if w then .write else .read) with
    | (.ok pa m, s1) => (.at_ { a with pa, via := m }, s1)
    | (.replay l m, s1) =>
      if e.refused.contains (pageOf a.addr) then (.fault cFILL_REFUSED a.addr, s1)
      else (.held, s1.postFault e.split part a.addr l m src w)
    | (.trap c, s1) => (.fault c a.addr, s1)

/-- The first fault of an engine operation, taken when it completes (06 R127): its cause, the part, the address. -/
def Entry.faulted (e : Entry) (c : BitVec 9) (part : Nat) (va : W64) : Entry :=
  if e.err = 0 then { e with err := c, detail := BitVec.ofNat 64 part, va } else e

/-- A part held by a replayable fault. -/
def Entry.heldAt (e : Entry) (va : W64) (part : Nat) : Entry :=
  if e.pages.contains (pageOf va) then e
  else { e.onPages (e.pages ++ [pageOf va]) with part := if e.held.isNone then part else e.part }

/-- What an operation is held on, as another state of it. -/
def Entry.heldAs (e x : Entry) : Entry := { e with held := x.held, more := x.more, part := x.part }

/-- Whether a cause is a refusal by the fabric, after which bytes are not written (16 R263). -/
def isFabric (c : BitVec 9) : Bool := c == cFABRIC_REFUSED || c == cFABRIC_DOWN

/-- A byte read by an engine: its value, none where another module refuses it; a fault reads as zero. -/
def State.engineRead (s : State) (e : Entry) (a : Chk Acc) (part : Nat) (src : BitVec 3) :
    Option (Option Byte) × Entry × State :=
  match a with
  | .error (c, va) => (some (some 0), e.faulted c part va, s)
  | .ok a =>
    match s.engineXlat e a false part src with
    | (.held, s) => (none, e.heldAt a.addr part, s)
    | (.fault c va, s) => (some (some 0), e.faulted c part va, s)
    | (.at_ a, s) =>
      match s.readAcc a with
      | (.error c, s) => (some (if isFabric c then none else some 0), e.faulted c part a.addr, s)
      | (.ok b, s) => (some (some (b.head?.getD 0)), e, s)

/-- One byte written by an engine: whether its place counts as passed, which another module must have acknowledged (16 R263). -/
def State.engineWrite (s : State) (e : Entry) (a : Acc) (b : Option Byte) (drop : Bool) (part : Nat) : Bool × Entry × State :=
  match b with
  | none => (!a.remote, e, s)
  | some x =>
    if drop then (true, e, s)
    else match s.writeAcc a [x] with
      | (some c, s) => (false, e.faulted c part a.addr, s)
      | (none, s) => (true, e, s)

/-- The place of a byte that reads as zero. -/
def zeroAcc : Chk Acc := .ok { lane := 0, place := .nowhere, addr := 0, n := 1, pa := 0, via := {} }

/-- One byte of a copy lands: none where it is held; whether it is credited. -/
def State.landByte (s : State) (e : Entry) (p : Nat) : Option Bool × Entry × State :=
  match s.byteAcc (e.snap 1) (e.dstOff p : Nat) with
  | .error (c, va) => (some true, { e with landed := addLanded p 1 e.landed }.faulted c p va, s)
  | .ok d =>
    match s.engineXlat e d true p 4 with
    | (.held, s) => (none, e.heldAt d.addr p, s)
    | (.fault c va, s) => (some true, { e with landed := addLanded p 1 e.landed }.faulted c p va, s)
    | (.at_ d, s) =>
      match s.engineRead e (match e.srcOff 0 p with | some o => s.byteAcc (e.snap 0) o | none => zeroAcc) p 4 with
      | (none, e, s) => (none, e, s)
      | (some b, e, s) =>
        let (ok, e, s) := s.engineWrite e d b (e.byteCovered p) p
        let e := { e with landed := addLanded p 1 e.landed }
        (some ok, e, if d.place = .gmem then s.granuleLanded e d else s)

/-- Bytes from p on land until one is held; how many landed, and how many of them are credited. -/
def State.landBytes : Nat → Nat → Entry → State → (Nat × Nat) × Entry × State
  | _, 0, e, s => ((0, 0), e, s)
  | p, n + 1, e, s =>
    match s.landByte e p with
    | (none, e, s) => ((0, 0), e, s)
    | (some ok, e, s) =>
      let (m, e, s) := State.landBytes (p + 1) n e s
      ((m.1 + 1, if ok then m.2 + 1 else m.2), e, s)

/-- The parts that have landed. -/
def Entry.landedCount (e : Entry) : Nat := e.landed.foldl (fun n r => n + r.2) 0

/-- The parts there are. -/
def Entry.partCount (e : Entry) : Nat := if e.op == .cpA then 32 * popCount e.active else e.total

/-- An engine operation whose parts have all landed completes, and takes the trap it owes at the group's next boundary
(06 R123, R127). -/
def State.endEngine (s : State) (e : Entry) : State :=
  if e.landedCount < e.partCount then s.updEntry e
  else
    let s := s.dropEntry e.id
    let s := { s with grp := s.grp.complete e.id }
    if e.err = 0 then s else s.pend (e.due false)

/-- Bytes of a copy land: [first, first + n), none of them landed before; bytes of a `cp.b` are credited to its barrier after
they are visible, each once the engine has passed its place, or its target has acknowledged it (06 R125, R126, 16 R263). -/
def execCopyLanding (g : GroupRef) (id first n : Nat) (s : State) : Out :=
  .next <| s.onGroup g fun s =>
    match s.grp.entry id with
    | none => s
    | some e =>
      if e.op != .cpA && e.op != .cpB then s
      else if !((List.range n).all fun i => e.exists_ (first + i) && !e.hasLanded (first + i)) then s
      else
        let (m, e1, s) := State.landBytes first n (s.retrying e) s
        if e.op != .cpB || e.sc 3 == BitVec.allOnes 64 then s.endEngine e1
        else match s.barOperand (e.sc 3) with
          | .error _ => s.endEngine e1
          | .ok b =>
            let (ok, s) := s.credit b m.2
            s.endEngine (if ok then e1 else e1.faulted cMEM_UNCORR first (e.sc 3))

/-- The index of a gather's entry, byte by byte. -/
def State.gatherIndex (s : State) (e : Entry) (k : Nat) : Nat → Option (List (Option Byte)) × Entry × State
  | 0 => (some [], e, s)
  | n + 1 =>
    match State.gatherIndex s e k n with
    | (none, e, s) => (none, e, s)
    | (some l, e, s) =>
      match s.engineRead e (s.byteAcc (e.snap 0) (((e.sc 0).toNat + k) * 4 + n : Nat)) k 5 with
      | (none, e, s) => (none, e, s)
      | (some b, e, s) => (some (l ++ [b]), e, s)

/-- One byte of an entry as the engine finds it before anything of the entry lands: where it goes, none where it goes nowhere, and
what it is, none where another module refuses it. -/
abbrev Planned := Option Acc × Option Byte

/-- n bytes of an entry looked at, those that its index x names read, where it has one, and those of its destination translated: none
where one is held (06 R127, 18 R281). -/
def State.planBytes (k : Nat) (x : Option Nat) : Nat → Nat → Entry → State → Option (List Planned) × Entry × State
  | _, 0, e, s => (some [], e, s)
  | p, n + 1, e, s =>
    match s.engineRead e (match x.bind (e.srcOff · p) with | some o => s.byteAcc (e.snap 2) o | none => zeroAcc) k 5 with
    | (none, e, s) => (none, e, s)
    | (some b, e, s) =>
      let goes : Option (Option Acc) × Entry × State :=
        match s.byteAcc (e.snap 1) (e.dstOff p : Nat) with
        | .error (c, va) => (some none, e.faulted c k va, s)
        | .ok d =>
          match s.engineXlat e d true k 5 with
          | (.held, s) => (none, e.heldAt d.addr k, s)
          | (.fault c va, s) => (some none, e.faulted c k va, s)
          | (.at_ d, s) => (some (some d), e, s)
      match goes with
      | (none, e, s) => (none, e, s)
      | (some d, e, s) =>
        match State.planBytes k x (p + 1) n e s with
        | (none, e, s) => (none, e, s)
        | (some l, e, s) => (some ((d, b) :: l), e, s)

/-- What entry k comes to: its index, then its bytes; none where one is held. An entry whose index or data faults is zero; so are its
bytes where a destination byte faults (06 R127). -/
def State.planEntry (s : State) (e : Entry) (k : Nat) : Option (List Planned) × Entry × State :=
  let n := e.entryBytes
  match s.gatherIndex e k 4 with
  | (none, e, s) => (none, e, s)
  | (some l, e, s) =>
    let lost : Bool := l.any fun b => b.isNone
    match State.planBytes k (if e.err = 0 then some (ofBytes (l.map fun b => b.getD 0)) else none) (k * n) n e s with
    | (none, e, s) => (none, e, s)
    | (some m, e, s) =>
      (some (m.map fun q => (q.1, if lost then none else if e.err != 0 && !isFabric e.err then some 0 else q.2)), e, s)

/-- Bytes of an entry put where they go, from p on. -/
def State.putPlanned (k : Nat) : Nat → List Planned → Entry → State → Entry × State
  | _, [], e, s => (e, s)
  | p, (d, b) :: t, e, s =>
    match d with
    | none => State.putPlanned k (p + 1) t { e with landed := addLanded p 1 e.landed } s
    | some d =>
      let (_, e, s) := s.engineWrite e d b false k
      let e := { e with landed := addLanded p 1 e.landed }
      State.putPlanned k (p + 1) t e (if d.place = .gmem then s.granuleLanded e d else s)

/-- Bytes that have landed of an entry that turns out to be zero after all written as zero. -/
def State.zeroLanded (k : Nat) : Nat → List Planned → Entry → State → Entry × State
  | _, [], e, s => (e, s)
  | p, (d, _) :: t, e, s =>
    match d with
    | some d =>
      if e.hasLanded p then
        let (_, e, s) := s.engineWrite e d (some 0) false k
        State.zeroLanded k (p + 1) t e s
      else State.zeroLanded k (p + 1) t e s
    | none => State.zeroLanded k (p + 1) t e s

/-- A part of a gather lands: of entry k the bytes [first, first + n) (06 R127, 08 R143). The entry is held whole where its index, its data or its
destination is, before any byte of it lands, and zero-filled where they fault otherwise; the first fault of the operation is kept. -/
def execGatherEntryLanding (g : GroupRef) (id : Nat) (part : Nat × Nat × Nat) (s : State) : Out :=
  let (k, first, n) := part
  .next <| s.onGroup g fun s =>
    match s.grp.entry id with
    | none => s
    | some e =>
      let size := e.entryBytes
      let p := k * size + first
      if e.op != .gth || (e.sc 1).toNat ≤ k || n = 0 || size < first + n then s
      else if !((List.range n).all fun i => !e.hasLanded (p + i)) then s
      else
        let e0 := s.retrying e
        match s.planEntry { e0 with err := 0 } k with
        | (none, e1, s1) => s1.updEntry (e0.heldAs e1)
        | (some l, e1, s1) =>
          let zero := e1.err != 0 && !isFabric e1.err
          let (e2, s2) := if zero then State.zeroLanded k (k * size) l e1 s1 else (e1, s1)
          let (e3, s3) := State.putPlanned k p ((l.drop first).take n) e2 s2
          s3.endEngine (if e0.err = 0 then e3 else { e3 with err := e0.err, detail := e0.detail, va := e0.va })

end Sys2Proof.Machine
end

