-- ==== Sys2Proof/Machine/Lane.lean ====
section
/-!
DEFINITION. Sys2Proof/Machine/Lane.lean: the cross-lane instructions, and the word that is no instruction
(05 R99 to R102, 04 R62).
-/

namespace Sys2Proof.Machine

/-- K: the membership, that of the join where the split has joined already, restricted to width and live lanes (03 R29). -/
def State.members (s : State) (b : BitVec 6) : Mask := s.sp.joined.getD (s.readS b) &&& s.wmask &&& s.grp.live

/-- The join of a cross-lane instruction with membership sB, then its effect once in the merged split (03 R29). -/
def State.together (s : State) (b : BitVec 6) (f : State → State) : State := s.joinThen (s.readS b) false f

/-- The read of the membership with its wait bit: none where the split has joined already (03 R29). -/
def State.memberRead (s : State) (b : BitVec 6) (y : BitVec 1) : List (Reg × Bool) :=
  if s.sp.joined.isSome then [] else [(.s b, y == 1)]

/-- What perm and bcast need: A, D read by perm, and the membership's read. -/
def permUse (t : BitVec 5) (d a : BitVec 7) (x : BitVec 1) (member : List (Reg × Bool)) (readD : Bool) : Use :=
  { ok := pairOk t d && pairOk t a
    reads := ((vregs t a).map fun r => (r, x == 1)) ++ member ++ (if readD then (vregs t d).map fun r => (r, false) else [])
    writes := vregs t d }

/-- A permute: each active lane's source lane is the index in its vD, and what it receives where that lane is no member
(05 R99). -/
def State.permute (s : State) (d a : BitVec 7) (b : BitVec 6) (x y : BitVec 1) (fill : State → Nat → Nat) : State :=
  s.issue (permUse s.ty d a x (s.memberRead b y) true) fun s =>
    s.together b fun s =>
      let t := s.ty
      let out := s.lanes.map fun l =>
        let i := (s.grp.vreg d.toNat l).toNat
        (l, if i < s.width && (s.members b).getLsbD i then s.lane t a i else fill s l)
      (s.writeLanes t d out).advance

/-- `perm.z` fills with zero. -/
def execPermZ (d a : BitVec 7) (b : BitVec 6) (x y : BitVec 1) (s : State) : Out :=
  .next (s.permute d a b x y fun _ _ => 0)
/-- `perm.s` fills with the reading lane's own value. -/
def execPermS (d a : BitVec 7) (b : BitVec 6) (x y : BitVec 1) (s : State) : Out :=
  .next (s.permute d a b x y fun s l => s.lane s.ty a l)

/-- `bcast` (05 R100). -/
def execBcast (d a : BitVec 7) (b : BitVec 6) (x y : BitVec 1) (s : State) : Out :=
  .next <| s.issue (permUse s.ty d a x (s.memberRead b y) false) fun s =>
    s.together b fun s =>
      let v := s.lane s.ty a (lowestBit (s.members b))
      (s.writeLanes s.ty d (s.lanes.map fun l => (l, v))).advance

/-! ## Reductions (05 R101, R102) -/

/-- The values that contribute: members the guard does not clear. -/
def State.contributions (s : State) (a : BitVec 7) (b : BitVec 6) : List (Option Nat) :=
  (List.range s.width).map fun i =>
    if (s.members b).getLsbD i && s.guard.getLsbD i then some (s.lane s.ty a i) else none

/-- COMB: nothing on either side does no arithmetic. -/
def comb (f : Nat → Nat → Res) : Option Nat → Option Nat → Option Nat × Rep
  | none, b => (b, Rep.none)
  | a, none => (a, Rep.none)
  | some a, some b => let r := f a b; (some r.val, r.rep)

/-- One level of the butterfly: neighbours combined, with what the lower lane of each raised; lanes are step × position. -/
def combLevel (f : Nat → Nat → Res) (step : Nat) : Nat → List (Option Nat) → List (Option Nat) × List (Nat × Rep)
  | pos, a :: b :: t =>
    let c := comb f a b
    let r := combLevel f step (pos + 1) t
    (c.1 :: r.1, (step * pos, c.2) :: r.2)
  | _, [a] => ([a], [])
  | _, [] => ([], [])

/-- The butterfly over levels of doubling distance. -/
def butterfly (f : Nat → Nat → Res) : Nat → Nat → List (Option Nat) → Option Nat × List (Nat × Rep)
  | 0, _, l => ((l.head?).join, [])
  | n + 1, step, l =>
    let r := combLevel f step 0 l
    let q := butterfly f n (2 * step) r.1
    (q.1, r.2 ++ q.2)

/-- What each lane raised, all its steps together. -/
def gatherReps (lanes : List Nat) (l : List (Nat × Rep)) : List (Nat × Rep) :=
  lanes.map fun i => (i, (l.filter fun x => x.1 == i).foldl (fun r x => r.or x.2) Rep.none)

/-- EXTEND: i32 sign-extends, the rest fill from below (05 R101). -/
def extend (t : BitVec 5) (x : Nat) : W64 :=
  if t = 0 then (BitVec.ofNat 32 x).signExtend 64 else BitVec.ofNat 64 x

/-- IDENTITY of min and max: the type's maximum (+∞) and minimum (−∞). -/
def identMin (t : BitVec 5) : Nat := if isFloat t then (fmtOf t).infCode else wrapInt (typeBits t) (intMax t)
def identMax (t : BitVec 5) : Nat :=
  if isFloat t then (fmtOf t).sign true (fmtOf t).infCode else wrapInt (typeBits t) (intMin t)

/-- What a reduction needs. -/
def reduUse (t : BitVec 5) (w : List Reg) (a : BitVec 7) (x : BitVec 1) (member : List (Reg × Bool)) (ok : Bool) : Use :=
  { ok := ok && pairOk t a, reads := ((vregs t a).map fun r => (r, x == 1)) ++ member, writes := w }

/-- The end of a cross-lane sum: every lane of the width that raised something is reported, ACTIVE lanes are watched
(22 R332). -/
def State.finishLanes (s : State) (reps : List (Nat × Rep)) : State :=
  let pc := s.sp.pc
  let all := gatherReps (List.range s.width) reps
  let act := s.lanes
  ((s.report all pc).advance).watch 4
    ((all.filter fun x => act.contains x.1).map fun x => (x.1, x.2.fl.setWidth 64)) pc

/-- A reduction by the fixed butterfly (05 R101). -/
def State.reduce (s : State) (d : BitVec 6) (a : BitVec 7) (b : BitVec 6) (x y : BitVec 1) (f : Alu → List Nat → Res)
    (ident : BitVec 5 → Nat) : State :=
  s.typed accWide (reduUse s.ty [.s d] a x (s.memberRead b y) true) fun s =>
    s.together b fun s =>
      let r := butterfly (fun p q => f s.alu [p, q]) 6 2 (s.contributions a b)
      (s.writeS d (extend s.ty (r.1.getD (ident s.ty)))).finishLanes r.2

def execReduAdd (d : BitVec 6) (a : BitVec 7) (b : BitVec 6) (x y : BitVec 1) (s : State) : Out :=
  .next (s.reduce d a b x y Alu.add fun _ => 0)
def execReduMin (d : BitVec 6) (a : BitVec 7) (b : BitVec 6) (x y : BitVec 1) (s : State) : Out :=
  .next (s.reduce d a b x y (fun m => m.minmax false) identMin)
def execReduMax (d : BitVec 6) (a : BitVec 7) (b : BitVec 6) (x y : BitVec 1) (s : State) : Out :=
  .next (s.reduce d a b x y (fun m => m.minmax true) identMax)

/-- The running sums in ascending lane order, and what each lane's step raised (05 R102). -/
def prefixSums (f : Nat → Nat → Res) : Nat → Option Nat → List (Option Nat) → List (Option Nat) × List (Nat × Rep)
  | _, _, [] => ([], [])
  | i, acc, x :: t =>
    let c := comb f acc x
    let r := prefixSums f (i + 1) c.1 t
    (c.1 :: r.1, (i, c.2) :: r.2)

/-- `scan.add` (05 R102). -/
def execScanAdd (d a : BitVec 7) (b : BitVec 6) (x y : BitVec 1) (s : State) : Out :=
  .next <| s.typed accWide (reduUse s.ty (vregs s.ty d) a x (s.memberRead b y) (pairOk s.ty d)) fun s =>
    s.together b fun s =>
      let r := prefixSums (fun p q => s.alu.add [p, q]) 0 none (s.contributions a b)
      let out := s.lanes.map fun l => (l, ((r.1[l]?).join).getD 0)
      (s.writeLanes s.ty d out).finishLanes r.2

/-- A word that is no instruction, or whose registers do not exist, where it would issue (04 R62, R64). -/
def execIllegalWord (range : Bool) (s : State) : Out :=
  .next <|
    if !s.canIssue then s
    else if !s.grp.due.isEmpty then s.takeDue
    else s.killAt (if range then cREG_RANGE else cILLEGAL)

end Sys2Proof.Machine
end

