-- ==== Sys2Proof/Machine/Fetch.lean ====
section
/-!
DEFINITION. Sys2Proof/Machine/Fetch.lean: fetching the word a split issues, dropped translations, lines that become uncorrectable, and what surrounds a debug step
(04 R55, 18 R280, R282, R283, 22 R343, 23 R363).
-/

namespace Sys2Proof.Machine

/-! ## Fetch -/

/-- The outcome of a fetch. -/
inductive Fetched where
  | word (w : W32) (s : State)
  | stop (s : State)

/-- Fetch of the word at the executing split's PC: a fault of its page traps there, after a SYNC that is due, or parks the split
(18 R282, R283, 22 R349). -/
def State.fetch (s : State) : Fetched :=
  let pc := s.sp.pc
  match s.translate s.gang.vf s.coreId pc .fetch with
  | (.trap c, s1) => .stop (s1.traceSync.trapVa c pc)
  | (.replay l mot, s1) =>
    .stop ((s1.postFault s1.k 0 pc l mot 3 false).updSp fun x => { x with st := .parked pc true })
  | (.ok pa m, s1) =>
    match s1.readPa pa 4 m with
    | (.ok b, s2) => .word (BitVec.ofNat 32 (ofBytes b)) s2
    | (.error c, s2) => .stop (s2.traceSync.trapVa c pc)

/-- The instruction a word is: the permanently illegal word where it is none (04 R61). -/
def instrOf (w : W32) : Instr := (decode w).getD (.illegalWord false)

/-! ## Moves that no agent's step makes (18 R280, 23 R363) -/

/-- A core drops a cached translation (18 R280). -/
def State.dropTlb (s : State) (vf : BitVec 7) (die : BitVec 3) (core : BitVec 7) (va : W64) : State :=
  { s with tlb := s.tlb.filter fun t => !(t.die == die && t.core == core && t.covers vf va) }

/-- A compute die drops what it has cached of the walk for an address: its leaf and the non-leaf entries (18 R280). -/
def State.dropDie (s : State) (vf : BitVec 7) (die : BitVec 3) (va : W64) : State :=
  { s with
    dieTlb := s.dieTlb.filter fun t => !(t.die == die && t.covers vf va)
    tables := s.tables.filter fun t => !(t.die == die && t.covers vf va) }

/-- The host stores into its own memory, of which the device's loads take the bytes (08 R158, R159). -/
def State.hostStore (s : State) (pa : BitVec 52) (b : List Byte) : State :=
  if b.length ≤ 64 && (List.range b.length).all fun i => regionOf (pa + BitVec.ofNat 52 i) == .host then s.writePhys pa b else s

/-- A line of bank memory, or of a gang's gang memory, becomes uncorrectable (23 R363). -/
def State.spoilBank (s : State) (line : BitVec 23) : State :=
  if s.badBank.contains line then s else { s with badBank := line :: s.badBank }

/-- A line of a gang's gang memory becomes uncorrectable. -/
def State.spoilGmem (s : State) (g : GangRef) (line : Nat) : State :=
  match s.focusGang g with
  | none => s
  | some t => if t.gang.badGmem.contains line then s else { t with gang := { t.gang with badGmem := line :: t.gang.badGmem } }

/-- The segments of a tile of a gang become uncorrectable. -/
def State.spoilTile (s : State) (g : GangRef) (record : Nat) : State :=
  match s.focusGang g with
  | none => s
  | some t =>
    if t.gang.badTiles.contains record || (t.gang.tiles.all fun x => x.1 != record) then s
    else { t with gang := { t.gang with badTiles := record :: t.gang.badTiles } }

/-- A line of tier-1 or tier-2 memory becomes uncorrectable (23 R363). -/
def State.spoil (s : State) (line : BitVec 46) : State :=
  let r := regionOf (line ++ 0#6)
  if (r = .tier1 || r = .tier2) && !s.uncorrectable.contains line then
    { s with uncorrectable := line :: s.uncorrectable }
  else s

/-! ## Debug steps (22 R343) -/

/-- Instructions a debug step does not execute: those that need other lanes. -/
def needsOthers : Instr → Bool
  | .join _ | .permZ _ _ _ _ _ | .permS _ _ _ _ _ | .bcast _ _ _ _ _ | .reduAdd _ _ _ _ _ | .reduMin _ _ _ _ _
  | .reduMax _ _ _ _ _ | .scanAdd _ _ _ _ _ | .barSync _ _ _ | .barWait _ _ _ _ => true
  | _ => false

/-- The split that holds a lane. -/
def Group.splitOf (g : Group) (lane : Nat) : Option (BitVec 2) :=
  (g.splits.list.find? fun q => q.2.mask.getLsbD lane).map (·.1)

/-- The status of a debug step written to the agent's register, or to the register mirror. -/
def State.stepStatus (s : State) (g : GroupRef) (agent : Option (GroupRef × BitVec 6)) (status : W64) : State :=
  match agent with
  | some (a, d) => s.at a fun s => s.writeS d status
  | none => s.updCtx g.gang.vf fun c => { c with dmStat := status }

/-- Whether a move names an instruction that only a split's fetch issues. -/
def isEvent (i : Instr) : Bool :=
  match i with
  | .illegalWord _ => false
  | _ => (encode i).isNone

/-- What the management port does in every state, from standby power (22 R354, 23 R364, 16 R271). -/
def actsAlways : Move → Bool
  | .event (.sensorRead _) | .event (.powerCapSet _) | .event (.firmwareUpdate _ _) | .event (.spdmRequest _)
  | .event .moduleReset | .event .freeze | .event .freezeReadout | .event (.powerOn _) => true
  | _ => false

/-- What a frozen module still does: what its management port does, resets, and losing its power, by a thermal trip too (22 R354,
23 R357, R359). -/
def actsFrozen : Move → Bool
  | .event .perst | .event .undervoltagePowerOff | .event .thermalTrip => true
  | m => actsAlways m

end Sys2Proof.Machine
end

