-- ==== Sys2Proof/Machine/Mica.lean ====
section
/-!
DEFINITION. Sys2Proof/Machine/Mica.lean: the arithmetic of the matrix arrays and of the Mica unit, every rounding in the order the
spec fixes (10 R178 to R180, 11 R197 to R203, 12 R218 to R220).
Vectors and matrix columns are arrays of element bits; a computation keeps what its roundings raise.
-/

namespace Sys2Proof.Machine

/-- A computation with the flags its roundings raise. -/
abbrev Calc (α : Type) := StateM Rep α

/-- A rounded step. -/
def Calc.step (r : Res) : Calc Nat := fun st => (r.val, st.or r.rep)

/-- What a tile operation may report: IV and OF, NAN_PROD and OVERFLOW (10 R171, R180). -/
def tileRep (r : Rep) : Rep := ⟨r.fl &&& 0b000101, r.lg &&& 0b00011⟩

/-- A precision: f32 for PREC 0, f64 for PREC 1, with η and ZBIG (11 R201). -/
structure Pr where
  f : Fmt
  eta : Nat
  zbig : Nat
  deriving DecidableEq, Repr

/-- The precision of a tile record's PREC. -/
def Pr.of (p : Bool) : Pr :=
  if p then ⟨fmtF64, (1023 - 53) * 2 ^ 52, (1023 + 256) * 2 ^ 52⟩ else ⟨fmtF32, (127 - 24) * 2 ^ 23, (127 + 32) * 2 ^ 23⟩

/-- The bits of 2^k. -/
def Pr.pow (p : Pr) (k : Int) : Nat := ((p.f.bias : Int) + k).toNat * 2 ^ p.f.mb
def Pr.one (p : Pr) : Nat := p.pow 0

/-- RN(±a × b + c): a NaN passes through a step and raises nothing (10 R180, 05 R70, 21 R314). An accumulator that is NaN raises
nothing beside a product 0 × ∞ either, where two rows of the table of R180 meet (log 64). -/
def Pr.fmaStep (p : Pr) (neg : Bool) (a b c : Nat) : Calc Nat :=
  Calc.step (if p.f.value c == .nan then .quiet p.f.nanCode else p.f.fma 0 false neg false a b c)
/-- RN(a × b + c). -/
def Pr.fma (p : Pr) (a b c : Nat) : Calc Nat := p.fmaStep false a b c
/-- RN(−a × b + c). -/
def Pr.fnma (p : Pr) (a b c : Nat) : Calc Nat := p.fmaStep true a b c
def Pr.add (p : Pr) (a b : Nat) : Calc Nat := Calc.step (p.f.add 0 false a b)
def Pr.sub (p : Pr) (a b : Nat) : Calc Nat := Calc.step (p.f.sub 0 false a b)
def Pr.mul (p : Pr) (a b : Nat) : Calc Nat := Calc.step (p.f.mul 0 false a b)
def Pr.div (p : Pr) (a b : Nat) : Calc Nat := Calc.step (p.f.div 0 false a b)
def Pr.sqrt (p : Pr) (a : Nat) : Calc Nat := Calc.step (p.f.sqrtV 0 false (p.f.value a))

/-- Bits without the sign. -/
def Pr.abs (p : Pr) (a : Nat) : Nat := a % 2 ^ (p.f.eb + p.f.mb)
/-- Bits with the sign changed. -/
def Pr.flip (p : Pr) (a : Nat) : Nat := if p.abs a = a then a + 2 ^ (p.f.eb + p.f.mb) else p.abs a
/-- Whether bits are ±0. -/
def Pr.isZero (p : Pr) (a : Nat) : Bool := p.abs a == 0
/-- Whether bits are finite. -/
def Pr.finite (p : Pr) (a : Nat) : Bool := p.abs a < p.f.infCode

/-- A column of 64 elements. -/
abbrev Vec := Array Nat
/-- Entry i of a column, +0 beyond its end. -/
def Vec.at (v : Vec) (i : Nat) : Nat := v.getD i 0
/-- Columns. -/
abbrev Cols := Array Vec
/-- Column j. -/
def Cols.at (m : Cols) (j : Nat) : Vec := m.getD j #[]

/-- A column of n zeros. -/
def zeros (n : Nat) : Vec := Array.replicate n 0

/-! ## Sums (11 R201) -/

/-- DOT. -/
def Pr.dot (p : Pr) (a b : Vec) (m : Nat) : Calc Nat :=
  (List.range m).foldlM (fun s t => p.fma (Vec.at a t) (Vec.at b t) s) 0

/-- NORM. -/
def Pr.norm (p : Pr) (a : Vec) (m : Nat) : Calc Nat := do p.sqrt (← p.dot a a m)

/-! ## QR, Jacobi and truncation (11 R201) -/

/-- A value put in a column. -/
def Vec.put (v : Vec) (i x : Nat) : Vec := v.setIfInBounds i x
/-- A column put in a matrix. -/
def Cols.put (m : Cols) (j : Nat) (v : Vec) : Cols := m.setIfInBounds j v

/-- One pass of Gram–Schmidt of column j: the coefficients from one w, then their removal. -/
def Pr.gramPass (p : Pr) (q : Cols) (j : Nat) (wr : Vec × Vec) : Calc (Vec × Vec) := do
  let c ← (List.range j).mapM fun i => p.dot (Cols.at q i) wr.1 64
  (List.range j).foldlM (fun (st : Vec × Vec) i => do
    let ci := c.getD i 0
    let w ← (List.range 64).mapM fun t => p.fnma ci (Vec.at (Cols.at q i) t) (Vec.at st.1 t)
    let r ← p.add (Vec.at st.2 i) ci
    pure (w.toArray, Vec.put st.2 i r)) wr

/-- QR of r columns: Q, and R by columns. -/
def Pr.qr (p : Pr) (x : Cols) (r : Nat) : Calc (Cols × Cols) := do
  let norms ← (List.range r).mapM fun j => p.norm (Cols.at x j) 64
  let nmax := norms.foldl max 0
  let lim ← p.mul p.eta nmax
  (List.range r).foldlM (fun (st : Cols × Cols) j => do
    let one ← p.gramPass st.1 j (Cols.at x j, zeros r)
    let two ← p.gramPass st.1 j one
    let n ← p.norm two.1 64
    if p.isZero n || n ≤ lim then pure (st.1.push (zeros 64), st.2.push (Vec.put two.2 j 0))
    else do
      let q ← (List.range 64).mapM fun t => p.div (Vec.at two.1 t) n
      pure (st.1.push q.toArray, st.2.push (Vec.put two.2 j n))) (#[], #[])

/-- A rotation applied to columns a and b of a matrix. -/
def Pr.rotate (p : Pr) (c s : Nat) (m : Cols) (a b rows : Nat) : Calc Cols := do
  let xs := Cols.at m a
  let ys := Cols.at m b
  let nx ← (List.range rows).mapM fun i => do
    p.fnma s (Vec.at ys i) (← p.mul c (Vec.at xs i))
  let ny ← (List.range rows).mapM fun i => do
    p.fma s (Vec.at xs i) (← p.mul c (Vec.at ys i))
  pure ((Cols.put m a nx.toArray).put b ny.toArray)

/-- The tangent of a rotation. -/
def Pr.tangent (p : Pr) (al be ga : Nat) : Calc Nat := do
  let z ← p.div (← p.sub be al) (← p.mul (p.pow 1) ga)
  let az := p.abs z
  if p.zbig ≤ az then p.div (p.pow (-1)) z
  else do
    let d ← p.add az (← p.sqrt (← p.fma z z p.one))
    let sgn := if p.isZero z || p.abs z = z then p.one else p.flip p.one
    p.div sgn d

/-- One pair of columns: the matrices after it, and whether it was rotated. Where γ is 0 the pair is skipped before RN(α × β) is
formed, so that its overflow abandons nothing: the spec does not say that the test's second side is left out then (log 65). -/
def Pr.jacobiPair (p : Pr) (m r a b : Nat) (st : Cols × Cols × Bool) : Calc (Cols × Cols × Bool) := do
  let x := st.1
  let al ← p.dot (Cols.at x a) (Cols.at x a) m
  let be ← p.dot (Cols.at x b) (Cols.at x b) m
  let ga ← p.dot (Cols.at x a) (Cols.at x b) m
  if p.isZero ga then pure st
  else do
    let lim ← p.mul p.eta (← p.sqrt (← p.mul al be))
    if p.abs ga ≤ lim then pure st
    else do
      let t ← p.tangent al be ga
      let c ← p.div p.one (← p.sqrt (← p.fma t t p.one))
      let s ← p.mul c t
      let x ← p.rotate c s x a b m
      let j ← p.rotate c s st.2.1 a b r
      pure (x, j, true)

/-- Sweeps until one makes no rotation, at most n. -/
def Pr.sweeps (p : Pr) (m r : Nat) : Nat → Cols × Cols → Calc (Cols × Cols)
  | 0, st => pure st
  | n + 1, st => do
    let pairs := (List.range r).flatMap fun a => ((List.range r).filter (a < ·)).map fun b => (a, b)
    let out ← pairs.foldlM (fun s ab => p.jacobiPair m r ab.1 ab.2 s) (st.1, st.2, false)
    if out.2.2 then Pr.sweeps p m r n (out.1, out.2.1) else pure (out.1, out.2.1)

/-- The identity, by columns. -/
def Pr.identity (p : Pr) (r : Nat) : Cols :=
  ((List.range r).map fun j => ((List.range r).map fun i => if i = j then p.one else 0).toArray).toArray

/-- JACOBI: B and J. -/
def Pr.jacobi (p : Pr) (b : Cols) (m r : Nat) : Calc (Cols × Cols) := p.sweeps m r 10 (b, p.identity r)

/-- An index put among indices sorted by descending σ; equal σ keep the lower index first. -/
def insertDesc (sig : Vec) (j : Nat) : List Nat → List Nat
  | [] => [j]
  | k :: t => if Vec.at sig k < Vec.at sig j then j :: k :: t else k :: insertDesc sig j t

/-- The order π: bits of non-negative values order as the values do. -/
def sortDesc (sig : Vec) (r : Nat) : List Nat := (List.range r).foldl (fun l j => insertDesc sig j l) []

/-- A non-negative finite value as a multiple of the least subnormal. -/
def Pr.units (p : Pr) (a : Nat) : Nat :=
  match p.f.value a with
  | .fin _ m e => shiftNat m (e + (p.f.bias : Int) + p.f.mb - 1)
  | _ => 0

/-- TRUNC (11 R201): modes 0 TOL, 1 ABS, 2 FIX (04 R49). -/
def Pr.trunc (p : Pr) (rkm : BitVec 2) (rkt : Nat) (sig : Vec) (order : List Nat) (r : Nat) : Nat :=
  let sq := order.map fun j => (p.units (Vec.at sig j)) ^ 2
  let sum (l : List Nat) : Nat := l.foldl (· + ·) 0
  let first (ok : Nat → Bool) : Nat := ((List.range (r + 1)).find? fun n => ok (sum (sq.drop n))).getD r
  match rkm.toNat with
  | 2 => min r rkt
  | 0 => first fun tail => tail * 2 ^ (2 * rkt) ≤ sum sq
  | _ => first fun tail => tail * 2 ^ (2 * rkt) ≤ 2 ^ (2 * (p.f.bias + p.f.mb - 1))

/-! ## Recompression (11 R202) -/

/-- A linear combination of columns: Σ over k of Q[t, k] × c[k], in ascending k. -/
def Pr.combine (p : Pr) (q : Cols) (c : Vec) (r : Nat) : Calc Vec := do
  let l ← (List.range 64).mapM fun t =>
    (List.range r).foldlM (fun s k => p.fma (Vec.at (Cols.at q k) t) (Vec.at c k) s) 0
  pure l.toArray

/-- The outcome of rounding a rank: factors and their columns. -/
structure Ranked where
  u : Cols
  v : Cols
  n : Nat
  deriving Repr

/-- R202: the Mica unit on a pair of r columns. -/
def Pr.recompress (p : Pr) (rkm : BitVec 2) (rkt : Nat) (u v : Cols) (r : Nat) : Calc Ranked := do
  if rkm = 3 then pure ⟨u, v, r⟩
  else do
    let (qu, ru) ← p.qr u r
    let (qv, rv) ← p.qr v r
    let m ← (List.range r).mapM fun j => do
      let c ← (List.range r).mapM fun i =>
        (List.range r).foldlM (fun s t => p.fma (Vec.at (Cols.at ru t) i) (Vec.at (Cols.at rv t) j) s) 0
      pure c.toArray
    let (b, jm) ← p.jacobi m.toArray r r
    let sig ← (List.range r).mapM fun j => p.norm (Cols.at b j) r
    let order := sortDesc sig.toArray r
    let n := p.trunc rkm rkt sig.toArray order r
    let keep := order.take n
    let u' ← keep.mapM fun k => p.combine qu (Cols.at b k) r
    let v' ← keep.mapM fun k => p.combine qv (Cols.at jm k) r
    pure ⟨u'.toArray, v'.toArray, n⟩

/-- Whether a computation from finite values formed an infinity or a NaN. -/
def broke (r : Rep) : Bool := r.fl &&& 0b000111 != 0

/-! ## Dense matrices: 64 × row + column -/

/-- A dense matrix. -/
abbrev Mat := Array Nat
/-- Element (i, j). -/
def Mat.at (m : Mat) (i j : Nat) : Nat := m.getD (64 * i + j) 0

/-- A matrix formed element by element in its valid region, +0 elsewhere. -/
def buildMat (rows cols : Nat) (f : Nat → Nat → Calc Nat) : Calc Mat := do
  let l ← (List.range 64).mapM fun i => (List.range 64).mapM fun j => if i < rows && j < cols then f i j else pure 0
  pure l.flatten.toArray

/-- Expansion of factors from a start (11 R198, R199). -/
def Pr.expand (p : Pr) (u v : Cols) (n rows cols : Nat) (start : Mat) : Calc Mat :=
  buildMat rows cols fun i j =>
    (List.range n).foldlM (fun s t => p.fma (Vec.at (Cols.at u t) i) (Vec.at (Cols.at v t) j) s) (Mat.at start i j)

/-- Element (i, j) of C ± A·B in f32 or f64 (10 R179). -/
def Pr.elemFma (p : Pr) (neg : Bool) (row col : Nat → Nat) (acc : Nat) : Calc Nat :=
  (List.range 64).foldlM (fun s k => if neg then p.fnma (row k) (col k) s else p.fma (row k) (col k) s) acc

/-- The exact sum of a group of products with what its special values raise (10 R178, R180), where the accumulator is not NaN: what
a group raises beside an accumulator that is NaN already, the spec does not say; the model raises nothing (log 64). -/
def groupSum (l : List (Option FV)) : FV × Rep :=
  let vals := l.filterMap id
  let bad := l.any (·.isNone) || (vals.any (· == .inf false) && vals.any (· == .inf true))
  if bad then (.nan, Rep.invalid)
  else match vals with
    | [] => (.fin false 0 0, Rep.none)
    | a :: t => (t.foldl (fun s x => (FV.add 0 s x).getD .nan) a, Rep.none)

/-- Element (i, j) of C ± A·B in narrow formats: groups of 16 along k, one rounding each (10 R178). A product is +0 where
either element lies outside its valid region. -/
def Pr.elemNarrow (p : Pr) (neg : Bool) (prod : Nat → Option FV) (acc : Nat) : Calc Nat :=
  (List.range 4).foldlM (fun s g => do
    if p.f.value s == .nan then pure p.f.nanCode
    else do
      let r := groupSum ((List.range 16).map fun k => prod (16 * g + k))
      modify (Rep.or · r.2)
      Calc.step (p.f.ofOpt 0 false (FV.add 0 (p.f.value s) (if neg then r.1.neg else r.1)))) acc

/-! ## Factorisation and solves (12 R218 to R220) -/

/-- The row of largest magnitude in column k from row k on; NaN above every number, ties to the lowest row. -/
def Pr.pivotRow (p : Pr) (c : Mat) (k n : Nat) : Nat :=
  let key (i : Nat) : Nat := let x := p.abs (Mat.at c i k); if p.f.infCode < x then p.f.infCode + 1 else x
  ((List.range n).filter (k < ·)).foldl (fun b i => if key b < key i then i else b) k

/-- An element of a matrix replaced. -/
def Mat.put (m : Mat) (i j x : Nat) : Mat := m.setIfInBounds (64 * i + j) x

/-- Two rows exchanged in columns below n. -/
def Mat.swapRows (m : Mat) (a b n : Nat) : Mat :=
  if a = b then m
  else (List.range n).foldl (fun (c : Mat) j => (Mat.put c a j (Mat.at m b j)).put b j (Mat.at m a j)) m

/-- TLU (12 R218): the factors and the pivots of columns 0 to n − 1. -/
def Pr.lu (p : Pr) (n : Nat) (c : Mat) : Calc (Mat × List Nat) :=
  (List.range n).foldlM (fun (st : Mat × List Nat) k => do
    let r := p.pivotRow st.1 k n
    if p.isZero (Mat.at st.1 r k) then pure (st.1, st.2 ++ [k + 2 ^ 31])
    else do
      let m := Mat.swapRows st.1 k r n
      let out ← ((List.range n).filter (k < ·)).foldlM (fun (c : Mat) i => do
        let l ← p.div (Mat.at c i k) (Mat.at c k k)
        let c := Mat.put c i k l
        ((List.range n).filter (k < ·)).foldlM (fun (c : Mat) j => do
          pure (Mat.put c i j (← p.fnma l (Mat.at c k j) (Mat.at c i j)))) c) m
      pure (out, st.2 ++ [r])) (c, [])

/-- LSOLVE (12 R219). -/
def Pr.lsolve (p : Pr) (a : Mat) (piv : List Nat) (n : Nat) (x : Vec) : Calc Vec := do
  let x := (List.range n).foldl (fun (x : Vec) k =>
    let q := piv.getD k 0 % 64
    if k < q && q < n then (Vec.put x k (Vec.at x q)).put q (Vec.at x k) else x) x
  ((List.range n).filter (0 < ·)).foldlM (fun (x : Vec) i => do
    let v ← (List.range i).foldlM (fun s t => p.fnma (Mat.at a i t) (Vec.at x t) s) (Vec.at x i)
    pure (Vec.put x i v)) x

/-- USOLVE (12 R219). -/
def Pr.usolve (p : Pr) (a : Mat) (n : Nat) (x : Vec) : Calc Vec :=
  (List.range n).foldlM (fun (x : Vec) j => do
    let acc ← (List.range j).foldlM (fun s t => p.fnma (Mat.at a t j) (Vec.at x t) s) (Vec.at x j)
    pure (Vec.put x j (← p.div acc (Mat.at a j j)))) x

/-- Columns of the Cholesky factor from column j on (12 R220); the stop fills the rest with NaN. -/
def Pr.cholCols (p : Pr) (n : Nat) : Nat → Nat → Mat → Calc Mat
  | 0, _, c => pure c
  | m + 1, j, c => do
    let d ← (List.range j).foldlM (fun s t => p.fnma (Mat.at c j t) (Mat.at c j t) s) (Mat.at c j j)
    if p.f.infCode < p.abs d || p.abs d != d || p.isZero d then do
      modify (Rep.or · Rep.invalid)
      pure (((List.range n).filter (j ≤ ·)).foldl (fun (c : Mat) col =>
        ((List.range n).filter (col ≤ ·)).foldl (fun (c : Mat) i => Mat.put c i col p.f.nanCode) c) c)
    else do
      let c := Mat.put c j j (← p.sqrt d)
      let c ← ((List.range n).filter (j < ·)).foldlM (fun (c : Mat) i => do
        let acc ← (List.range j).foldlM (fun s t => p.fnma (Mat.at c i t) (Mat.at c j t) s) (Mat.at c i j)
        pure (Mat.put c i j (← p.div acc (Mat.at c j j)))) c
      Pr.cholCols p n m (j + 1) c

/-- TCHOL (12 R220). -/
def Pr.chol (p : Pr) (n : Nat) (c : Mat) : Calc Mat := do
  let c ← p.cholCols n n 0 c
  buildMat n n fun i j => pure (if i < j then 0 else Mat.at c i j)

end Sys2Proof.Machine
end

