-- ==== Sys2Proof/Machine/Matrix.lean ====
section
/-!
DEFINITION. Sys2Proof/Machine/Matrix.lean: tile operands and results: element values, factors, products, sums, rank rounding and the
arithmetic of each tile operation (10 R172, R173, R177 to R180, 11 R183 to R203, 12 R211 to R223, 21 R326).
-/

namespace Sys2Proof.Machine

/-! ## Formats -/

/-- Types whose tiles carry block scales (10 R177). -/
def isScaled (f : BitVec 8) : Bool := f == 6 || (12 ≤ f.toNat && f.toNat ≤ 16) || f == 18

/-- Narrow operand types of the arrays (11 R184). -/
def isNarrowTile (f : BitVec 8) : Bool := f == 10 || f == 11 || isScaled f

/-- f32 or f64. -/
def isTileFloat (f : BitVec 8) : Bool := f == 8 || f == 9

/-- Moment formats. -/
def isMomFmt (f : BitVec 8) : Bool := f == 19 || f == 20

/-- Element bytes of a packed image, which are also the offset of its scales (10 R177). -/
def packedBytes (f : BitVec 8) : Option Nat :=
  match f.toNat with
  | 14 | 15 => some 3136
  | 16 => some 2048
  | 18 => some 1024
  | _ => none

/-! ## Operands -/

/-- A tile operand: its record as the instruction saw it, and its value. -/
structure Opnd where
  r : W256
  v : TileVal
  deriving DecidableEq, Repr

/-- A zero operand. -/
def Opnd.isZ (o : Opnd) : Bool := tileTK o.r == 0
/-- A dense operand. -/
def Opnd.isD (o : Opnd) : Bool := tileTK o.r == 1
/-- A low-rank operand. -/
def Opnd.isL (o : Opnd) : Bool := tileTK o.r == 2

/-- Rows and columns of the valid region. -/
def Opnd.rows (o : Opnd) : Nat := (tileRows o.r).toNat
def Opnd.cols (o : Opnd) : Nat := (tileCols o.r).toNat
/-- Whether an element lies in the valid region. -/
def Opnd.inside (o : Opnd) (i j : Nat) : Bool := i < o.rows && j < o.cols
/-- The precision of an operand's record. -/
def Opnd.pr (o : Opnd) : Pr := Pr.of (tilePrec o.r)

/-- Entries of a map below a bound, as an array. -/
def arrayOf (m : SMap w) (n : Nat) : Array Nat :=
  m.foldl (fun (a : Array Nat) x => a.setIfInBounds x.1 x.2.toNat) (Array.replicate n 0)

/-- The stored elements of an operand. -/
def Opnd.els (o : Opnd) : Mat :=
  match o.v with
  | .dense e _ => if o.isD then arrayOf e 4096 else arrayOf (w := 64) [] 4096
  | _ => arrayOf (w := 64) [] 4096

/-- The stored scale bytes of an operand. -/
def Opnd.scales (o : Opnd) : Array Nat :=
  match o.v with
  | .dense _ s => (arrayOf s 128).map fun x => x ^^^ 0x7F
  | _ => Array.replicate 128 0x7F

/-! ## Element values (10 R172, R173, 11 R185) -/

/-- Magnitude j of row r of a codebook table (10 R174). -/
def codebookMag (cb : SMap 8) (r j : Nat) : Nat := ofBytes (SMap.getRange cb (3 * r) 3) / 2 ^ (3 * j) % 8

/-- Weight j of a CB2 index. -/
def cb2Weight (cb : SMap 8) (x j : Nat) : FV :=
  let neg := if j < 7 then x / 2 ^ (j + 1) % 2 == 1 else popCount (BitVec.ofNat 7 (x / 2)) % 2 == 1
  .fin neg (2 * codebookMag cb (x / 256 % 256) j + x % 2) (-1)

/-- The value of element bits before its block scale. -/
def tileElem (f : BitVec 8) (cb : SMap 8) (x j : Nat) : FV :=
  if f = 6 then
    let z := intVal 6 x
    .fin (z < 0) z.natAbs (-6)
  else if f = 18 then cb2Weight cb x j
  else (fmtOf (f.setWidth 5)).value x

/-- A value times its block scale. -/
def scaleBy (b scale : Nat) (v : FV) : FV :=
  if b = 0xFF || scale = 0xFF then .nan
  else match v with
    | .fin n m e => .fin n m (e + (b : Int) + (scale : Int) - 254)
    | x => x

/-- The exact value of every element: +0 outside the valid region. -/
def Opnd.values (o : Opnd) (cb : SMap 8) : Array FV :=
  let f := tileFmt o.r
  let els := o.els
  let sc := o.scales
  let base := (tileScale o.r).toNat
  ((List.range 4096).map fun k =>
    let i := k / 64
    let j := k % 64
    if !o.inside i j || !o.isD then FV.fin false 0 0
    else
      let x := if f = 18 then els.getD (k / 8) 0 else els.getD k 0
      let v := tileElem f cb x (j % 8)
      if isScaled f then scaleBy (sc.getD (2 * i + j / 32) 0x7F) base v else v).toArray

/-- The elements of a dense operand in a precision, in the first rows and columns: its bits where it has that precision, else its
values rounded once (11 R184; an f32 or f64 operand beside a factor or alone, log 31). -/
def Opnd.mat (o : Opnd) (p : Pr) (cb : SMap 8) (rows cols : Nat) : Calc Mat :=
  let same := isTileFloat (tileFmt o.r) && fmtOf ((tileFmt o.r).setWidth 5) == p.f
  let els := o.els
  let vals := if same then #[] else o.values cb
  buildMat (min rows o.rows) (min cols o.cols) fun i j =>
    if same then pure (Mat.at els i j) else Calc.step (p.f.ofFV 0 false (vals.getD (64 * i + j) .nan))

/-- A column with entries from n on made +0 (11 R183). -/
def maskVec (n : Nat) (v : Vec) : Vec := v.mapIdx fun i x => if i < n then x else 0

/-- Columns with rows from n on made +0. -/
def maskCols (n : Nat) (m : Cols) : Cols := m.map (maskVec n)

/-- Columns of a factor as stored. -/
def colsOf (m : SMap 64) (k : Nat) : Cols :=
  let a := arrayOf m (64 * k)
  ((List.range k).map fun c => ((List.range 64).map fun t => a.getD (64 * c + t) 0).toArray).toArray

/-- The factors of a low-rank operand in its own precision, its valid region applied; none for other kinds. -/
def Opnd.ownFactors (o : Opnd) : Cols × Cols :=
  match o.v with
  | .lowRank u v =>
    if o.isL then
      (maskCols o.rows (colsOf u (tileRank o.r).toNat), maskCols o.cols (colsOf v (tileRank o.r).toNat))
    else (#[], #[])
  | _ => (#[], #[])

/-- Columns taken in another precision (11 R184). -/
def castCols (src p : Pr) (m : Cols) : Calc Cols := do
  let l ← m.toList.mapM fun c => do
    let x ← c.toList.mapM fun x => Calc.step (p.f.ofFV 0 false (src.f.value x))
    pure x.toArray
  pure l.toArray

/-- The factors of an operand in a precision. -/
def Opnd.factors (o : Opnd) (p : Pr) : Calc (Cols × Cols) := do
  let (u, v) := o.ownFactors
  if o.pr == p then pure (u, v) else pure (← castCols o.pr p u, ← castCols o.pr p v)

/-! ## Results -/

/-- What a tile operation comes to: the new value of its destination, none where it stays unchanged; its RANK; what it raises;
whether it was clipped; the rank a watch sees; the bytes it writes to its buffer. -/
structure TileOut where
  val : Option TileVal := none
  rank : Nat := 0
  rep : Rep := Rep.none
  clip : Bool := false
  n : Option Nat := none
  writes : List (Int × Byte) := []
  deriving DecidableEq, Repr

/-- A dense value of elements. -/
def TileVal.ofMat (m : Mat) : TileVal := .dense (SMap.ofValues 0 (m.toList.map (BitVec.ofNat 64))) []
/-- A factor of columns. -/
def factorOf (m : Cols) : SMap 64 := SMap.ofValues 0 ((m.toList.flatMap (·.toList)).map (BitVec.ofNat 64))
/-- A low-rank value. -/
def TileVal.ofCols (u v : Cols) : TileVal := .lowRank (factorOf u) (factorOf v)

/-- Nothing changes. -/
def TileOut.keep : TileOut := {}
/-- A zero result. Its RANK is 0: the spec gives RANK for `tz` and for a rank that rounds to 0, and for no other zero result, whose
count of factor columns it leaves open (log 67). -/
def TileOut.zero : TileOut := { val := some .zero }
/-- A dense result. -/
def TileOut.ofCalc (c : Calc Mat) : TileOut :=
  let r := c.run Rep.none
  { val := some (TileVal.ofMat r.1), rep := r.2 }

/-- A dense result of rows and columns of a record. -/
def Opnd.denseOf (c : Opnd) (f : Nat → Nat → Calc Nat) : Calc Mat := buildMat c.rows c.cols f

/-- Whether every element of columns is finite. -/
def Pr.allFinite (p : Pr) (m : Cols) : Bool := m.all fun c => c.all p.finite

/-- R200: the result of a low-rank pair under a mode, for a destination record. -/
def roundL (mode : W64) (c : Opnd) (u v : Cols) (rep : Rep) : TileOut :=
  let p := c.pr
  let u := maskCols c.rows u
  let v := maskCols c.cols v
  let dense (u v : Cols) (rep : Rep) (n : Option Nat) : TileOut :=
    let r := (p.expand u v u.size c.rows c.cols #[]).run rep
    { val := some (TileVal.ofMat r.1), rep := r.2, n }
  if !(p.allFinite u && p.allFinite v) then dense u v rep none
  else
    let r := (p.recompress (modeRKM mode) (modeRKT mode).toNat u v u.size).run Rep.none
    let k := (tileKcap c.r).toNat
    if broke r.2 then dense u v (rep.or Rep.overflow) none
    else if r.1.n = 0 then { val := some .zero, rep, n := some 0 }
    else if r.1.n ≤ k then { val := some (TileVal.ofCols r.1.u r.1.v), rank := r.1.n, rep, n := some r.1.n }
    else if modePROMO mode then
      { val := some (TileVal.ofCols (r.1.u.extract 0 k) (r.1.v.extract 0 k)), rank := k, rep, clip := true, n := some r.1.n }
    else dense r.1.u r.1.v rep (some r.1.n)

/-- A low-rank result of computed factors. -/
def TileOut.ofFactors (mode : W64) (c : Opnd) (f : Calc (Cols × Cols)) : TileOut :=
  let r := f.run Rep.none
  roundL mode c r.1.1 r.1.2 r.2

/-- The expansion of an operand's factors from a start (11 R198, R199). -/
def Opnd.expandOver (c : Opnd) (uv : Cols × Cols) (start : Mat) : Calc Mat :=
  c.pr.expand uv.1 uv.2 uv.1.size c.rows c.cols start

/-- C as it enters a sum with dense elements: its elements, or its factors expanded (11 R198). -/
def Opnd.start (c : Opnd) (cb : SMap 8) : Calc Mat :=
  if c.isL then c.expandOver c.ownFactors #[] else c.mat c.pr cb c.rows c.cols

/-! ## Products (11 R197) -/

/-- A matrix of n rows times columns by sequential fused multiply-adds (10 R179). -/
def Pr.matCols (p : Pr) (n : Nat) (elem : Nat → Nat → Nat) (m : Cols) (k : Nat) : Calc Cols := do
  let l ← m.toList.mapM fun c => do
    let x ← (List.range n).mapM fun i =>
      (List.range k).foldlM (fun s t => p.fma (elem i t) (Vec.at c t) s) 0
    pure x.toArray
  pure l.toArray

/-- The product of a dense and a low-rank operand, or of two low-rank operands, as factors. -/
def lowProduct (p : Pr) (cb : SMap 8) (a b : Opnd) : Calc (Cols × Cols) := do
  if a.isD then
    let d ← a.mat p cb 64 64
    let (u, v) ← b.factors p
    pure (← p.matCols 64 (Mat.at d) u 64, v)
  else if b.isD then
    let (u, v) ← a.factors p
    let d ← b.mat p cb 64 64
    pure (u, ← p.matCols 64 (fun i t => Mat.at d t i) v 64)
  else
    let (u1, v1) ← a.factors p
    let (u2, v2) ← b.factors p
    -- M = V1ᵀ·U2, held by its columns
    let k1 := u1.size
    let k2 := u2.size
    let m ← p.matCols k1 (fun i t => Vec.at (Cols.at v1 i) t) u2 64
    if k1 ≤ k2 then
      let rows : Cols := ((List.range k1).map fun i => ((List.range k2).map fun j => Vec.at (Cols.at m j) i).toArray).toArray
      pure (u1, ← p.matCols 64 (fun i t => Vec.at (Cols.at v2 t) i) rows k2)
    else
      let cols : Cols := ((List.range k2).map fun j => ((List.range k1).map fun i => Vec.at (Cols.at m j) i).toArray).toArray
      pure (← p.matCols 64 (fun i t => Vec.at (Cols.at u1 t) i) cols k1, v2)

/-- Columns with the sign changed where neg. -/
def Pr.signed (p : Pr) (neg : Bool) (m : Cols) : Cols := if neg then m.map fun c => c.map p.flip else m

/-- C ± A·B of dense A and B (10 R178, R179). -/
def denseProduct (neg : Bool) (cb : SMap 8) (c a b : Opnd) : Calc Mat := do
  let p := c.pr
  let st ← c.start cb
  if isNarrowTile (tileFmt a.r) then
    let av := a.values cb
    let bv := b.values cb
    c.denseOf fun i j => p.elemNarrow neg (fun k =>
      if a.inside i k && b.inside k j then FV.mul (av.getD (64 * i + k) .nan) (bv.getD (64 * k + j) .nan)
      else some (.fin false 0 0)) (Mat.at st i j)
  else
    let am ← a.mat p cb 64 64
    let bm ← b.mat p cb 64 64
    c.denseOf fun i j => p.elemFma neg (fun k => Mat.at am i k) (fun k => Mat.at bm k j) (Mat.at st i j)

/-- `tmm` and `tmms` (12 R215). -/
def tileMul (mode : W64) (neg : Bool) (cb : SMap 8) (c a b : Opnd) : TileOut :=
  let p := c.pr
  if a.isZ || b.isZ then TileOut.keep
  else if a.isD && b.isD then TileOut.ofCalc (denseProduct neg cb c a b)
  else if c.isD then TileOut.ofCalc do
    let (u, v) ← lowProduct p cb a b
    c.expandOver (p.signed neg u, v) (← c.start cb)
  else TileOut.ofFactors mode c do
    let (u, v) ← lowProduct p cb a b
    let own := c.ownFactors
    pure (own.1 ++ p.signed neg u, own.2 ++ v)

/-! ## Sums, copies, scaling, transposition (12 R214, R216, R217) -/

/-- Bits with the sign changed; a NaN is the canonical one (10 R164). -/
def Pr.negated (p : Pr) (x : Nat) : Nat := if p.f.value x == .nan then p.f.nanCode else p.flip x

/-- The value with which an element of a dense operand enters a sum of two dense operands: its own in f32 and f64, rounded to C's
precision in the narrow types (12 R216). -/
def Pr.sumValue (p : Pr) (narrow : Bool) (x : FV) : Calc FV :=
  if narrow then do pure (p.f.value (← Calc.step (p.f.ofFV 0 false x))) else pure x

/-- One operand alone as the result. -/
def tileTake (mode : W64) (neg : Bool) (cb : SMap 8) (c a : Opnd) : TileOut :=
  let p := c.pr
  if a.isZ then TileOut.zero
  else if a.isL then TileOut.ofFactors mode c do
    let (u, v) ← a.factors p
    pure (p.signed neg u, v)
  else TileOut.ofCalc do
    let m ← a.mat p cb c.rows c.cols
    c.denseOf fun i j => pure (if neg then p.negated (Mat.at m i j) else Mat.at m i j)

/-- `tadd` and `tsub`. -/
def tileAdd (mode : W64) (neg : Bool) (cb : SMap 8) (c a b : Opnd) : TileOut :=
  let p := c.pr
  if b.isZ then tileTake mode false cb c a
  else if a.isZ then tileTake mode neg cb c b
  else if a.isL && b.isL then TileOut.ofFactors mode c do
    let (u1, v1) ← a.factors p
    let (u2, v2) ← b.factors p
    pure (u1 ++ p.signed neg u2, v1 ++ v2)
  else if b.isL then TileOut.ofCalc do
    let (u, v) ← b.factors p
    c.expandOver (p.signed neg u, v) (← a.mat p cb c.rows c.cols)
  else
    let bv := b.values cb
    let narrow (o : Opnd) : Bool := isNarrowTile (tileFmt o.r)
    let sum (x y : FV) : Calc Nat := Calc.step (p.f.ofOpt 0 false (FV.add 0 x (if neg then y.neg else y)))
    TileOut.ofCalc <|
      if a.isL then do
        let x ← c.expandOver (← a.factors p) #[]
        c.denseOf fun i j => do sum (p.f.value (Mat.at x i j)) (← p.sumValue (narrow b) (bv.getD (64 * i + j) .nan))
      else
        let av := a.values cb
        c.denseOf fun i j => do
          let x ← p.sumValue (narrow a) (av.getD (64 * i + j) .nan)
          sum x (← p.sumValue (narrow b) (bv.getD (64 * i + j) .nan))

/-- `tcp`: bits and scale bytes of a dense operand; a CB2 index goes whole where one of its weights lies inside. -/
def tileCopy (mode : W64) (cb : SMap 8) (c a : Opnd) : TileOut :=
  if !a.isD then tileTake mode false cb c a
  else
    let els := a.els
    let rows := min c.rows a.rows
    let cols := min c.cols a.cols
    let step := if tileFmt a.r = 18 then 8 else 1
    let keep := (List.range (4096 / step)).map fun k =>
      BitVec.ofNat 64 (if k * step / 64 < rows && k * step % 64 < cols then els.getD k 0 else 0)
    { val := some (.dense (SMap.ofValues 0 keep) (match a.v with | .dense _ s => s | _ => [])) }

/-- `tscl`. -/
def tileScaleBy (mode : W64) (cb : SMap 8) (x : W64) (c a : Opnd) : TileOut :=
  let p := c.pr
  let s := if tilePrec c.r then x.toNat else x.toNat % 2 ^ 32
  if a.isZ then TileOut.zero
  else if a.isL then TileOut.ofFactors mode c do
    let (u, v) ← a.factors p
    let l ← u.toList.mapM fun col => do
      let y ← col.toList.mapM fun e => p.mul s e
      pure y.toArray
    pure (l.toArray, v)
  else
    let vals := a.values cb
    TileOut.ofCalc (c.denseOf fun i j =>
      Calc.step (p.f.ofOpt 0 false (FV.mul (p.f.value s) (vals.getD (64 * i + j) .nan))))

/-- `ttr`. -/
def tileTr (mode : W64) (c a : Opnd) : TileOut :=
  if a.isZ then TileOut.zero
  else if a.isL then TileOut.ofFactors mode c do
    let (u, v) ← a.factors c.pr
    pure (v, u)
  else
    let els := a.els
    TileOut.ofCalc (c.denseOf fun i j => pure (if a.inside j i then Mat.at els j i else 0))

/-! ## Kinds (12 R214, 11 R203) -/

/-- `tlr` of a dense tile (11 R203). Under NONE n is the number of columns, as 11 R200 has it. -/
def tileCompress (mode : W64) (cb : SMap 8) (c : Opnd) : TileOut :=
  let p := c.pr
  let m := ((c.mat p cb 64 64).run Rep.none).1
  let b : Cols := ((List.range 64).map fun j => ((List.range 64).map fun i => Mat.at m i j).toArray).toArray
  if !p.allFinite b then TileOut.keep
  else
    let r := (do
      let (b, j) ← p.jacobi b 64 64
      let sig ← (List.range 64).mapM fun k => p.norm (Cols.at b k) 64
      pure (b, j, sig) : Calc (Cols × Cols × List Nat)).run Rep.none
    let (b, jm, sig) := r.1
    if broke r.2 then { rep := Rep.overflow }
    else
      let order := sortDesc sig.toArray 64
      let none_ := modeRKM mode = 3
      let n := if none_ then 64 else p.trunc (modeRKM mode) (modeRKT mode).toNat sig.toArray order 64
      let k := (tileKcap c.r).toNat
      let take (q : Nat) : TileVal :=
        TileVal.ofCols ((order.take q).map (Cols.at b)).toArray ((order.take q).map (Cols.at jm)).toArray
      if none_ then { n := some n }
      else if n = 0 then { val := some .zero, n := some n }
      else if n ≤ k then { val := some (take n), rank := n, n := some n }
      else if modePROMO mode then { val := some (take k), rank := k, clip := true, n := some n }
      else { n := some n }

/-- `tden`. -/
def tileDense (c : Opnd) : TileOut :=
  if c.isD then TileOut.keep
  else TileOut.ofCalc (c.expandOver c.ownFactors #[])

/-- `trnd`, and `tlr`. -/
def tileRound (mode : W64) (cb : SMap 8) (full : Bool) (c : Opnd) : TileOut :=
  if c.isL then roundL mode c c.ownFactors.1 c.ownFactors.2 Rep.none
  else if c.isD && full then tileCompress mode cb c
  else TileOut.keep

/-! ## Factorisation and solves (12 R218 to R220) -/

/-- `tlu`: the factors, and the pivot words as bytes of its buffer. -/
def tileLu (cb : SMap 8) (c : Opnd) : TileOut :=
  let n := c.rows
  let r := (do c.pr.lu n (← c.mat c.pr cb 64 64) : Calc (Mat × List Nat)).run Rep.none
  let piv := r.1.2 ++ (List.range 64).drop n
  let bytes := piv.flatMap (toBytes 4)
  { val := some (TileVal.ofMat r.1.1), rep := r.2, writes := (List.range 256).map fun (i : Nat) => ((i : Int), (bytes[i]?).getD 0) }

/-- `ttrsm.l` with pivot words, and `ttrsm.u`. -/
def tileSolve (mode : W64) (cb : SMap 8) (lower : Bool) (piv : List Nat) (c a : Opnd) : TileOut :=
  let p := c.pr
  let n := a.rows
  let am := ((a.mat p cb 64 64).run Rep.none).1
  let solve (x : Vec) : Calc Vec := if lower then p.lsolve am piv n x else p.usolve am n x
  let each (m : Cols) : Calc Cols := do
    let l ← m.toList.mapM solve
    pure l.toArray
  if c.isZ then TileOut.keep
  else if c.isL then TileOut.ofFactors mode c do
    let (u, v) := c.ownFactors
    if lower then pure (← each u, v) else pure (u, ← each v)
  else TileOut.ofCalc do
    let m ← c.mat p cb 64 64
    let vecs : Cols := ((List.range 64).map fun a => ((List.range 64).map fun b =>
      if lower then Mat.at m b a else Mat.at m a b).toArray).toArray
    let out ← each vecs
    c.denseOf fun i j => pure (if lower then Vec.at (Cols.at out j) i else Vec.at (Cols.at out i) j)

/-- `tchol`. -/
def tileChol (cb : SMap 8) (c : Opnd) : TileOut :=
  TileOut.ofCalc do c.pr.chol c.rows (← c.mat c.pr cb 64 64)

/-! ## Rows, zeros and moment products (12 R223, 21 R326) -/

/-- `vt`: row and column base, and the bits of each active lane. -/
def tileRow (cb : SMap 8) (row base : Nat) (lanes : List (Nat × Nat)) (c : Opnd) : TileOut :=
  TileOut.ofCalc do
    let m ← c.start cb
    let m := lanes.foldl (fun (m : Mat) x => Mat.put m row (base + x.1) x.2) m
    c.denseOf fun i j => pure (Mat.at m i j)

/-- Mean and variance of an element of a moment tile, widened to f32. -/
def momentElem (f : BitVec 8) (x : Nat) : Nat × Nat :=
  if f = 20 then (x % 2 ^ 16 * 2 ^ 16, x / 2 ^ 16 % 2 ^ 16 * 2 ^ 16) else (x % 2 ^ 32, x / 2 ^ 32)

/-- Elements of a moment operand: (+0, +0) outside the valid region. -/
def Opnd.moment (o : Opnd) (els : Mat) (i j : Nat) : Nat × Nat :=
  if o.inside i j then momentElem (tileFmt o.r) (Mat.at els i j) else (0, 0)

/-- One step with a moment operand. -/
def momStep (p : Pr) (a b acc : Nat × Nat) : Calc (Nat × Nat) := do
  let m ← p.fma a.1 b.1 acc.1
  let v ← p.fma a.2 b.2 acc.2
  let v ← p.fma a.2 (← p.mul b.1 b.1) v
  pure (m, ← p.fma (← p.mul a.1 a.1) b.2 v)

/-- RN(bits × value + bits), exactly; a NaN accumulator passes and raises nothing (21 R314, log 64). -/
def Pr.fmaFV (p : Pr) (a : Nat) (b : FV) (c : Nat) : Calc Nat :=
  if p.f.value c == .nan then Calc.step (.quiet p.f.nanCode)
  else match FV.mul (p.f.value a) b with
  | none => Calc.step p.f.invalid
  | some x => Calc.step (p.f.ofOpt 0 false (FV.add 0 x (p.f.value c)))

/-- One step with a deterministic operand, whose square is rounded for f32 only. -/
def detStep (p : Pr) (f32 : Bool) (a : Nat × Nat) (b : FV) (acc : Nat × Nat) : Calc (Nat × Nat) := do
  let m ← p.fmaFV a.1 b acc.1
  let sq := (FV.mul b b).getD .nan
  if f32 then do
    let bb ← Calc.step (p.f.ofFV 0 false sq)
    pure (m, ← p.fma a.2 bb acc.2)
  else pure (m, ← p.fmaFV a.2 sq acc.2)

/-- `tmm.m`: variances below zero under NVM. -/
def tileMoment (mode : W64) (cb : SMap 8) (c a b : Opnd) : TileOut :=
  let p := Pr.of false
  if a.isZ || b.isZ then TileOut.keep
  else
    let ce := c.els
    let ae := a.els
    let be := b.els
    let mom := isMomFmt (tileFmt b.r)
    let bv := if mom then #[] else b.values cb
    let step (i j : Nat) (acc : Nat × Nat) (k : Nat) : Calc (Nat × Nat) :=
      if mom then momStep p (a.moment ae i k) (b.moment be k j) acc
      else detStep p (tileFmt b.r == 8) (a.moment ae i k) (bv.getD (64 * k + j) .nan) acc
    let r := (c.denseOf fun i j => do
      let x ← (List.range 64).foldlM (step i j) (if c.isZ then (0, 0) else c.moment ce i j)
      pure (x.2 * 2 ^ 32 + x.1)).run Rep.none
    let neg (x : Nat) : Bool := let v := x / 2 ^ 32; 2 ^ 31 < v && !(p.f.value v == .nan)
    let rep := tileRep r.2
    if !r.1.any neg then { val := some (TileVal.ofMat r.1), rep }
    else
      let nvm := modeNVM mode
      { val := some (TileVal.ofMat (if nvm = 1 then r.1 else r.1.map fun x => if neg x then x % 2 ^ 32 else x))
        rep := if nvm = 2 then rep else rep.or Rep.negVar }

/-! ## Segments (11 R186) -/

/-- Segments of a value. -/
def segments (f : BitVec 8) (prec : Bool) (rank : Nat) : TileVal → Nat
  | .zero => 0
  | .lowRank _ _ => if prec then 2 * rank else rank
  | .dense _ sc =>
    let more := if sc.isEmpty then 0 else 1
    match f.toNat with
    | 9 | 19 => 64
    | 8 | 20 => 32
    | 10 | 11 => 16
    | 6 | 12 | 13 => 8 + more
    | 14 | 15 => 7
    | 16 => 4 + more
    | _ => 3

/-- The kind code of a value. -/
def TileVal.code : TileVal → BitVec 2
  | .zero => 0
  | .dense _ _ => 1
  | .lowRank _ _ => 2

/-! ## Images (12 R210) -/

/-- A row pitch: 64 for a STRIDE1 of 0. -/
def pitchOf (b : W256) : Int := if bufStride1 b = 0 then 64 else (bufStride1 b).toInt

/-- The offsets from BASE of the bytes of a dense image, in order. -/
def denseOffsets (c b : W256) (off : Int) : List Int :=
  match packedBytes (tileFmt c) with
  | some n => (List.range (n + 128)).map fun (i : Nat) => off + (i : Int)
  | none =>
    let es := (esize (tileFmt c)).getD 1
    let els := (List.range (tileRows c).toNat).flatMap fun (i : Nat) => (List.range ((tileCols c).toNat * es)).map fun (j : Nat) =>
      off + (i : Int) * pitchOf b * (es : Int) + (j : Int)
    let sc := if bufStride2 b = 0 then 4096 else (bufStride2 b).toInt
    if isScaled (tileFmt c) then els ++ (List.range 128).map fun (i : Nat) => off + sc + (i : Int) else els

/-- The offsets of the bytes of a factor image of k columns of U and V. -/
def factorOffsets (c b : W256) (off : Int) (k : Nat) : List Int :=
  let es := (esize (tileFmt c)).getD 1
  (List.range (2 * k)).flatMap fun (n : Nat) => (List.range (64 * es)).map fun (j : Nat) =>
    off + (n : Int) * pitchOf b * (es : Int) + (j : Int)

/-- Number of n bytes in an array. -/
def numAt (a : Array Byte) (i n : Nat) : Nat := ofBytes ((List.range n).map fun k => a.getD (i + k) 0)

/-- Element k of a packed image: a CB2 index, a 6-bit or a 4-bit element (10 R175). -/
def packedElem (f : BitVec 8) (a : Array Byte) (k : Nat) : Nat :=
  match f.toNat with
  | 16 => numAt a (k / 2) 1 / 2 ^ (4 * (k % 2)) % 16
  | 18 => numAt a (2 * k) 2
  | _ => numAt a (16 * (k / 21)) 16 / 2 ^ (6 * (k % 21)) % 64

/-- The value that a dense image holds (12 R211). -/
def denseOfImage (c : W256) (img : List Byte) : TileVal :=
  let f := tileFmt c
  let a := img.toArray
  let scalesAt (n : Nat) : SMap 8 := SMap.ofValues 0 ((List.range 128).map fun i => a.getD (n + i) 0x7F ^^^ 0x7F)
  match packedBytes f with
  | some n =>
    let count := if f = 18 then 512 else 4096
    .dense (SMap.ofValues 0 ((List.range count).map fun k => BitVec.ofNat 64 (packedElem f a k))) (scalesAt n)
  | none =>
    let es := (esize f).getD 1
    let rows := (tileRows c).toNat
    let cols := (tileCols c).toNat
    let els := (List.range 4096).map fun k =>
      BitVec.ofNat 64 (if k / 64 < rows && k % 64 < cols then numAt a ((k / 64 * cols + k % 64) * es) es else 0)
    .dense (SMap.ofValues 0 els) (if isScaled f then scalesAt (rows * cols * es) else [])

/-- The columns that a factor image holds. -/
def factorsOfImage (c : W256) (img : List Byte) (k : Nat) : Cols × Cols :=
  let a := img.toArray
  let es := (esize (tileFmt c)).getD 1
  let col (n : Nat) : Vec := ((List.range 64).map fun t => numAt a ((64 * n + t) * es) es).toArray
  (((List.range k).map col).toArray, ((List.range k).map fun n => col (k + n)).toArray)

/-- The bytes of a dense image of an operand (12 R213). -/
def Opnd.image (o : Opnd) (els : Mat) : List Byte :=
  let f := tileFmt o.r
  let at_ (k : Nat) : Nat := if k / 64 < o.rows && k % 64 < o.cols then els.getD k 0 else 0
  let sc := o.scales.toList.map (BitVec.ofNat 8)
  match packedBytes f with
  | some _ =>
    let body := match f.toNat with
      | 16 => (List.range 2048).map fun k => BitVec.ofNat 8 (at_ (2 * k) + 16 * at_ (2 * k + 1))
      | 18 => (List.range 512).flatMap fun k =>
          toBytes 2 (if k / 8 < o.rows && 8 * (k % 8) < o.cols then els.getD k 0 else 0)
      | _ => (List.range 196).flatMap fun w =>
          toBytes 16 ((List.range 21).foldl (fun n i =>
            if 21 * w + i < 4096 then n + at_ (21 * w + i) * 2 ^ (6 * i) else n) 0)
    body ++ sc
  | none =>
    let es := (esize f).getD 1
    let body := (List.range o.rows).flatMap fun i => (List.range o.cols).flatMap fun j => toBytes es (els.getD (64 * i + j) 0)
    if isScaled f then body ++ sc else body

/-- `tst`: the dense image of a value; `tstf`: its factor image. -/
def tileStore (cb : SMap 8) (factors : Bool) (b : W256) (off : Int) (c : Opnd) : TileOut :=
  if factors then
    let (u, v) := c.ownFactors
    let es := (esize (tileFmt c.r)).getD 1
    let bytes := (u ++ v).toList.flatMap fun col => col.toList.flatMap (toBytes es)
    { writes := (factorOffsets c.r b off u.size).zip bytes }
  else
    let r := (if c.isL then c.start cb else pure c.els : Calc Mat).run Rep.none
    { rep := r.2, writes := (denseOffsets c.r b off).zip (c.image r.1) }

end Sys2Proof.Machine
end

