-- ==== Sys2Proof/Machine/Tile.lean ====
section
/-!
DEFINITION. Sys2Proof/Machine/Tile.lean: issue of the tile instructions, their checks and interlock, and retirement: memory, the claim
of segments, and the change of the destination (11 R181 to R195, 12 R204 to R225, 21 R325, R326).
-/

namespace Sys2Proof.Machine

/-! ## Roles and checks (12 R206) -/

/-- What a record serves as: a tile read, a tile written, a buffer read, a buffer written. -/
inductive Role where
  | tr | tw | br | bw
  deriving DecidableEq, Repr

/-- A tile. -/
def Role.tile : Role → Bool
  | .tr | .tw => true
  | _ => false

/-- The records of an operation, C, A, B in order (12 R204). -/
def TileOp.roles : TileOp → List Role
  | .tld | .tldf => [.tw, .br]
  | .tst | .tstf => [.tr, .bw]
  | .tz | .trnd | .tlr | .tden | .tchol | .vt => [.tw]
  | .tcp | .tscl | .ttr | .ttrsmU => [.tw, .tr]
  | .tmm | .tmms | .tadd | .tsub | .tmmM => [.tw, .tr, .tr]
  | .tlu => [.tw, .bw]
  | .ttrsmL => [.tw, .tr, .br]

/-- Check 1 of a record (06 R109, 12 R210, R218, R219): c is the tile record C. -/
def roleCheck (op : TileOp) (c : W256) : Role × W256 → Option (BitVec 9)
  | (.tr, r) => if recKind r ≠ 2 then some cREC_KIND else if 20 < (tileFmt r).toNat then some cREC_FORMAT else none
  | (.tw, r) =>
    if recKind r ≠ 2 then some cREC_KIND else if 20 < (tileFmt r).toNat then some cREC_FORMAT
    else if recRO r then some cREC_PERM else none
  | (role, r) =>
    let fmtOk (f : BitVec 8) : Bool := match op with
      | .tlu | .ttrsmL => f == 1
      | _ => f == tileFmt c
    let packed := match op with
      | .tld | .tst => (packedBytes (tileFmt c)).isSome && (bufStride1 r != 0 || bufStride2 r != 0)
      | _ => false
    match checkBuf r fmtOk noBankSpace false false with
    | some x => some x
    | none => if packed then some cREC_VALUE else if role == .bw && recRO r then some cREC_PERM else none

/-- Check 2 of a tile record (11 R182). -/
def recordCheck (r : W256) : Bool :=
  tileTK r != 3 && tileKcap r != 0 && tileRows r != 0 && (tileRows r).toNat ≤ 64 && tileCols r != 0 &&
    (tileCols r).toNat ≤ 64 && tileMom r == isMomFmt (tileFmt r) && !(tileMom r && tileTK r == 2)

/-- Formats and precisions that hold for every tile (11 R184, 21 R325). -/
def formatOk (mom : Bool) (r : W256) : Bool :=
  let f := tileFmt r
  if isMomFmt f then mom && !(f == 19 && tilePrec r)
  else (isTileFloat f || isNarrowTile f) && (!isTileFloat f || tilePrec r == (f == 9)) && (tileTK r != 2 || isTileFloat f)

/-- Operations that accept a moment tile (21 R325). -/
def TileOp.moment : TileOp → Bool
  | .tld | .tst | .tstf | .tz | .tcp | .tmmM => true
  | _ => false

/-- The formats an operation asks of its records C, A, B (11 R184, 12 R212 to R223, 21 R326). -/
def TileOp.formats (op : TileOp) (c a b : W256) : Bool :=
  let fc := tileFmt c
  let fa := tileFmt a
  let fb := tileFmt b
  let dense (r : W256) : Bool := tileTK r == 1
  match op with
  | .tld | .tst | .tstf | .tz => true
  | .tcp => fa == fc && tileMom a == tileMom c && tilePrec a == tilePrec c
  | .tmm | .tmms =>
    isTileFloat fc && (!(dense a && dense b) || (isNarrowTile fa && isNarrowTile fb) || (fa == fc && fb == fc))
  | .ttr => isTileFloat fc && (!dense a || fa == fc)
  | .ttrsmL | .ttrsmU => isTileFloat fc && fa == fc
  | .tmmM =>
    fc == 19 && isMomFmt fa && (isMomFmt fb || (tileTK b != 2 && (isNarrowTile fb || fb == 8)))
  | _ => isTileFloat fc

/-- Whether the kinds are those an operation requires. -/
def TileOp.kinds (op : TileOp) (c a : W256) : Bool :=
  match op with
  | .tstf => tileTK c != 1
  | .tlu | .tchol => tileTK c == 1
  | .ttrsmL | .ttrsmU => tileTK a == 1
  | _ => true

/-- Whether the valid region that must be square is. -/
def TileOp.square (op : TileOp) (c a : W256) : Bool :=
  match op with
  | .tlu | .tchol => tileRows c == tileCols c
  | .ttrsmL | .ttrsmU => tileRows a == tileCols a
  | _ => true

/-- The operand of `tv` and `vt`: a row, and a column base such that every lane has a column (12 R221). -/
def rowOk (x : W64) (width : Nat) : Bool :=
  x &&& ~~~0x3F3F == 0 && (field x 8 6 : BitVec 6).toNat + width ≤ 64

/-- Columns of a factor image that a load reads (12 R212). -/
def factorCount (c : W256) : Nat := if tileTK c == 1 then 0 else (tileRank c).toNat

/-- The bytes of its buffer that an operation touches, by their offsets from BASE. -/
def TileOp.offsets (op : TileOp) (snaps : List W256) (x : W64) : List Int :=
  let c := (snaps[0]?).getD 0
  let a := (snaps[1]?).getD 0
  let words : List Int := (List.range 256).map fun (i : Nat) => (i : Int)
  match op with
  | .tld | .tst => denseOffsets c a x.toNat
  | .tldf => factorOffsets c a x.toNat (factorCount c)
  | .tstf => factorOffsets c a x.toNat (if tileTK c == 2 then (tileRank c).toNat else 0)
  | .tlu => words
  | .ttrsmL => if tileTK c == 0 then [] else words
  | _ => []

/-- The buffer of an operation. -/
def TileOp.buffer (op : TileOp) (snaps : List W256) : W256 :=
  match op with
  | .ttrsmL => (snaps[2]?).getD 0
  | _ => (snaps[1]?).getD 0

/-- Check 7: the first byte that its bounds refuse (06 R107). -/
def State.boundsFault (s : State) (r : W256) : List Int → Option (BitVec 9 × W64)
  | [] => none
  | b :: t => match s.byteAcc r b with
    | .error f => some f
    | .ok _ => State.boundsFault s r t

/-- The first failing check of an operation with its scalar operand (12 R206). Where check 1 fails on several records, or in several
ways, the spec does not say which cause is raised: the records are taken in the order C, A, B, and of one record KIND, FMT, SPACE,
SCOPE and RO in this order (log 66). -/
def State.tileFault (s : State) (op : TileOp) (snaps : List W256) (x : W64) : Option (BitVec 9 × W64) :=
  let c := (snaps[0]?).getD 0
  let a := (snaps[1]?).getD 0
  let b := (snaps[2]?).getD 0
  let l := op.roles.zip snaps
  let tiles := (l.filter fun p => p.1.tile).map (·.2)
  match l.findSome? (roleCheck op c) with
  | some e => some (e, 0)
  | none =>
    if !tiles.all recordCheck then some (cTILE_RECORD, 0)
    else if !(tiles.all (formatOk op.moment) && op.formats c a b) then some (cTILE_FORMAT, 0)
    else if !op.kinds c a then some (cTILE_KIND, 0)
    else if !op.square c a then some (cTILE_SHAPE, 0)
    else if op == .tz && (tileKcap c).toNat < x.toNat then some (cTILE_VALUE, 0)
    else if op == .vt && !rowOk x s.width then some (cTILE_VALUE, 0)
    else s.boundsFault (op.buffer snaps) (op.offsets snaps x)

/-! ## The interlock (11 R193) -/

/-- Every operation of the gang in focus, in flight or in a replay queue. -/
def State.gangEntries (s : State) : List Entry := (s.grp :: s.peers).flatMap fun g => g.outstanding

/-- The tile records that an operation names. -/
def Entry.tiles (e : Entry) : List (BitVec 10) :=
  if e.op.isTile then ((e.recs.zip e.snaps).filter fun p => recKind p.2 == 2).map (·.1) else []

/-- No tile operation of the gang that has not retired names one of the records. -/
def State.interlockFree (s : State) (l : List (BitVec 10)) : Bool :=
  s.gangEntries.all fun e => !(e.tiles.any fun n => l.contains n)

/-- The page on which an operation that holds the interlock is held. -/
def State.interlockHeld (s : State) (l : List (BitVec 10)) : Option W64 :=
  (s.gangEntries.find? fun e => e.held.isSome && e.tiles.any fun n => l.contains n).bind (·.held)

/-! ## Issue (12 R205 to R207) -/

/-- A counted tile operation on records, with a scalar operand and vector registers it reads. Whether vA of `vt` counts as a pair
where record C is no tile record, the spec does not say: bits [39:32] of the record are taken as FMT whatever its kind, so that an odd
vA may be REG_RANGE there (log 60). -/
def State.tileOp (s : State) (i : Instr) (op : TileOp) (recs : List (BitVec 8)) (b : Option (BitVec 6)) (va : Option (BitVec 7)) :
    State :=
  let recs : List (BitVec 10) := recs.map fun n => n.setWidth 10
  let snaps := recs.map s.record
  let free := s.interlockFree (((op.roles.zip recs).filter fun p => p.1.tile).map (·.2))
  let pair := free && tileFmt ((snaps[0]?).getD 0) == 9
  let vregs : List Reg := match va with
    | none => []
    | some v => if pair then [.v v.toNat, .v (v.toNat + 1)] else [.v v.toNat]
  let ok := match va with | some v => !(pair && v.toNat % 2 == 1) | none => true
  let regs : List Reg := (match b with | some r => [.s r] | none => []) ++ vregs
  s.issue { ok, reads := regs.map fun r => (r, false), ready := free && s.grp.room 4, park := s.interlockHeld recs } fun s =>
    let x := match b with | some r => s.readS r | none => 0
    match s.tileFault op snaps x with
    | some (c, va) => s.trapVa c va
    | none =>
      let blocks := match va with
        | none => []
        | some v => if pair then [s.grp.block v.toNat, s.grp.block (v.toNat + 1)] else [s.grp.block v.toNat]
      let e := { s.newEntry i (.tile op) with
        snaps, recs, scal := (match b with | some _ => [x] | none => []), blocks, seq := s.order,
        codebook := s.gang.codebook, watch := s.selected [6] }
      ({ s with order := s.order + 1 }.sendEngine e 4).countSkid e

def execTld (c a : BitVec 8) (b : BitVec 6) (s : State) : Out := .next (s.tileOp (.tld c a b) .tld [c, a] (some b) none)
def execTldf (c a : BitVec 8) (b : BitVec 6) (s : State) : Out := .next (s.tileOp (.tldf c a b) .tldf [c, a] (some b) none)
def execTst (c a : BitVec 8) (b : BitVec 6) (s : State) : Out := .next (s.tileOp (.tst c a b) .tst [c, a] (some b) none)
def execTstf (c a : BitVec 8) (b : BitVec 6) (s : State) : Out := .next (s.tileOp (.tstf c a b) .tstf [c, a] (some b) none)
def execTmm (c a b : BitVec 8) (s : State) : Out := .next (s.tileOp (.tmm c a b) .tmm [c, a, b] none none)
def execTmms (c a b : BitVec 8) (s : State) : Out := .next (s.tileOp (.tmms c a b) .tmms [c, a, b] none none)
def execTadd (c a b : BitVec 8) (s : State) : Out := .next (s.tileOp (.tadd c a b) .tadd [c, a, b] none none)
def execTsub (c a b : BitVec 8) (s : State) : Out := .next (s.tileOp (.tsub c a b) .tsub [c, a, b] none none)
def execTz (c : BitVec 8) (b : BitVec 6) (s : State) : Out := .next (s.tileOp (.tz c b) .tz [c] (some b) none)
def execTcp (c a : BitVec 8) (s : State) : Out := .next (s.tileOp (.tcp c a) .tcp [c, a] none none)
def execTscl (c a : BitVec 8) (b : BitVec 6) (s : State) : Out := .next (s.tileOp (.tscl c a b) .tscl [c, a] (some b) none)
def execTtr (c a : BitVec 8) (s : State) : Out := .next (s.tileOp (.ttr c a) .ttr [c, a] none none)
def execTrnd (c : BitVec 8) (s : State) : Out := .next (s.tileOp (.trnd c) .trnd [c] none none)
def execTlr (c : BitVec 8) (s : State) : Out := .next (s.tileOp (.tlr c) .tlr [c] none none)
def execTden (c : BitVec 8) (s : State) : Out := .next (s.tileOp (.tden c) .tden [c] none none)
def execTlu (c a : BitVec 8) (s : State) : Out := .next (s.tileOp (.tlu c a) .tlu [c, a] none none)
def execTtrsmL (c a b : BitVec 8) (s : State) : Out := .next (s.tileOp (.ttrsmL c a b) .ttrsmL [c, a, b] none none)
def execTtrsmU (c a : BitVec 8) (s : State) : Out := .next (s.tileOp (.ttrsmU c a) .ttrsmU [c, a] none none)
def execTchol (c : BitVec 8) (s : State) : Out := .next (s.tileOp (.tchol c) .tchol [c] none none)
def execTmmM (c a b : BitVec 8) (s : State) : Out := .next (s.tileOp (.tmmM c a b) .tmmM [c, a, b] none none)
/-- `vt` (12 R223): vA, or a pair for f64, read at issue. -/
def execVt (c : BitVec 8) (a : BitVec 7) (b : BitVec 6) (s : State) : Out := .next (s.tileOp (.vt c a b) .vt [c] (some b) (some a))

/-! ## Operands and results -/

/-- The value of a tile of the gang. -/
def Gang.tile (g : Gang) (n : Nat) : TileVal := ((g.tiles.find? fun p => p.1 == n).map (·.2)).getD .zero

/-- Operand k of an operation: the interlock keeps its tile as it stood at issue. -/
def State.opnd (s : State) (e : Entry) (k : Nat) : Opnd :=
  { r := e.snap k, v := s.gang.tile ((e.recs[k]?).getD 0).toNat }

/-- What a tile operation comes to, given the bytes it read. -/
def State.tileResult (s : State) (e : Entry) (op : TileOp) (img : List Byte) : TileOut :=
  let c := s.opnd e 0
  let a := s.opnd e 1
  let b := s.opnd e 2
  let cb := e.codebook
  let m := e.mode
  let x := e.sc 0
  match op with
  | .tld => { val := some (denseOfImage c.r img) }
  | .tldf =>
    let k := factorCount c.r
    if k = 0 then TileOut.zero else let f := factorsOfImage c.r img k; roundL m c f.1 f.2 Rep.none
  | .tst => tileStore cb false a.r x.toNat c
  | .tstf => tileStore cb true a.r x.toNat c
  | .tz => { val := some .zero, rank := x.toNat }
  | .tcp => tileCopy m cb c a
  | .tmm => tileMul m false cb c a b
  | .tmms => tileMul m true cb c a b
  | .tadd => tileAdd m false cb c a b
  | .tsub => tileAdd m true cb c a b
  | .tscl => tileScaleBy m cb x c a
  | .ttr => tileTr m c a
  | .trnd => tileRound m cb false c
  | .tlr => tileRound m cb true c
  | .tden => tileDense c
  | .tlu => tileLu cb c
  | .ttrsmL => tileSolve m cb true ((List.range 64).map fun k => numAt img.toArray (4 * k) 4) c a
  | .ttrsmU => tileSolve m cb false [] c a
  | .tchol => tileChol cb c
  | .tmmM => tileMoment m cb c a b
  | .vt =>
    let bits (l : Nat) : Nat := if tileFmt c.r == 9 then (e.blk 1 l ++ e.blk 0 l).toNat else (e.blk 0 l).toNat
    tileRow cb (field x 0 6 : BitVec 6).toNat (field x 8 6 : BitVec 6).toNat ((lanesOf e.active).map fun l => (l, bits l)) c

/-! ## Memory of a tile operation (12 R208) -/

/-- The outcome of an engine's pass over bytes. -/
inductive Pass (α : Type) where
  | ok (e : Entry) (x : α) (s : State)
  | held (e : Entry) (s : State)
  | fault (e : Entry) (s : State)

/-- Bytes of an image read, each with its place in the image and its offset from BASE, and kept (08 R155). -/
def State.readImage (r : W256) : List (Nat × Int) → Entry → State → Pass Unit
  | [], e, s => .ok e () s
  | (i, b) :: t, e, s =>
    match s.engineRead e (s.byteAcc r b) b.toNat 6 with
    | (none, e, s) => .held e s
    | (some x, e, s) =>
      if e.err ≠ 0 then .fault e s
      else State.readImage r t
        { e with result := e.result.set i ((x.getD 0).setWidth 64), landed := addLanded i 1 e.landed } s

/-- Every byte that a store has still to write translated, before any more is written (18 R281). -/
def State.placeImage (r : W256) : List (Nat × Int × Byte) → List (Nat × Acc × Byte) → Entry → State →
    Pass (List (Nat × Acc × Byte))
  | [], acc, e, s => .ok e acc.reverse s
  | (i, b, x) :: t, acc, e, s =>
    match s.byteAcc r b with
    | .error (c, va) => .fault (e.faulted c b.toNat va) s
    | .ok a =>
      match s.engineXlat e a true b.toNat 6 with
      | (.held, s) => .held (e.heldAt a.addr b.toNat) s
      | (.fault c va, s) => .fault (e.faulted c b.toNat va) s
      | (.at_ a, s) => State.placeImage r t ((i, a, x) :: acc) e s

/-- Bytes written until another module refuses one (08 R155). -/
def State.writeImage (r : W256) : List (Nat × Acc × Byte) → Entry → State → Entry × State
  | [], e, s => (e, s)
  | (i, a, x) :: t, e, s =>
    match s.writeAcc a [x] with
    | (some c, s) => (e.faulted c (a.addr - bufBase r).toNat a.addr, s)
    | (none, s) => State.writeImage r t { e with landed := addLanded i 1 e.landed } s

/-- Bytes of one element of an image, of which no reader sees a part (08 R143): one of a packed image. -/
def TileOp.unit (op : TileOp) (snaps : List W256) : Nat :=
  let f := tileFmt ((snaps[0]?).getD 0)
  match op with
  | .tlu | .ttrsmL => 4
  | _ => if (packedBytes f).isSome then 1 else (esize f).getD 1

/-! ## Claims (11 R188 to R190) -/

/-- Segments in use by a gang. -/
def Gang.inUse (g : Gang) : Nat :=
  g.window.foldl (fun n x => if recKind x.2 == 2 then n + (tileSegs x.2).toNat else n) 0

/-- Segments that operations of the gang have claimed and not yet written. -/
def State.claimedSegs (s : State) (me : Nat) : Nat :=
  s.gangEntries.foldl (fun n e => if e.seq = me && e.op.isTile then n else n + e.claimed.getD 0) 0

/-- Whether an operation writes a tile. -/
def TileOp.writesTile : TileOp → Bool
  | .tst | .tstf => false
  | _ => true

/-- Every tile operation that the gang issued earlier, in flight or in a replay queue, has claimed or failed. -/
def State.claimTurn (s : State) (e : Entry) : Bool :=
  s.gangEntries.all fun x =>
    match x.op with
    | .tile op => !(op.writesTile && x.seq < e.seq && x.claimed.isNone && !x.failed)
    | _ => true

/-- The segments a result claims: none where it reuses the destination's, or where nothing is written. -/
def claimOf (r : W256) (f : BitVec 8) (prec : Bool) (o : TileOut) : Nat × Nat :=
  match o.val with
  | none => (0, 0)
  | some v =>
    let need := segments f prec o.rank v
    (need, if need ≤ (tileSegs r).toNat then 0 else need)

/-! ## Retirement (11 R194, 12 R207 to R209) -/

/-- Results of arithmetic, which carry SCALE 0x7F (11 R185). -/
def TileOp.arithmetic : TileOp → Bool
  | .tld | .tldf | .tst | .tstf | .tz | .tcp => false
  | _ => true

/-- A destination record after its change. -/
def tileChange (r : W256) (arith : Bool) (o : TileOut) (v : TileVal) (need base : Nat) : W256 :=
  let r := putField (putField (putField (putField r 40 v.code) 42 (BitVec.ofNat 5 o.rank)) 54 (BitVec.ofNat 12 base)) 66
    (BitVec.ofNat 12 need)
  bumpGen (if arith then putField r 92 (0x7F : BitVec 8) else r)

/-- The tile of record n replaced. -/
def Gang.setTile (g : Gang) (n : Nat) (v : TileVal) : Gang :=
  let rest := g.tiles.filter fun p => p.1 != n
  { g with tiles := (match v with | .zero => rest | _ => (n, v) :: rest), badTiles := g.badTiles.filter (· != n) }

/-- The change of an operation's destination: nothing where its record is no tile record any more. -/
def State.writeTile (s : State) (e : Entry) (op : TileOp) (o : TileOut) : State :=
  match o.val with
  | none => s
  | some v =>
    let n := (e.recs.head?).getD 0
    let r := s.record n
    if recKind r ≠ 2 || 256 ≤ n.toNat then s
    else
      let (need, claim) := claimOf r (tileFmt (e.snap 0)) (tilePrec (e.snap 0)) o
      let (i, s) := if claim = 0 then (0, s) else s.fresh
      let base := if need = 0 then 0 else if claim = 0 then (tileSegbase r).toNat else (Config.segBase i).toNat
      { s with gang := { s.gang.setTile n.toNat v with
          window := s.gang.window.set n.toNat (tileChange r op.arithmetic o v need base) } }

/-- An operation completes: no longer in flight, counted as completed (06 R123). -/
def State.endCounted (s : State) (e : Entry) : State :=
  let s := s.dropEntry e.id
  { s with grp := s.grp.complete e.id }

/-- The rank a watch sees: the match counts once, for the split as a whole (22 R332, R334). -/
def State.watchRank (s : State) (e : Entry) (n : Nat) : State :=
  if s.grp.frame.active || s.grp.killed then s
  else
    let l := (e.watch.filter fun w => wLanes w.2 &&& e.mask != 0).map fun w => (w.1, putField w.2 64 (BitVec.allOnes 64))
    let (s1, fs) := s.evaluate [(6, [(63, BitVec.ofNat 64 n)])] l
    s1.actOn fs e.split (s.grp.skidOf e (lowestBit e.mask)) e.pc

/-- An operation retires with its result: the change, the flags, the log, the sticky flags, the watch. -/
def State.retireWith (s : State) (e : Entry) (op : TileOp) (o : TileOut) : State :=
  let s := s.writeTile e op o
  let rep := if op == .tmmM then o.rep else tileRep o.rep
  let s := ({ s with k := e.split }).reportAs e.id [(63, rep)] e.pc
  let s := { s with grp := { s.grp with tsf := s.grp.tsf ||| (if o.clip then 2 else 0) } }
  let s := s.endCounted e
  match o.n with
  | some n => s.watchRank e n
  | none => s

/-- An operation ended by a fault: it retires unchanged, its trap due at the next boundary (12 R208). -/
def State.retireFaulted (s : State) (e : Entry) : State := (s.endCounted e).pend (e.due false)

/-- A claim that fails (11 R190): with TOVF 0 the operation stays, its trap due; a killed group loses it; with TOVF 1
it retires unchanged. -/
def State.noSpace (s : State) (e : Entry) : State :=
  if modeTOVF e.mode then
    let s := { s with grp := { s.grp with tsf := s.grp.tsf ||| 1 } }
    s.endCounted e
  else s.failEntry { e with err := cTILE_NOSPACE, failed := true }

/-- The bytes an operation kept. -/
def Entry.keptBytes (e : Entry) (n : Nat) : List Byte := (List.range n).map fun i => (e.result.get i).setWidth 8

/-- A step of an engine on a tile operation: whether it moves byte i of the image: those of so many elements from one on, or all. -/
def partHas (unit : Nat) (part : Option (Nat × Nat)) (i : Nat) : Bool :=
  match part with
  | some (first, n) => n = 0 || (first * unit ≤ i && i < (first + n) * unit)
  | none => true

/-- A step that moves elements of the image, and does not retire its operation. -/
def movesPart (part : Option (Nat × Nat)) : Bool := match part with | some (_, n) => n != 0 | none => false

/-- The result known: the claim, then the writes and the retirement, or less where the step is a part. -/
def State.claimAndRetire (s : State) (e : Entry) (op : TileOp) (img : List Byte) (part : Option (Nat × Nat)) : State :=
  let o := s.tileResult e op img
  let r := s.record ((e.recs.head?).getD 0)
  let claim := (claimOf r (tileFmt (e.snap 0)) (tilePrec (e.snap 0)) o).2
  let free := s.gang.pool.toNat - s.gang.inUse - s.claimedSegs e.seq
  if e.claimed.isNone && free < claim then s.noSpace e
  else
    let e := { e with claimed := some (e.claimed.getD claim) }
    if part.isSome && !movesPart part then s.updEntry e
    else
      let todo := ((List.range o.writes.length).zip o.writes).filter fun q => !e.hasLanded q.1
      match State.placeImage (op.buffer e.snaps) todo [] e s with
      | .held e s => s.updEntry e
      | .fault e s => s.retireFaulted e
      | .ok e l s =>
        let (e, s) := State.writeImage (op.buffer e.snaps) (l.filter fun q => partHas (op.unit e.snaps) part q.1) e s
        if e.err ≠ 0 then s.retireFaulted e else if part.isSome then s.updEntry e else s.retireWith e op o

/-- Whether an operation reads its buffer. -/
def TileOp.reads : TileOp → Bool
  | .tld | .tldf | .ttrsmL => true
  | _ => false

/-- Whether an operation reads the tile it writes. -/
def TileOp.readsDest : TileOp → Bool
  | .tmm | .tmms | .trnd | .tlr | .tden | .tlu | .ttrsmL | .ttrsmU | .tchol | .tmmM | .vt => true
  | _ => false

/-- The first tile that an operation reads and whose segments cannot be corrected (23 R363). -/
def State.badOperand (s : State) (e : Entry) (op : TileOp) : Option Nat :=
  ((op.roles.zip e.recs).find? fun q =>
    (q.1 == .tr || (q.1 == .tw && op.readsDest)) && s.gang.badTiles.contains q.2.toNat).map fun q => q.2.toNat

/-- A tile that cannot be read reported. -/
def State.reportTile (s : State) (n : Nat) : State :=
  { s with replies := s.replies ++ [.uncorrectableTile s.gang.ref s.gang.die s.gang.core n] }

/-- A tile operation goes on: its bytes are read, it claims in its turn, its bytes are written, and it retires; or as far as a part
says (08 R155, 11 R189, R194, 12 R207, R208). One that reads a tile that cannot be corrected retires faulted (23 R363, log 77). -/
def State.runTile (s : State) (e : Entry) (op : TileOp) (part : Option (Nat × Nat)) : State :=
  let e := s.retrying e
  let reading := op.reads && movesPart part
  if e.err ≠ 0 || e.held.isSome || (op.writesTile && !reading && !s.claimTurn e) || (part.isSome && !movesPart part && !op.writesTile)
  then s
  else match s.badOperand e op with
  | some n => (s.reportTile n).retireFaulted (e.faulted cMEM_UNCORR 0 0)
  | none =>
    let offs := if op.reads then op.offsets e.snaps (e.sc 0) else []
    let todo := ((List.range offs.length).zip offs).filter fun q => partHas (op.unit e.snaps) part q.1 && !e.hasLanded q.1
    match State.readImage (op.buffer e.snaps) todo e s with
    | .held e s => s.updEntry e
    | .fault e s => s.retireFaulted e
    | .ok e _ s => if reading then s.updEntry e else s.claimAndRetire e op (e.keptBytes offs.length) part

/-- A tile operation retires; or only elements of its image are read or written, so many from one on, or none, and its segments
claimed (95, 08 R155). -/
def execTileRetirement (g : GroupRef) (id : Nat) (part : Option (Nat × Nat)) (s : State) : Out :=
  .next <| s.onGroup g fun s =>
    match s.grp.entry id with
    | some e => match e.op with
      | .tile op => s.runTile e op part
      | _ => s
    | none => s

/-! ## Rows of a tile in registers (12 R221, R222) -/

/-- Whether `tv` writes a pair. -/
def tvPair (r : W256) : Bool := tileFmt r == 9 || (tileTK r != 1 && tilePrec r)

/-- Element (row, j) of an operand as `tv` gives it. Its own roundings raise nothing: R180 tells of results of tile operations, and
whether those of `tv` reach AEF the spec does not say (log 63). -/
def tvElem (o : Opnd) (cb : SMap 8) (row j : Nat) : Nat :=
  if !o.inside row j || o.isZ then 0
  else if o.isD then
    if isTileFloat (tileFmt o.r) then Mat.at o.els row j
    else (fmtF32.ofFV 0 false ((o.values cb).getD (64 * row + j) .nan)).val
  else
    let (u, v) := o.ownFactors
    (((List.range u.size).foldlM (fun s t => o.pr.fma (Vec.at (Cols.at u t) row) (Vec.at (Cols.at v t) j) s) 0 :
      Calc Nat).run Rep.none).1

/-- The checks of `tv`: those of a tile read, and no moment tile. -/
def State.tvFault (s : State) (r : W256) (x : W64) : Option (BitVec 9) :=
  match roleCheck .tcp r (.tr, r) with
  | some c => some c
  | none =>
    if !recordCheck r then some cTILE_RECORD
    else if !formatOk false r then some cTILE_FORMAT
    else if !rowOk x s.width then some cTILE_VALUE
    else none

/-- `tv`: the values are those at issue; the register fills when the operation completes. A tile that cannot be corrected gives none, and
traps as a load does (23 R363, log 77). -/
def execTv (d : BitVec 7) (a : BitVec 8) (b : BitVec 6) (s : State) : Out :=
  .next <|
    let n : BitVec 10 := a.setWidth 10
    let r := s.record n
    let free := s.interlockFree [n]
    let pair := free && tvPair r && (s.tvFault r 0).isNone
    let count := if pair then 2 else 1
    s.issue { ok := !(pair && d.toNat % 2 == 1), reads := [(.s b, false)], writes := (Dest.vec d.toNat count).regs
              ready := free, park := s.interlockHeld [n] } fun s =>
      let x := s.readS b
      match s.tvFault r x with
      | some c => s.trap c
      | none =>
        let o : Opnd := { r, v := s.gang.tile n.toNat }
        let base := (field x 8 6 : BitVec 6).toNat
        let row := (field x 0 6 : BitVec 6).toNat
        let vals := s.lanes.foldl (fun (m : SMap 64) l => m.set l (BitVec.ofNat 64 (tvElem o s.gang.codebook row (base + l)))) []
        let e := { s.newEntry (.tv d a b) .tv with
          snaps := [r], recs := [n], scal := [x], dest := Dest.vec d.toNat count, result := vals }
        let s := { s with grp := (s.grp.markAll true e.dest.regs).bump }
        if s.gang.badTiles.contains n.toNat then ((s.reportTile n.toNat).launchEntry { e with err := cMEM_UNCORR }).advance
        else (s.launchEntry e).advance

/-! ## Inspection (12 R224, R225) -/

/-- An instruction that waits for the interlock of a tile record, and traps where it is no tile record of a known format (12 R206,
R224, R225), or an mf32 moment tile with PREC 1 (21 R325). -/
def State.inspect (s : State) (n : BitVec 8) (writes : List Reg) (f : State → W256 → State) : State :=
  let n : BitVec 10 := n.setWidth 10
  s.issue { writes, ready := s.interlockFree [n], park := s.interlockHeld [n] } fun s =>
    let r := s.record n
    if recKind r ≠ 2 then s.trap cREC_KIND
    else if 20 < (tileFmt r).toNat then s.trap cREC_FORMAT
    else if tileMom r && tileFmt r == 19 && tilePrec r then s.trap cTILE_FORMAT
    else (f s r).advance

/-- The summary of `tinfo`. -/
def tileInfo (r : W256) : W64 :=
  putField (putField (putField (putField (putField (putField (putField (0 : W64) 26 (recGen r)) 14 (tileSegs r)) 13
    (bit (tilePrec r))) 12 (bit (tileMom r))) 7 (tileKcap r)) 2 (tileRank r)) 0 (tileTK r)

/-- `tinfo`. -/
def execTinfo (d : BitVec 6) (n : BitVec 8) (s : State) : Out :=
  .next (s.inspect n [.s d] fun s r => s.writeS d (tileInfo r))

/-- `tls`: shadow planes change timing only (11 R196). -/
def execTls (n : BitVec 8) (s : State) : Out := .next (s.inspect n [] fun s _ => s)

end Sys2Proof.Machine
end

