-- ==== Sys2Proof/Machine/Pool.lean ====
section
/-!
DEFINITION. Sys2Proof/Machine/Pool.lean: the tile-store pool: tsal, tsal.nw and tsfr, and the allocator's grants and refusals;
the control blocks of queues; blocking points (11 R188, R192, 12 R226, 14 R238, R243).
-/

namespace Sys2Proof.Machine

/-! ## Segments reserved on a core (11 R188) -/

/-- Segments of a core. -/
def coreSegments : Nat := 4096

/-- The gangs resident on a core. -/
def State.gangsOn (s : State) (die : BitVec 3) (core : BitVec 7) : List Resident :=
  s.residents.filter fun r => r.gang.die == die && r.gang.core == core

/-- Segments of a core that no resident gang reserves. -/
def State.unreserved (s : State) (die : BitVec 3) (core : BitVec 7) : Nat :=
  coreSegments - ((s.gangsOn die core).map fun r => r.gang.pool.toNat).sum

/-- A request for more segments than the core could ever give the gang (11 R192). -/
def Gang.overPool (g : Gang) (n : Nat) : Bool := coreSegments < g.pool.toNat + n

/-- The gang in focus with n more segments. -/
def State.growPool (s : State) (n : Nat) : State :=
  { s with gang := { s.gang with pool := s.gang.pool + BitVec.ofNat 13 n } }

/-! ## Waiting requests -/

/-- A waiting tsal: its group, its split, its request and its place in the order of arrival. -/
structure PoolWait where
  g : GroupRef
  k : BitVec 2
  request : Nat
  order : Nat
  deriving DecidableEq, Repr

/-- The waiting requests of a group. Of a group in a trap handler, whose trapped splits are in its frame, there are none until its `rte`
(11 R192 and 18 R289 do not say whether such a wait can be granted, log 78). -/
def Group.poolWaits (r : Gang) (g : Group) : List PoolWait :=
  g.splits.list.filterMap fun q =>
    match q.2.st with
    | .inTsal _ n order =>
      if q.2.isFree || q.2.held then none
      else some { g := { gang := { vf := r.vf, seq := r.seq, gang := r.idx }, group := g.idx }, k := q.1, request := n.toNat, order }
    | _ => none

/-- The waiting requests of a core. -/
def State.poolWaits (s : State) (die : BitVec 3) (core : BitVec 7) : List PoolWait :=
  (s.gangsOn die core).flatMap fun r => r.groups.flatMap fun g => g.poolWaits r.gang

/-- Whether a request that arrived earlier on the core of the gang in focus fits (11 R192). -/
def State.earlierFits (s : State) (order : Nat) : Bool :=
  let free := s.unreserved s.gang.die s.gang.core
  (s.poolWaits s.gang.die s.gang.core).any fun w => w.order < order && w.request ≤ free

/-! ## The control block (14 R238) -/

/-- Word i of a control block: HEAD, CLAIM, TAIL, DEP, PUSHT in two, PAVAIL. -/
def State.ctl (s : State) (c : BitVec 29) (i : Nat) : W32 := BitVec.ofNat 32 (s.bankWord (c + BitVec.ofNat 29 (4 * i)) 4)
/-- Word i of a control block written. -/
def State.setCtl (s : State) (c : BitVec 29) (i : Nat) (x : W32) : State :=
  s.writeBank (c + BitVec.ofNat 29 (4 * i)) (toBytes 4 x.toNat)

/-- A control block in a bank line that cannot be corrected (23 R363, log 77). -/
def State.badCtl (s : State) (c : BitVec 29) : Bool := s.badBank.any fun l => lineMeets l.toNat c.toNat 32

/-- A control block that the command processor and the bank operate on: in a held region of the context, and readable. -/
def State.ctlOk (s : State) (vf : BitVec 7) (c : BitVec 29) : Bool := s.bankHeld vf c.toNat 32 && !s.badCtl c

def State.qHead (s : State) (c : BitVec 29) : W32 := s.ctl c 0
def State.qClaim (s : State) (c : BitVec 29) : W32 := s.ctl c 1
def State.qTail (s : State) (c : BitVec 29) : W32 := s.ctl c 2
def State.qDep (s : State) (c : BitVec 29) : W32 := s.ctl c 3
def State.qPushT (s : State) (c : BitVec 29) : W64 := s.ctl c 5 ++ s.ctl c 4
def State.qAvail (s : State) (c : BitVec 29) : W32 := s.ctl c 6
/-- PUSHT written. -/
def State.setPushT (s : State) (c : BitVec 29) (t : W64) : State :=
  s.writeBank (c + 16) (toBytes 8 t.toNat)

/-- U: records pushed and not claimed. -/
def State.qWaiting (s : State) (c : BitVec 29) : Nat := (s.qTail c - s.qClaim c).toNat
/-- Slots that are taken. -/
def State.qUsed (s : State) (c : BitVec 29) : Nat := (s.qTail c - s.qHead c).toNat

/-! ## Blocking points (03 R34, 14 R243) -/

/-- Whether the producer of an empty register waits at a blocking point: a load from an empty granule, or a remote load. -/
def Gang.producerBlocks (r : Gang) (g : Group) (reg : Reg) : Bool :=
  g.flight.any fun e => e.writes.contains reg &&
    match e.op with
    | .ld .clear | .ld .keep => e.openAccs.any fun a => !r.served a
    | .ld _ => e.openAccs.any fun a => a.remote
    | _ => false

/-- Whether a split of a group of a gang is blocked at a blocking point. -/
def State.splitBlocked (s : State) (r : Gang) (g : Group) (x : Split) : Bool :=
  !x.held && match x.st with
    | .inPop _ q _ _ => s.qWaiting (qCtl q) == 0
    | .atBarrier _ _ | .inTsal _ _ _ => true
    | .running => match x.blk with
      | .barWait _ _ => true
      | .reg y _ => g.isEmpty y && r.producerBlocks g y
      | .no | .other => false
    | _ => false

/-- Whether a group is blocked: it holds a split and each of its splits, waiting ones apart, is at a blocking point. -/
def State.groupBlocked (s : State) (r : Gang) (g : Group) : Bool :=
  let l := (g.splits.list.map (·.2)).filter fun x => !x.isFree && !x.waits
  g.live == 0 || g.retired || g.killed ||
    (!l.isEmpty && g.overflow.all (·.waits) && g.due.isEmpty && l.all (s.splitBlocked r g))

/-- A gang with an unexited group, all of them blocked at blocking points (14 R243). -/
def State.whollyBlocked (s : State) (r : Resident) : Bool :=
  r.groups.any (fun g => g.alive && g.live != 0) && r.groups.all (s.groupBlocked r.gang)

/-! ## tsal, tsal.nw and tsfr (12 R226) -/

/-- What the pool instructions need. -/
def poolUse (d a : BitVec 6) : Use := { reads := [(.s a, false)], writes := [.s d] }

/-- A result of 1 or 0 written, and the next instruction. -/
def State.answer (s : State) (d : BitVec 6) (ok : Bool) : State := (s.writeS d (if ok then 1 else 0)).advance

/-- `tsal.nw`: granted or refused at once. -/
def execTsalNw (d a : BitVec 6) (s : State) : Out :=
  .next <| s.issue (poolUse d a) fun s =>
    let n := (s.readS a).toNat
    if n = 0 then s.answer d true
    else if 2 ^ 13 ≤ n || s.gang.overPool n || s.unreserved s.gang.die s.gang.core < n then s.answer d false
    else (s.growPool n).answer d true

/-- `tsal`: waits until it is granted or refused. -/
def execTsal (d a : BitVec 6) (s : State) : Out :=
  .next <| s.issue (poolUse d a) fun s =>
    let n := (s.readS a).toNat
    if n = 0 then s.answer d true
    else if 2 ^ 13 ≤ n || s.gang.overPool n then s.answer d false
    else if n ≤ s.unreserved s.gang.die s.gang.core && !s.earlierFits s.order then (s.growPool n).answer d true
    else if s.stepping.isSome then { s with stepping := some 1 }
    else
      ({ s with order := s.order + 1 }).waitIn (.inTsal d (BitVec.ofNat 13 n) s.order)

/-- `tsfr`: free segments go back to the core. -/
def execTsfr (d a : BitVec 6) (s : State) : Out :=
  .next <| s.issue (poolUse d a) fun s =>
    let n := (s.readS a).toNat
    if n = 0 then s.answer d true
    else if 2 ^ 13 ≤ n || s.gang.pool.toNat < s.gang.inUse + n then s.answer d false
    else ({ s with gang := { s.gang with pool := s.gang.pool - BitVec.ofNat 13 n } }).answer d true

/-- A waiting split goes on past its instruction with an answer. -/
def State.answerWait (s : State) (k : BitVec 2) (d : BitVec 6) (ok : Bool) : State :=
  (({ s with k := k }).writeS d (if ok then 1 else 0)).updSp Split.goOn

/-- The allocator grants a waiting tsal: the earliest that fits; one that can never fit is refused at once (11 R192). -/
def execTsalGrant (g : GroupRef) (k : BitVec 2) (s : State) : Out :=
  .next <| s.onGroup g fun s =>
    let x := s.grp.splits.get k
    match x.st with
    | .inTsal d n order =>
      if x.isFree || x.held || s.grp.isEmpty (.s d) then s
      else if s.gang.overPool n.toNat then s.answerWait k d false
      else if n.toNat ≤ s.unreserved s.gang.die s.gang.core && !s.earlierFits order then
        (s.growPool n.toNat).answerWait k d true
      else s
    | _ => s

/-- The younger of two gangs: the higher LAUNCHSEQ, then the higher index. -/
def younger (a b : Gang) : Bool := b.seq.toNat < a.seq.toNat || (a.seq == b.seq && b.idx.toNat < a.idx.toNat)

/-- The youngest gang of a list. Of two gangs of different contexts with the same LAUNCHSEQ and index 11 R192 calls neither the younger:
the model takes the later in the list (log 78). -/
def youngest : List Resident → Option Resident
  | [] => none
  | r :: t =>
    match youngest t with
    | some q => if younger r.gang q.gang then some r else some q
    | none => some r

/-- Every waiting request of a list refused; a split whose result register is empty is refused when that is full. -/
def State.refuseWaits : List PoolWait → State → State
  | [], s => s
  | w :: t, s =>
    State.refuseWaits t <| s.at w.g fun s =>
      match (s.grp.splits.get w.k).st with
      | .inTsal d _ _ => if s.grp.isEmpty (.s d) then s else s.answerWait w.k d false
      | _ => s

/-- The allocator refuses the youngest gang's waiting tsal, when every resident gang of the core that holds segments is
blocked in one, and no waiting request is covered (11 R192). Whether a waiting gang without segments counts among those of which the
youngest is refused, the rule does not say: the model takes the youngest holder (log 78). -/
def execTsalRefusal (die : BitVec 3) (core : BitVec 7) (s : State) : Out :=
  let holders := (s.gangsOn die core).filter fun r => r.gang.pool != 0
  let waits (r : Resident) : List PoolWait := r.groups.flatMap fun g => g.poolWaits r.gang
  .next <|
    if (s.poolWaits die core).any (fun w => w.request ≤ s.unreserved die core) then s
    else if holders.all fun r => !(waits r).isEmpty && s.whollyBlocked r then
      match youngest holders with
      | some r => State.refuseWaits (waits r) s
      | none => s
    else s

end Sys2Proof.Machine
end

