-- ==== Sys2Proof/Machine/Queue.lean ====
section
/-!
DEFINITION. Sys2Proof/Machine/Queue.lean: queues: the checks of a queue record, pushing, popping, permits, and the
slots that become free (14 R237, R238, 15 R246 to R256, 16 R264).
-/

namespace Sys2Proof.Machine

/-! ## Claims and slots that become free -/

/-- HEAD advanced over the claims of a control block that are done, counted from HEAD (14 R240, 15 R250); not of one that cannot be
read (log 77). -/
def headLoop (vf : BitVec 7) (c : BitVec 29) : Nat → State → State
  | 0, s => s
  | n + 1, s =>
    match if s.badCtl c then none else (s.ctx vf).claims.find? fun x => x.ctl == c && x.first == s.qHead c && x.done with
    | none => s
    | some x =>
      let s := s.setCtl c 0 (s.qHead c + BitVec.ofNat 32 x.count)
      headLoop vf c n (s.updCtx vf fun k => { k with claims := k.claims.erase x })

/-- A claim that begins at an index done, and HEAD advanced where it may. -/
def State.endClaim (s : State) (vf : BitVec 7) (c : BitVec 29) (first : W32) : State :=
  let s := s.updCtx vf fun k =>
    { k with claims := k.claims.map fun (x : Claim) => if x.ctl == c && x.first == first then { x with done := true } else x }
  headLoop vf c (s.ctx vf).claims.length s

/-- CLAIM advanced over n records in one step, PUSHT the push time of the new oldest unclaimed record (14 R239). -/
def State.claim (s : State) (vf : BitVec 7) (c : BitVec 29) (n : Nat) : State :=
  let first := s.qClaim c
  let next := first + BitVec.ofNat 32 n
  let s := s.setCtl c 1 next
  let s := s.updCtx vf fun k => { k with
    claims := k.claims ++ [{ ctl := c, first, count := n, done := false }]
    pushes := k.pushes.filter fun (p : Push) =>
      p.ctl != c || (next - p.first).toNat < p.count || 2 ^ 31 ≤ (next - p.first).toNat }
  match (s.ctx vf).pushes.find? fun p => p.ctl == c && (next - p.first).toNat < p.count with
  | some p => if s.qWaiting c = 0 then s else s.setPushT c p.time
  | none => s

/-- n records pushed to a control block: PUSHT where none was unclaimed, then TAIL (15 R249). -/
def State.pushed (s : State) (vf : BitVec 7) (c : BitVec 29) (n : Nat) : State :=
  let tail := s.qTail c
  let s := if tail = s.qClaim c then s.setPushT c s.time else s
  let s := s.updCtx vf fun k => { k with pushes := k.pushes ++ [{ ctl := c, first := tail, count := n, time := s.time }] }
  s.setCtl c 2 (tail + BitVec.ofNat 32 n)

/-! ## The checks of a queue record (15 R247, 16 R264) -/

/-- A queue whose BASE translates to a fabric address is on another module (16 R264). -/
def State.queueRemote (s : State) (r : W256) : Bool :=
  match s.peek s.gang.vf s.coreId (qBase r) with
  | some (_, e) => regionOf (pteAddr e) == .fabric
  | none => false

/-- A queue whose BASE lies in a page that is still to be filled: where it is, is not known before that (16 R264, 18 R282). -/
def State.queueUnfilled (s : State) (r : W256) : Bool :=
  (s.peek s.gang.vf s.coreId (qBase r)).isNone && field (qBase r) 57 7 == (0 : BitVec 7) &&
    match s.walkVa s.gang.vf s.coreId (qBase r) with
    | .fill _ => true
    | _ => false

/-- A queue not known to be on this module. -/
def State.queueAway (s : State) (r : W256) : Bool := s.queueRemote r || s.queueUnfilled r

/-- What an instruction asks of its queue: any, local only, plain and local, a node and local. -/
inductive QueueNeed where
  | any | plain | node
  deriving DecidableEq, Repr

/-- The first failing check of a queue record (15 R247); of one whose module is not known, none that depends on it. A control block
that is read in a line that cannot be corrected is one (18 R299, log 77). -/
def State.queueCheck (s : State) (n : BitVec 10) (r : W256) (need : QueueNeed) : Option (BitVec 9) :=
  if recKind r ≠ 3 then some cREC_KIND
  else if qRsz r = 3 || 16 < (qCapLog r).toNat then some cREC_VALUE
  else if s.queueUnfilled r then none
  else if s.queueRemote r then (if need = .any then none else some cQUEUE_REMOTE)
  else if !s.bankHeld s.gang.vf (qCtl r).toNat 32 then some cBANK_RANGE
  else if s.badCtl (qCtl r) then some cMEM_UNCORR
  else match need with
    | .any => none
    | .plain => if qNode r then some cQUEUE_NODE else none
    | .node => if qNode r && 256 ≤ n.toNat then none else some cQUEUE_NODE

/-- The address that a queue record's failing check names: a control block outside the held regions, or not readable (18 R290). -/
def queueVa (cause : BitVec 9) (r : W256) : W64 := if cause = cBANK_RANGE || cause = cMEM_UNCORR then (qCtl r).setWidth 64 else 0

/-- A failing check reported where it is a read that cannot be corrected (23 R363). -/
def State.tellQueue (s : State) (cause : BitVec 9) (r : W256) : State :=
  if cause = cMEM_UNCORR then (s.readBankLine (qCtl r) 32).2 else s

/-- The trap of a queue record that fails a check. -/
def State.trapQueue (s : State) (cause : BitVec 9) (r : W256) : State := (s.tellQueue cause r).trapVa cause (queueVa cause r)

/-- An instruction on a queue of this module whose BASE lies in a page still to be filled: its split is parked on that page and issues it
anew (16 R264, 18 R283, log 35). -/
def State.holdQueue (s : State) (r : W256) : State :=
  if s.stepping.isSome then { s with stepping := some 1 }
  else match s.walkVa s.gang.vf s.coreId (qBase r) with
    | .fill l =>
      (s.postFault s.k 0 (qBase r) (BitVec.ofNat 3 l) false 7 false).updSp fun x =>
        { x with st := .parked (qBase r) true, blk := .no, age := 0, promoted := none }
    | _ => s

/-- An instruction of a queue that must be on this module: its checks, then its effect. -/
def State.onQueue (s : State) (n : BitVec 10) (need : QueueNeed) (f : State → W256 → State) : State :=
  let r := s.record n
  match s.queueCheck n r need with
  | some c => s.trapQueue c r
  | none => if s.queueUnfilled r then s.holdQueue r else f s r

/-! ## qpush (15 R249) -/

/-- Vector registers a record takes. -/
def pushRegs (r : W256) : Nat := if recKind r = 3 && qRsz r != 3 then qBytes r / 4 else 1

/-- Whether a push of the active lanes is one that the queue takes. -/
def State.pushTaken (s : State) (n : BitVec 10) : Bool :=
  let r := s.record n
  let k := s.lanes.length
  0 < k && (s.queueCheck n r .any).isNone && k ≤ qCap r && (s.queueAway r || s.qUsed (qCtl r) + k ≤ qCap r)

/-- What a push needs: the registers of the record; no store held by a fault; where the queue takes it, every earlier access
performed. -/
def State.pushUse (s : State) (d v : BitVec 6) (n : BitVec 10) : Use :=
  { reads := (Dest.vec v.toNat (pushRegs (s.record n))).regs.map fun r => (r, false)
    writes := [.s d], ready := s.grp.heldStore.isNone && (!s.pushTaken n || s.drained), park := s.grp.heldStore, recs := [n] }

/-- A push at issue, its records captured; `part` tells one that is not known to be to this module. -/
def State.pushEntry (s : State) (d v : BitVec 6) (n : BitVec 10) (r : W256) : Entry :=
  { s.newEntry (.qpush d v n) .qpush with
    snaps := [r], recs := [n], dest := Dest.scal d.toNat 1, part := if s.queueAway r then 1 else 0
    blocks := (List.range (pushRegs r)).map fun i => s.grp.block (v.toNat + i) }

/-- The bytes of a lane's record. -/
def Entry.recordOf (e : Entry) (lane : Nat) : List Byte :=
  (List.range (pushRegs (e.snap 0))).flatMap fun i => toBytes 4 (e.blk i lane).toNat

/-- Messages to the modules of those slots that are not on this one; the cause with which one is refused, before any slot is
written. -/
def State.askSlots : List Acc → State → Option (BitVec 9 × W64) × State
  | [], s => (none, s)
  | a :: t, s =>
    if a.remote then
      match s.fabric a.pa with
      | (some c, s1) => (some (c, a.addr), s1)
      | (none, s1) => State.askSlots t s1
    else State.askSlots t s

/-- Records written to their slots on this module. -/
def State.writeSlots : List Acc → List (List Byte) → State → State
  | a :: t, b :: u, s => State.writeSlots t u (if a.remote then s else (s.writeAcc a b).2)
  | _, _, s => s

/-- The answer of a push: records taken, index of the first. -/
def pushAnswer (k : Nat) (tail : W32) : W64 := BitVec.ofNat 32 k ++ tail

/-- An operation that a check of its queue refuses. -/
def Entry.queueFails (e : Entry) (s : State) (cause : BitVec 9) (va : W64) : Entry × State :=
  ({ e with err := cause, va, held := none, part := 2 }, s)

/-- A push brought to its queue: the answer; or, with nothing written, the push held by a fault or carrying a cause (15 R249,
16 R264). Which module's queue it is, its page tells now; room is tested, the slots translated, then written, then TAIL advances. -/
def State.actPush (s : State) (e : Entry) : Option W64 × Entry × State :=
  let r := e.snap 0
  let k := popCount e.active
  let c := qCtl r
  let e := { e with part := if s.queueAway r then 1 else 0 }
  match s.queueCheck e.rec0 r .any with
  | some cause => (none, e.queueFails (s.tellQueue cause r) cause (queueVa cause r))
  | none =>
    if k = 0 then (some 0, e, s)
    else if e.part = 0 && qCap r < s.qUsed c + k then (some 0, e, s)
    else
      let (e, s) := s.loadEntry e
      if e.held.isSome || e.err ≠ 0 then (none, e, s)
      else match s.askSlots e.accs with
        | (some (cause, va), s) => (none, { e with err := cause, va }, s)
        | (none, s) =>
          if e.part = 1 then
            let (j, s) := s.fresh
            match Config.remoteTail j with
            | some tail => (some (pushAnswer k tail), e, s)
            | none => (some 0, e, s)
          else
            let tail := s.qTail c
            let s := State.writeSlots e.accs ((lanesOf e.active).map e.recordOf) s
            (some (pushAnswer k tail), e, s.pushed s.gang.vf c k)

/-- The split of an operation that a fault holds at issue is parked on its page (18 R283). -/
def State.parkHeld (s : State) (e : Entry) : State :=
  match e.held with
  | some va => s.updSp fun x => { x with st := .parked va false }
  | none => s

/-- Whether an operation on a queue is refused as at its issue, with no effect: by a check of its record, by the counts of permits, or
by the module that has the queue (15 R247, R254, 16 R264). -/
def Entry.queueRefused (e : Entry) : Bool :=
  e.part == 2 || (e.part == 1 && (e.err == cFABRIC_REFUSED || e.err == cFABRIC_DOWN))

/-- An operation on a queue that has no answer at its issue: refused precisely; or issued, where a fault holds it or its page's
translation traps (18 R282, R283), its split behind it. -/
def State.sendQueue (s : State) (e : Entry) : State :=
  if e.queueRefused then s.trapVa e.err e.va
  else
    let s := { s with grp := (s.grp.markAll true e.dest.regs).bump }
    ((s.launchEntry e).advance).parkHeld e

/-- An operation on a queue that has no answer when it is brought there again: held again, refused as at its issue, or its trap due. -/
def State.resendQueue (s : State) (e : Entry) : State :=
  if e.err = 0 then s.updEntry e
  else if e.queueRefused then ((s.fillDest e).dropEntry e.id).refuseWhole e
  else s.failEntry e

/-- `qpush` (15 R249): all of the active lanes' records, or none. -/
def execQpush (d v : BitVec 6) (n : BitVec 10) (s : State) : Out :=
  .next <| s.issue (s.pushUse d v n) fun s =>
    let r := s.record n
    match s.queueCheck n r .any with
    | some c => s.trapQueue c r
    | none =>
      if qCap r < s.lanes.length then s.trap cQUEUE_SIZE
      else match s.actPush (s.pushEntry d v n r) with
        | (some x, _, s) => (s.writeS d x).advance
        | (none, e, s) => s.sendQueue e

/-- Every access that a group issued before an operation is performed (15 R249). -/
def Group.drainedBefore (g : Group) (id : Nat) : Bool :=
  g.flight.all fun x => id ≤ x.id || !x.op.isMem || x.openAccs.isEmpty

/-- A push in flight is brought to its queue again, once its fault is served or it has been re-injected; it takes its turn after the
earlier accesses (15 R249, 18 R283, R296). -/
def State.endPush (s : State) (e : Entry) : State :=
  if e.held.isSome || e.err ≠ 0 || !s.grp.drainedBefore e.id then s
  else match s.actPush e with
    | (some x, e, s) =>
      let s := s.keeping (s.writeS (e.dest.reg.setWidth 6) x) e.cancelled
      (s.fillDest e).dropEntry e.id
    | (none, e, s) => s.resendQueue e

/-! ## qpop (15 R250) -/

/-- Scalar registers a popped record fills. -/
def popRegs (r : W256) : Nat := if recKind r = 3 && qRsz r != 3 then qBytes r / 8 else 1

/-- What a pop needs: its range, which must end at or before s63. -/
def popUse (d : BitVec 6) (n : BitVec 10) (r : W256) : Use :=
  { ok := d.toNat + popRegs r ≤ 64, writes := (Dest.scal d.toNat (popRegs r)).regs, recs := [n] }

/-- The record at CLAIM given to the pop of the executing split, whose range is empty until the record arrives: the operation keeps
the offset of the slot and the index. -/
def State.popClaim (s : State) (d : BitVec 6) (n : BitVec 10) (r : W256) : State :=
  let c := qCtl r
  let i := s.qClaim c
  let s := s.claim s.gang.vf c 1
  let e : Entry := { s.newEntry (.qpop d n) .qpop with
    snaps := [r], recs := [n], detail := qOffset r i, part := i.toNat, dest := Dest.scal d.toNat (popRegs r) }
  let (e, s) := s.loadEntry e
  ({ s with grp := (s.grp.markAll true e.dest.regs).bump }).launchEntry e

/-- A pop that waits: its control block and its place in the order of arrival. -/
def Split.popWait (x : Split) : Option (BitVec 29 × Nat) :=
  match x.st with
  | .inPop _ r _ order => if x.isFree || x.held then none else some (qCtl r, order)
  | _ => none

/-- Whether a pop of a queue that arrived earlier waits. -/
def State.earlierPop (s : State) (c : BitVec 29) (order : Nat) : Bool :=
  s.residents.any fun q => q.groups.any fun g => g.splits.list.any fun x =>
    match x.2.popWait with
    | some w => w.1 == c && w.2 < order
    | none => false

/-- `qpop` (15 R250): a record at once, or a wait for one. -/
def execQpop (d : BitVec 6) (n : BitVec 10) (s : State) : Out :=
  .next <| s.issue (popUse d n (s.record n)) fun s =>
    s.onQueue n .plain fun s r =>
      if s.qWaiting (qCtl r) ≠ 0 && !s.earlierPop (qCtl r) s.order then (s.popClaim d n r).advance
      else if s.stepping.isSome then { s with stepping := some 1 }
      else ({ s with order := s.order + 1 }).waitIn (.inPop d r n s.order)

/-- The bank gives the earliest waiting pop of a queue the record at CLAIM (15 R250). One whose control block can no longer be read
issues anew (log 77). -/
def execQpopClaim (g : GroupRef) (k : BitVec 2) (s : State) : Out :=
  .next <| s.onGroup g fun s =>
    let x := s.grp.splits.get k
    match x.st with
    | .inPop d r n order =>
      if x.isFree || x.held || (Dest.scal d.toNat (popRegs r)).regs.any s.grp.isEmpty then s
      else if s.badCtl (qCtl r) then ({ s with k := k }).updSp fun x => { x with st := .running, blk := .no }
      else if s.qWaiting (qCtl r) = 0 || s.earlierPop (qCtl r) order then s
      else (({ s with k := k }).popClaim d n r).updSp Split.goOn
    | _ => s

/-- A popped record arrives: its registers written and full, its slot read (15 R250). -/
def State.endPop (s : State) (e : Entry) : State :=
  if e.held.isSome || e.err ≠ 0 then s
  else match s.readAccs e.accs with
    | (.error (c, va), s) => s.failEntry { e with err := c, va }
    | (.ok b, s) =>
      let word (i : Nat) : W64 := BitVec.ofNat 64 (ofBytes ((b.drop (8 * i)).take 8))
      let t := (List.range e.dest.count).foldl (fun s i => s.writeS (BitVec.ofNat 6 (e.dest.reg.toNat + i)) (word i)) s
      let s := s.keeping t e.cancelled
      let s := (s.fillDest e).dropEntry e.id
      s.endClaim s.gang.vf (qCtl (e.snap 0)) (BitVec.ofNat 32 e.part)

/-! ## Permits (15 R254, R255, 16 R264, R265) -/

/-- What a gang holds of a queue's permits. -/
def Gang.holding (g : Gang) (n : BitVec 10) : W32 :=
  match g.holders.find? fun h => h.1 == n with
  | some h => h.2
  | none => 0

/-- An entry of the holder table replaced, of a queue of this module or of another; one that falls to 0 is freed. -/
def Gang.setHolding (g : Gang) (n : BitVec 10) (x : W32) (device : Option (BitVec 12)) : Gang :=
  let rest := g.holders.filter fun h => h.1 != n
  let far := g.farHolders.filter fun h => h.1 != n
  { g with
    holders := if x = 0 then rest else rest ++ [(n, x)]
    farHolders := match device with
      | some dev => if x = 0 then far else far ++ [(n, dev)]
      | none => far }

/-- The holder table of the gang in focus changed, in the save area too (19 R302). -/
def State.hold (s : State) (n : BitVec 10) (x : W32) (device : Option (BitVec 12)) (pc : W64) : State :=
  ({ s with gang := s.gang.setHolding n x device }).saved .holders pc

/-- A new holder entry would be a seventeenth. -/
def Gang.holdersFull (g : Gang) (n : BitVec 10) : Bool := g.holding n == 0 && 16 ≤ g.holders.length

/-- A permit instruction brought to its queue: whether it succeeds, with its effect; or, with no effect, the instruction held by a fault
of BASE or carrying a cause (15 R254, 16 R264). Permits of a queue of another module are its to give. -/
def State.actPermit (s : State) (e : Entry) : Option Bool × Entry × State :=
  let r := e.snap 0
  let n := e.rec0
  let c := qCtl r
  let get := e.op == .pmtGet
  let y : W32 := (e.sc 0).setWidth 32
  let e := { e with part := if s.queueAway r then 1 else 0 }
  match s.queueCheck n r .any with
  | some cause => (none, e.queueFails (s.tellQueue cause r) cause (queueVa cause r))
  | none =>
    if 2 ^ 16 ≤ (e.sc 0).toNat then (none, e.queueFails s cPMT_OVER 0)
    else if e.sc 0 = 0 then (some true, e, s)
    else if !get && (s.gang.holding n).toNat < y.toNat then (none, e.queueFails s cPMT_OVER 0)
    else if e.part = 0 then
      if !get then (some true, e, (s.setCtl c 6 (s.qAvail c + y)).hold n (s.gang.holding n - y) none e.pc)
      else if (s.qAvail c).toNat < y.toNat then (some false, e, s)
      else if s.gang.holdersFull n then (none, e.queueFails s cPMT_TABLE 0)
      else (some true, e, (s.setCtl c 6 (s.qAvail c - y)).hold n (s.gang.holding n + y) none e.pc)
    else if get && s.gang.holdersFull n then (none, e.queueFails s cPMT_TABLE 0)
    else
      let (e, s) := s.loadEntry e
      if e.held.isSome || e.err ≠ 0 then (none, e, s)
      else match s.askSlots e.accs with
        | (some (cause, va), s) => (none, { e with err := cause, va }, s)
        | (none, s) =>
          let dev := (e.accs.head?).map fun a => (field a.pa 39 12 : BitVec 12)
          if !get then (some true, e, s.hold n (s.gang.holding n - y) dev e.pc)
          else
            let (i, s) := s.fresh
            if Config.remoteGrant i then (some true, e, s.hold n (s.gang.holding n + y) dev e.pc) else (some false, e, s)

/-- A permit instruction as an operation: its queue record, its count. -/
def State.permitEntry (s : State) (i : Instr) (op : MemOp) (n : BitVec 10) (x : W64) (d : Dest) : Entry :=
  { s.newEntry i op with snaps := [s.record n], recs := [n], scal := [x], dest := d }

/-- `pmt.get` (15 R254). -/
def execPmtGet (d a : BitVec 6) (n : BitVec 10) (s : State) : Out :=
  .next <| s.issue { reads := [(.s a, false)], writes := [.s d], recs := [n] } fun s =>
    match s.actPermit (s.permitEntry (.pmtGet d a n) .pmtGet n (s.readS a) (Dest.scal d.toNat 1)) with
    | (some ok, _, s) => s.answer d ok
    | (none, e, s) => s.sendQueue e

/-- `pmt.ret` (15 R254). -/
def execPmtRet (a : BitVec 6) (n : BitVec 10) (s : State) : Out :=
  .next <| s.issue { reads := [(.s a, false)], recs := [n] } fun s =>
    match s.actPermit (s.permitEntry (.pmtRet a n) .pmtRet n (s.readS a) Dest.none) with
    | (some _, _, s) => s.advance
    | (none, e, s) => s.sendQueue e

/-- A permit instruction in flight is brought to its queue again, once its fault is served or it has been re-injected. -/
def State.endPermit (s : State) (e : Entry) : State :=
  if e.held.isSome || e.err ≠ 0 then s
  else match s.actPermit e with
    | (some ok, e, s) =>
      let s := if e.op = .pmtGet then s.keeping (s.writeS (e.dest.reg.setWidth 6) (if ok then 1 else 0)) e.cancelled else s
      (s.fillDest e).dropEntry e.id
    | (none, e, s) => s.resendQueue e

/-- Permits back to PAVAIL of a queue of this module. -/
def State.returnLocal (s : State) (vf : BitVec 7) (r : W256) (n : W32) : State :=
  if s.ctlOk vf (qCtl r) then s.setCtl (qCtl r) 6 (s.qAvail (qCtl r) + n) else s

/-- The permits of one holder entry of the gang in focus returned: to the control block of a queue of this module, or by a message
that its target must acknowledge; one declared down has returned them itself (15 R255, 16 R265). -/
def State.returnPermit (s : State) (h : BitVec 10 × W32) : State :=
  let vf := s.gang.vf
  let r := if h.1.toNat < 256 then s.gang.window.get h.1.toNat else (s.tableRecord vf h.1).getD 0
  if recKind r ≠ 3 then s
  else match s.gang.farHolders.find? fun x => x.1 == h.1 with
    | some (_, dev) =>
      if s.down.contains dev then s
      else s.updCtx vf fun c => { c with returns := c.returns ++ [(dev, qCtl r, h.2)] }
    | none => s.returnLocal vf r h.2

/-- The permits that the gang in focus holds returned by the command processor (15 R255). -/
def State.returnPermits (s : State) : State :=
  let s := s.gang.holders.foldl State.returnPermit s
  { s with gang := { s.gang with holders := [], farHolders := [] } }

end Sys2Proof.Machine
end

