-- ==== Sys2Proof/Machine/Work.lean ====
section
/-!
DEFINITION. Sys2Proof/Machine/Work.lean: launches: acceptance and completion, the launch instruction and queue, successors, and
the trigger decisions of nodes (14 R231 to R234, R237 to R240, 15 R248, R252, R253, 19 R302).
-/

namespace Sys2Proof.Machine

/-! ## Reads of the command processor -/

/-- n chunks of w bytes at an address that w divides, each translated once; none where one does not translate or cannot be
read. -/
def State.readChunks (s : State) (vf : BitVec 7) (w : Nat) : W64 → Nat → Option (List (List Byte)) × State
  | _, 0 => (some [], s)
  | va, n + 1 =>
    match s.translate vf none va .read with
    | (.ok pa m, s1) =>
      match s1.readPa pa w m with
      | (.error _, s2) => (none, s2)
      | (.ok b, s2) =>
        match State.readChunks s2 vf w (va + BitVec.ofNat 64 w) n with
        | (some l, s3) => (some (b :: l), s3)
        | o => o
    | (_, s1) => (none, s1)

/-- A window image: its records without their must-be-zero bits; tile records start as zero tiles (06 R110, 11 R181). -/
def windowOf (l : List (List Byte)) : SMap 256 :=
  SMap.ofValues 0 (l.map fun b =>
    let r := cleanImage (BitVec.ofNat 256 (ofBytes b))
    if recKind r = 2 then putField (putField (putField r 66 (0 : BitVec 12)) 54 (0 : BitVec 12)) 40 (0 : BitVec 2) else r)

/-! ## Bytes of the save area (19 R302) -/

/-- The image of one gang of a launch. -/
def LaunchRec.gangImage (r : LaunchRec) : Nat :=
  24576 + r.gmem.toNat + (r.gmem.toNat + 127) / 128 + 2097152 + r.groups * (139264 + r.footprint)

/-- The part of a launch. -/
def LaunchRec.saveBytes (r : LaunchRec) : Nat :=
  let bands := if r.band = 0 then 0 else r.gangs.toNat / r.band.toNat * (r.bankKB.toNat * 1024 + 256)
  4096 + r.gangs.toNat * r.gangImage + bands

/-! ## Checks of a launch record (14 R232) -/

/-- The status of a record: 0, 2 BAD_RECORD or 3 FIT, but for the save area. -/
def LaunchRec.status (r : LaunchRec) (ofNode : Bool) : BitVec 8 :=
  if r.lfmt != 1 || r.width == 3 || 16 < r.band.toNat then 2
  else if r.gangs == 0 || (r.band != 0 && r.gangs.toNat % r.band.toNat != 0) then 2
  else if r.lanes ≤ r.last.toNat then 2
  else if r.gmem.toNat % 16 != 0 || 516096 < r.gmem.toNat then 2
  else if r.code.toNat % 4 != 0 || r.param.toNat % 8 != 0 || r.rtimg.toNat % 32 != 0 then 2
  else if r.nq != 0 && !ofNode then 2
  else if ofNode && 13 < r.paramN.toNat then 2
  else if 1048576 < r.groups * r.footprint || 131072 < r.footprint then 3
  else if 67108864 < r.bankKB.toNat * 1024 + 256 then 3
  else 0

/-! ## Completion (14 R232, R240, 15 R253, 16 R259, 03 R37) -/

/-- DEP of a node decremented for a launch that completed; a fall to 0 is noted for its decision. -/
def State.release (vf : BitVec 7) (s : State) (n : BitVec 10) : State :=
  match s.readVirt vf none ((s.ctx vf).entryAddr n) 32 with
  | (some b, s) =>
    let r := cleanImage (BitVec.ofNat 256 (ofBytes b))
    let c := qCtl r
    if recKind r != 3 || !s.ctlOk vf c || s.qDep c == 0 then s
    else
      let s := s.setCtl c 3 (s.qDep c - 1)
      if s.qDep c = 0 then s.updCtx vf fun k => { k with triggers := if k.triggers.contains n then k.triggers else n :: k.triggers }
      else s
  | (none, s) => s

/-- The completion word of a launch (14 R232). -/
def completionWord (seq : W64) (status : BitVec 8) : W64 := (seq <<< 16) ||| status.setWidth 64

/-- The completion word written at DONE, and MSI-X vector 0 raised after it (16 R259). -/
def State.signalDone (s : State) (vf : BitVec 7) (at_ seq : W64) (status : BitVec 8) : State :=
  if at_ = 0 then s
  else match s.writeVirt vf none at_ (toBytes 8 (completionWord seq status).toNat) with
    | none => s
    | some s => if (s.ctx vf).cirq then s.raiseMsix vf 0 else s

/-- A launch completes: its word is written, successors' counts fall, a node's records are done, and every node of the
context is due a decision. -/
def State.completeLaunch (s : State) (vf : BitVec 7) (l : Launch) (status : BitVec 8) : State :=
  let s := s.signalDone vf l.lrec.doneAddr l.seq status
  let s := if status = 4 then s else l.successors.foldl (State.release vf) s
  let s := match l.node with
    | some (ctl, first) => s.endClaim vf ctl first
    | none => s
  s.updCtx vf fun c =>
    let rest := c.launches.filter fun (x : Launch) => x.seq != l.seq
    { c with launches := rest, sweep := some [], csSize := if rest.isEmpty then c.saveBytes else c.csSize }

/-- `LAUNCH COMPLETION`: every gang of the launch has retired (03 R37). -/
def execLaunchCompletion (vf : BitVec 7) (seq : W64) (s : State) : Out :=
  .next <|
    match (s.ctx vf).launches.find? fun l => l.seq == seq with
    | none => s
    | some l =>
      if l.retired = l.lrec.gangs.toNat then s.completeLaunch vf l (if l.killed then 1 else 0) else s

/-! ## Acceptance (14 R232, R234) -/

/-- A launch identifier in use by no uncompleted launch of the context, from the device's free choices on (03 R20). -/
def freshId (used : List (BitVec 32)) (i : Nat) : Nat → BitVec 32
  | 0 => Config.launchId i
  | n + 1 =>
    let x := Config.launchId i + BitVec.ofNat 32 (used.length - n)
    if used.contains x then freshId used i n else x

/-- A launch of a context accepted with the next LAUNCHSEQ: `raw` are its record's bytes where they could be read, `node` the
node it is of: record number, control block, first index, T. A refused one completes at once. -/
def State.accept (s : State) (vf : BitVec 7) (raw : Option (List Byte)) (node : Option (BitVec 10 × BitVec 29 × W32 × Nat)) :
    State :=
  let c := s.ctx vf
  let r0 := LaunchRec.ofBits (BitVec.ofNat 1024 (ofBytes (raw.getD [])))
  let r := match node with | some x => { r0 with nq := x.1 } | none => r0
  let st0 := if raw.isNone then 2 else r.status node.isSome
  -- the parameters and the window image, read once
  let (ps, s) := if st0 = 0 then s.readChunks vf 8 r.param r.paramN.toNat else (some [], s)
  let image : W64 := if r.rtimg = (0 : W64) then c.lwImg else r.rtimg
  let (ws, s) := if st0 = 0 && image != 0 then s.readChunks vf 32 (image &&& ~~~31) 256 else (some [], s)
  let size := c.saveSize + r.saveBytes
  let status : BitVec 8 :=
    if st0 ≠ 0 then st0 else if ps.isNone || ws.isNone then 2 else if s.saveMapped vf size then 0 else 3
  let first : List W64 := match node with
    | some (_, _, i, t) => [i.setWidth 64, BitVec.ofNat 64 t]
    | none => []
  let (i, s) := s.fresh
  let l : Launch :=
    { seq := c.nextSeq, id := freshId (c.launches.map (·.id)) i c.launches.length, lrec := r
      params := first ++ (ps.getD []).map fun b => BitVec.ofNat 64 (ofBytes b)
      window := windowOf (ws.getD []), accepted := s.time, admitted := 0, retired := 0, killed := false, status, successors := []
      node := node.map fun x => (x.2.1, x.2.2.1) }
  let s := s.updCtx vf fun c => { c with
    nextSeq := c.nextSeq + 1, launches := c.launches ++ [l], csSize := if status = 0 then size else c.csSize }
  if status = 0 then s else s.completeLaunch vf l status

/-- The context accepts launches: fewer than 1,024 are uncompleted, and no capture has stopped it (14 R234, 19 R303). -/
def Context.accepts (c : Context) : Bool := c.launches.length < 1024 && !c.stopped

/-- Slots of the launch queue (14 R233, 16 R258). -/
def Context.lqSlots (c : Context) : Nat :=
  2 ^ (if 4 ≤ c.lqSize.toNat && c.lqSize.toNat ≤ 16 then c.lqSize.toNat else 4)

/-- A split that waits in `launch`. -/
def Split.launching (x : Split) : Option (BitVec 6) :=
  match x.st with
  | .inLaunch d => if x.isFree then none else some d
  | _ => none

/-- The split of a group that waits in `launch` goes on with its LAUNCHSEQ, one in the frame before one of the handler; one that is
held gets it when it is released (22 R336). It writes sD now, over what another split may have written there since its issue: 04 R44
keeps the write issued later, 15 R248 writes at acceptance (log 45). -/
def Group.launched (k : BitVec 2) (seq : W64) (g : Group) : Group :=
  let f := g.frame
  let inFrame := f.active && (f.splits.get k).launching.isSome
  let y := if inFrame then f.splits.get k else g.splits.get k
  let put (g : Group) (x : Split) : Group :=
    if inFrame then { g with frame := { f with splits := f.splits.set k x } } else { g with splits := g.splits.set k x }
  match y.launching with
  | some d => if y.held then put g { y with st := .passed (some d) seq } else put (g.setS d seq) y.goOn
  | none => g

/-- The answer of a `launch` given to its group, resident or evicted (15 R248). -/
def State.launched (s : State) (r : LaunchReq) (seq : W64) : State :=
  let f (g : Group) : Group := if g.idx == r.g.group then g.launched r.k seq else g
  let s := s.mapWhere (fun q => q.isRef r.g.gang) f
  { s with evicted := s.evicted.map fun (e : Evicted) =>
      if e.image.gang.isRef r.g.gang then { e with image := { e.image with groups := e.image.groups.map f } } else e }

/-- The command processor accepts a launch from the queue, or from the `launch` instruction that waits longest
(14 R233, R234, 15 R248). -/
def execLaunchAcceptance (vf : BitVec 7) (fromQueue : Bool) (s : State) : Out :=
  let c := s.ctx vf
  .next <|
    if !c.accepts then s
    else if fromQueue then
      if c.lqHead = c.lqTail then s
      else
        let at_ := c.lqBase + BitVec.ofNat 64 (128 * (c.lqHead.toNat % c.lqSlots))
        let (raw, s) := s.readChunks vf 64 (at_ &&& ~~~127) 2
        (s.updCtx vf fun c => { c with lqHead := c.lqHead + 1 }).accept vf (raw.map List.flatten) none
    else match c.launchReqs with
      | [] => s
      | r :: t =>
        let (raw, s) := s.readChunks vf 64 r.addr 2
        let s := (s.updCtx vf fun c => { c with launchReqs := t }).accept vf (raw.map List.flatten) none
        s.launched r c.nextSeq

/-- `LQTAIL`: an index below LQHEAD or more than the queue's slots above it is ignored (14 R233). -/
def execLqtail (vf : BitVec 7) (v : W32) (s : State) : Out :=
  .next <| s.updCtx vf fun c => if (v - c.lqHead).toNat ≤ c.lqSlots then { c with lqTail := v } else c

/-- `launch` (15 R248): a fence, then a wait until the record is accepted. -/
def execLaunch (d a : BitVec 6) (s : State) : Out :=
  let bad := (s.readS a).toNat % 128 != 0
  .next <| s.issue { reads := [(.s a, false)], writes := [.s d], ready := bad || s.drained, park := s.grp.heldStore }
    fun s =>
      if (s.readS a).toNat % 128 ≠ 0 then s.trapVa cALIGN (s.readS a)
      else
        let r : LaunchReq := { g := s.self, k := s.k, addr := s.readS a }
        (s.updCtx s.gang.vf fun c => { c with launchReqs := c.launchReqs ++ [r] }).waitIn (.inLaunch d)

/-! ## Successors and flushes (15 R252, R253) -/

/-- `done` (15 R253). -/
def execDone (n : BitVec 10) (s : State) : Out :=
  .next <| s.issue { recs := [n] } fun s =>
    s.onQueue n .node fun s _ =>
      let mine (l : Launch) : Bool := l.seq == s.gang.seq
      let have_ := ((s.ctx s.gang.vf).launches.filter mine).flatMap (·.successors)
      if have_.contains n then s.advance
      else if 8 ≤ have_.length then s.trap cDONE_FULL
      else
        (s.updCtx s.gang.vf fun c => { c with
          launches := c.launches.map fun (l : Launch) => if mine l then { l with successors := l.successors ++ [n] } else l }).advance

/-- `qflush` (15 R252): the decision is asked for once the group's earlier pushes are answered; the split does not wait. -/
def execQflush (n : BitVec 10) (s : State) : Out :=
  .next <| s.issue { recs := [n] } fun s =>
    s.onQueue n .node fun s _ => ({ s with grp := { s.grp with flushes := s.grp.flushes ++ [(s.grp.nextId, n)] } }).sendFlushes.advance

/-! ## Trigger decisions (14 R239, R240) -/

/-- A launch created for T records of a node, from its template. -/
def State.createLaunch (s : State) (vf : BitVec 7) (n : BitVec 10) (r : W256) (t : Nat) : State :=
  let c := qCtl r
  let first := s.qClaim c
  let s := s.claim vf c t
  let (raw, s) := s.readChunks vf 64 (qLrec r) 2
  s.accept vf (raw.map List.flatten) (some (n, c, first, t))

/-- Records of a full launch; a threshold of 0 counts as 1 (log 17). -/
def qFull (r : W256) : Nat := max 1 (qThresh r).toNat

/-- The launches of full thresholds, while the context accepts launches. -/
def fullLaunches (vf : BitVec 7) (n : BitVec 10) (r : W256) : Nat → State → State
  | 0, s => s
  | i + 1, s =>
    if qFull r ≤ s.qWaiting (qCtl r) && (s.ctx vf).accepts then fullLaunches vf n r i (s.createLaunch vf n r (qFull r)) else s

/-- The moment at which the timer of a node expires. -/
def State.timerAt (s : State) (r : W256) : Nat := (s.qPushT (qCtl r)).toNat + 1000 * (qTimer r).toNat

/-- The flush timer of a node has expired (14 R239). -/
def State.timerDue (s : State) (r : W256) : Bool :=
  qTimer r != 0 && s.timerAt r ≤ s.time.toNat

/-- A trigger decision of a node: full launches first, then a partial one for the timer or a flush. While the context takes
no launch, the decision is deferred (14 R234). -/
def State.decide (s : State) (vf : BitVec 7) (n : BitVec 10) (r : W256) : State :=
  let c := qCtl r
  let k := s.ctx vf
  let old := (k.seen.find? fun x => x.node == n).getD { node := n, tail := 0, dep := 0 }
  let flush := k.triggers.contains n || (old.dep != 0 && s.qDep c == 0)
  let s := if s.qDep c ≠ 0 then s else fullLaunches vf n r (s.qWaiting c) s
  let more := s.qDep c == 0 && s.qWaiting c != 0 && (qFull r ≤ s.qWaiting c || flush || s.timerDue r)
  if more && !(s.ctx vf).accepts then s
  else
    let s := if more then s.createLaunch vf n r (s.qWaiting c) else s
    let now : Seen := { node := n, tail := s.qTail c, dep := s.qDep c }
    s.updCtx vf fun k => { k with
      triggers := k.triggers.filter fun x => x != n
      seen := now :: k.seen.filter fun (x : Seen) => x.node != n
      sweep := k.sweep.map fun l => if l.contains n then l else n :: l }

/-- A node's record as the command processor reads it: a shared entry that is a node of this module, its control block in a
held region and readable (log 77). -/
def State.nodeRecord (s : State) (vf : BitVec 7) (n : BitVec 10) : Option W256 × State :=
  if n.toNat < 256 then (none, s)
  else
    match s.readVirt vf none ((s.ctx vf).entryAddr n) 32 with
    | (some b, s) =>
      let r := cleanImage (BitVec.ofNat 256 (ofBytes b))
      (if recKind r == 3 && qNode r && qRsz r != 3 && (qCapLog r).toNat ≤ 16 && s.ctlOk vf (qCtl r) then some r else none, s)
    | (none, s) => (none, s)

/-- Whether a node is due a decision: TAIL or DEP changed since the last, a flush, a launch of the context completed
(14 R239). -/
def State.decisionDue (s : State) (vf : BitVec 7) (n : BitVec 10) (r : W256) : Bool :=
  let k := s.ctx vf
  let old := (k.seen.find? fun x => x.node == n).getD { node := n, tail := 0, dep := 0 }
  k.triggers.contains n || old.tail != s.qTail (qCtl r) || old.dep != s.qDep (qCtl r) ||
    match k.sweep with
    | some l => !l.contains n
    | none => false

/-- Nodes that a completed launch made due at one moment are decided in ascending record number (14 R239). -/
def State.nodeTurn (s : State) (vf : BitVec 7) (n : BitVec 10) : Bool :=
  match (s.ctx vf).sweep with
  | none => true
  | some l => l.contains n || (List.range n.toNat).all fun m =>
      let m : BitVec 10 := BitVec.ofNat 10 m
      l.contains m || (s.nodeRecord vf m).1.isNone

/-- `TRIGGER DECISION` (14 R239). -/
def execTriggerDecision (vf : BitVec 7) (n : BitVec 10) (s : State) : Out :=
  .next <|
    if !(s.ctx vf).accepts || !s.nodeTurn vf n then s
    else match s.nodeRecord vf n with
      | (some r, s) => if s.decisionDue vf n r then s.decide vf n r else s
      | (none, s) => s

/-- Timers that have expired are served in the order in which they expired, those of one moment in ascending record number: none of
another node comes before that of node n, whose record is r (14 R239). -/
def State.timerTurn (s : State) (vf : BitVec 7) (n : BitVec 10) (r : W256) : Bool :=
  (List.range 1024).all fun m =>
    match (s.nodeRecord vf (BitVec.ofNat 10 m)).1 with
    | some x =>
      s.qDep (qCtl x) != 0 || s.qWaiting (qCtl x) == 0 || !s.timerDue x || m == n.toNat ||
        s.timerAt r < s.timerAt x || (s.timerAt r == s.timerAt x && n.toNat < m)
    | none => true

/-- `FLUSH TIMER EXPIRY` (14 R239). -/
def execFlushTimerExpiry (vf : BitVec 7) (n : BitVec 10) (s : State) : Out :=
  .next <|
    if !(s.ctx vf).accepts || !s.nodeTurn vf n then s
    else match s.nodeRecord vf n with
      | (some r, s) => if s.qWaiting (qCtl r) ≠ 0 && s.timerDue r && s.timerTurn vf n r then s.decide vf n r else s
      | (none, s) => s

end Sys2Proof.Machine
end

