-- ==== Sys2Proof/Machine/System.lean ====
section
/-!
DEFINITION. Sys2Proof/Machine/System.lean: the system and trap instructions: software traps, the return from a trap, the replay
queue and the trap frame as a handler sees them, and the error log (18 R288 to R298).
-/

namespace Sys2Proof.Machine

/-! ## Doublewords of the frame and of replay entries (18 R290, R291) -/

/-- Doubleword i of a list of 16-byte hit records. -/
def hitWord (l : List (BitVec 128)) (i : Nat) : W64 :=
  let h := (l[i / 2]?).getD 0
  if i % 2 = 0 then field h 0 64 else field h 64 64

/-- FRAME0. -/
def Group.frame0 (g : Group) : W64 :=
  let f := g.frame
  putField (putField (putField (putField (putField (putField (0 : W64) 63 (bit f.active)) 54 (BitVec.ofNat 5 g.rq.length))
    49 g.idx) 47 f.split) 45 f.tkind) 0 f.cause

/-- A doubleword of the frame; those above 31 and those without a field read as 0. -/
def Group.frameWord (g : Group) (i : Nat) : W64 :=
  let f := g.frame
  if i = 0 then g.frame0
  else if i = 1 then f.pc
  else if i = 2 then f.mask
  else if i = 3 then f.detail
  else if i = 4 then f.va
  else if 8 ≤ i && i < 24 then
    let x := f.splits.get (BitVec.ofNat 2 ((i - 8) / 4))
    match (i - 8) % 4 with
    | 0 => x.pc
    | 1 => x.mask
    | 2 => x.mode
    | _ => BitVec.ofNat 64 x.code
  else if 24 ≤ i && i < 32 then hitWord f.hits (i - 24)
  else 0

/-- DEST of a replay entry. -/
def Dest.bits (d : Dest) : W64 :=
  if d.file = 0 then 0
  else putField (putField (putField (0 : W64) 9 (BitVec.ofNat 5 (d.count - 1))) 2 d.reg) 0 d.file

/-- A doubleword of a replay entry. -/
def Entry.word_ (e : Entry) (i : Nat) : W64 :=
  if i = 0 then (e.word ++ 0#22) ++ (bit e.held.isSome ++ e.err)
  else if i = 1 then e.pc
  else if i = 2 then e.active
  else if i = 4 then e.mode
  else if 5 ≤ i && i < 9 then e.sc (i - 5)
  else if i = 9 then e.dest.bits
  else if 12 ≤ i && i < 24 then field (e.snap ((i - 12) / 4)) (64 * ((i - 12) % 4)) 64
  else if 32 ≤ i then
    let k := (i - 32) / 32
    let lane := 2 * ((i - 32) % 32)
    e.blk k (lane + 1) ++ e.blk k lane
  else 0

/-- Element k of a list replaced. -/
def setNth {α : Type} (x : α) : Nat → List α → List α
  | _, [] => []
  | 0, _ :: t => x :: t
  | n + 1, y :: t => y :: setNth x n t

/-- A writable doubleword of a replay entry written: ACTIVE only loses bits; scalar operands and operand blocks; no
other changes. -/
def Entry.setWord (e : Entry) (i : Nat) (v : W64) : Entry :=
  if i = 2 then { e with active := e.active &&& v }
  else if 5 ≤ i && i < 9 then { e with scal := setNth v (i - 5) e.scal }
  else if 32 ≤ i then
    let k := (i - 32) / 32
    let lane := 2 * ((i - 32) % 32)
    match e.blocks[k]? with
    | some b => { e with blocks := setNth ((b.set lane (field v 0 32)).set (lane + 1) (field v 32 32)) k e.blocks }
    | none => e
  else e

/-- A split sent to another address from outside: what its instruction remembers goes (03 R29, 22 R334). -/
def Split.setPc (x : Split) (pc : W64) : Split :=
  if pc = x.pc then x else { x with pc := pc, skipPc := none, joined := none }

/-- A writable doubleword of the frame written: PC without its low two bits, MODE where it is a legal value. -/
def Frame.setWord (f : Frame) (i : Nat) (v : W64) : Frame :=
  if 8 ≤ i && i < 24 then
    let k : BitVec 2 := BitVec.ofNat 2 ((i - 8) / 4)
    let x := f.splits.get k
    match (i - 8) % 4 with
    | 0 => { f with splits := f.splits.set k (x.setPc (v &&& ~~~3)) }
    | 2 => if modeOk v then { f with splits := f.splits.set k { x with mode := v } } else f
    | _ => f
  else f

/-- The entry of a selector: a replay entry, the frame (16), none. -/
def selEntry (x : W64) : Nat := (field x 0 5 : BitVec 5).toNat
/-- The doubleword of a selector. -/
def selWord (x : W64) : Nat := (field x 5 10 : BitVec 10).toNat

/-! ## Software traps (18 R288, R290, R295) -/

/-- A software trap: the split goes on after its instruction, and the trap names the instruction. -/
def State.softTrap (s : State) (cause : BitVec 9) : State :=
  s.advance.takeTrap (s.dueHere cause 2 0)

/-- `trap` (18 R295). -/
def execTrap (c : BitVec 5) (s : State) : Out := .next (s.issue {} fun s => s.softTrap (cSW0 + c.setWidth 9))

/-- `brk` (18 R295). -/
def execBrk (s : State) : Out := .next (s.issue {} fun s => s.softTrap cBRK)

/-! ## The handler's instructions (18 R295, R296) -/

/-- An instruction of a handler: outside one it traps RTE_STATE. -/
def State.inHandler (s : State) (u : Use) (f : State → State) : State :=
  s.issue u fun s => if s.grp.frame.active then f s else s.trap cRTE_STATE

/-- `rte` (18 R296): by a split that holds every live lane; any other is killed. -/
def execRte (s : State) : Out :=
  .next <| s.inHandler {} fun s => if s.sp.mask = s.grp.live then s.returnFromTrap else s.trap cRTE_STATE

/-- `rq.n`. -/
def execRqN (d : BitVec 6) (s : State) : Out :=
  .next <| s.inHandler { writes := [.s d] } fun s => (s.writeS d (BitVec.ofNat 64 s.grp.rq.length)).advance

/-- `rq.rd`. -/
def execRqRd (d a : BitVec 6) (s : State) : Out :=
  .next <| s.inHandler { reads := [(.s a, false)], writes := [.s d] } fun s =>
    let x := s.readS a
    let v := if selEntry x = 16 then s.grp.frameWord (selWord x)
      else match s.grp.rq[selEntry x]? with
        | some e => if selEntry x < 16 then e.word_ (selWord x) else 0
        | none => 0
    (s.writeS d v).advance

/-- `rq.wr`. -/
def execRqWr (d a : BitVec 6) (s : State) : Out :=
  .next <| s.inHandler { reads := [(.s a, false), (.s d, false)] } fun s =>
    let x := s.readS a
    let v := s.readS d
    let g := s.grp
    let g := if selEntry x = 16 then { g with frame := g.frame.setWord (selWord x) v }
      else if selEntry x < 16 then match g.rq[selEntry x]? with
        | some e => { g with rq := setNth (e.setWord (selWord x) v) (selEntry x) g.rq }
        | none => g
      else g
    ({ s with grp := g }).advance

/-- `rq.drop`. -/
def execRqDrop (a : BitVec 6) (s : State) : Out :=
  .next <| s.inHandler { reads := [(.s a, false)] } fun s =>
    let i := selEntry (s.readS a)
    match (if i < 16 then s.grp.rq[i]? else none) with
    | none => s.advance
    | some e =>
      let g := ({ s.grp with rq := s.grp.rq.eraseIdx i }).markAll false e.dest.regs
      ({ s with grp := g.complete e.id }).afterEntry.advance

/-! ## The error log (18 R298) -/

/-- The oldest of a log's records popped, or its overflow count, which it clears. -/
def popLog (l : List (BitVec 128)) (ovf : W32) : BitVec 128 × List (BitVec 128) × W32 :=
  match l with
  | h :: t => (h, t, ovf)
  | [] => (ovf.setWidth 64 ++ 0#64, [], 0)

/-- A record written to a scalar pair. -/
def State.writeRecord (s : State) (d : BitVec 6) (h : BitVec 128) : State :=
  (s.writeS d (field h 0 64)).writeS (d + 1) (field h 64 64)

/-- `elog` (18 R298). -/
def execElog (d : BitVec 6) (s : State) : Out :=
  .next <| s.issue { ok := 2 ≤ d.toNat && d.toNat ≤ 62, writes := [.s d, .s (d + 1)] } fun s =>
    let c := s.ctx s.gang.vf
    let (h, t, o) := popLog c.elog c.elogOvf
    ((s.updCtx s.gang.vf fun c => { c with elog := t, elogOvf := o }).writeRecord d h).advance

/-! ## Deferred traps (18 R288, R289) -/

/-- `TRAP ENTRY`: a trap that is due is taken at the group's boundary. -/
def execTrapEntry (g : GroupRef) (s : State) : Out :=
  .next <| s.onGroup g fun s => if s.grp.due.isEmpty || !s.grp.alive then s else s.takeDue

end Sys2Proof.Machine
end

