-- ==== Sys2Proof/Machine/Debug.lean ====
section
/-!
DEFINITION. Sys2Proof/Machine/Debug.lean: arming watch predicates, the debug agent and the register mirror, and the mark packet
(22 R329, R330, R336 to R346, R350).
-/

namespace Sys2Proof.Machine

/-! ## Arming predicates (22 R329, R339) -/

/-- The cores that hold a gang of a context. -/
def State.coresOf (s : State) (vf : BitVec 7) : List (BitVec 3 × BitVec 7) :=
  (s.residents.filter fun r => r.gang.vf == vf).map fun r => (r.gang.die, r.gang.core)

/-- Whether another context owns the bank of a core: it has predicates armed and a gang there. -/
def State.bankTaken (s : State) (vf : BitVec 7) (die : BitVec 3) (core : BitVec 7) : Bool :=
  s.residents.any fun r => r.gang.vf != vf && r.gang.die == die && r.gang.core == core && !(s.ctx r.gang.vf).watch.isEmpty

/-- The counts of predicates on the cores of a context dropped. -/
def State.clearCounts (s : State) (vf : BitVec 7) (which : BitVec 4 → Bool) : State :=
  let l := s.coresOf vf
  { s with watchCounts := s.watchCounts.filter fun c => !(which c.p && c.vf == vf && l.contains (c.die, c.core)) }

/-- An entry put among others by predicate number. -/
def insertPred (w : Pred) : List Pred → List Pred
  | [] => [w]
  | x :: t => if w.p.toNat < x.p.toNat then w :: x :: t else if w.p = x.p then w :: t else x :: insertPred w t

/-- `wp.set` (22 R339). -/
def execWpSet (d a : BitVec 6) (p : BitVec 4) (s : State) : Out :=
  .next <| s.issue { reads := [(.s a, false)], writes := [.s d], recs := [field (s.readS a) 0 10] } fun s =>
    let r := s.record (field (s.readS a) 0 10)
    if recKind r ≠ 4 then s.trap cREC_KIND
    else if watchMalformed r then s.trap cWATCH_RECORD
    else if (s.coresOf s.gang.vf).any fun c => s.bankTaken s.gang.vf c.1 c.2 then s.answer d false
    else
      let w : Pred := { p, record := r, gang := s.gang.idx, seq := s.gang.seq }
      let s := s.clearCounts s.gang.vf (· == p)
      (s.updCtx s.gang.vf fun c => { c with watch := insertPred w c.watch }).answer d true

/-- Predicates disarmed for instructions issued from now on. -/
def State.disarm (s : State) (which : BitVec 4 → Bool) : State :=
  s.issue {} fun s =>
    ((s.clearCounts s.gang.vf which).updCtx s.gang.vf fun c => { c with watch := c.watch.filter fun w => !which w.p }).advance

/-- `wp.clr #p`. -/
def execWpClr (p : BitVec 4) (s : State) : Out := .next (s.disarm (· == p))
/-- `wp.clr all`. -/
def execWpClrAll (s : State) : Out := .next (s.disarm fun _ => true)

/-- `wp.st sD, #p`. -/
def execWpSt (d : BitVec 6) (p : BitVec 4) (s : State) : Out :=
  .next <| s.issue { writes := [.s d] } fun s =>
    let armed := (s.ctx s.gang.vf).watch.any fun w => w.p == p
    let c := s.watchCount p
    (s.writeS d (if armed then bit true ++ 0#15 ++ c.1 ++ c.2 else 0)).advance

/-- `wp.st sD, log`. -/
def execWpStLog (d : BitVec 6) (s : State) : Out :=
  .next <| s.issue { ok := d != 63, writes := [.s d, .s (d + 1)] } fun s =>
    let c := s.ctx s.gang.vf
    let (h, t, o) := popLog c.wlog c.wlogOvf
    ((s.updCtx s.gang.vf fun c => { c with wlog := t, wlogOvf := o }).writeRecord d h).advance

/-! ## Targets (22 R340) -/

/-- A target pair resolved: the group and the lane. -/
structure Target where
  g : GroupRef
  lane : Nat
  deriving DecidableEq, Repr

/-- The resident group a target pair names for an agent of a context; the pair has no reserved bit set. -/
def State.findTarget (s : State) (vf : BitVec 7) (a b : W64) : Option Target :=
  if field a 39 25 ≠ (0 : BitVec 25) || field b 43 21 ≠ (0 : BitVec 21) then none
  else
    let named : BitVec 7 := field a 32 7
    let v := if named = 0 then vf else named
    let launch : BitVec 32 := field a 0 32
    let gang : BitVec 32 := field b 0 32
    let grp : BitVec 5 := field b 32 5
    (s.residents.find? fun r => r.gang.vf == v && !s.captured v && r.gang.launch == launch && r.gang.idx == gang &&
        r.groups.any fun g => g.idx == grp && !g.retired).map fun r =>
      { g := { gang := { vf := v, seq := r.gang.seq, gang := gang }, group := grp }
        lane := (field b 37 6 : BitVec 6).toNat }

/-- Whether a context may target a virtual function. -/
def State.debugCap (s : State) (vf target : BitVec 7) : Bool :=
  let v := if target = 0 then vf else target
  1 ≤ v.toNat && v.toNat ≤ 64 && (s.ctx vf).dbgMask.getLsbD (v.toNat - 1)

/-- What a debug instruction needs: its target pair. -/
def dbgUse (a : BitVec 6) (ok : Bool) (reads : List (Reg × Bool)) (writes : List Reg) : Use :=
  { ok := ok && a != 63, reads := (.s a, false) :: (.s (a + 1), false) :: reads, writes }

/-- A debug instruction: without the capability it traps DBG_CAP, without a target DBG_TARGET (22 R340). -/
def State.debug (s : State) (u : Use) (a : BitVec 6) (f : State → Target → State) : State :=
  s.issue u fun s =>
    let x := s.readS a
    if !s.debugCap s.gang.vf (field x 32 7) then s.trap cDBG_CAP
    else match s.findTarget s.gang.vf x (s.readS (a + 1)) with
      | none => s.trap cDBG_TARGET
      | some t => f s t

/-! ## Splits of a lane, in the table and on the stack -/

/-- The splits of a group, the table first. -/
def Group.allSplits (g : Group) : List Split := (g.splits.list.map (·.2)) ++ g.overflow

/-- The split that holds a lane, wherever it is. -/
def Group.laneSplit (g : Group) (lane : Nat) : Option Split := g.allSplits.find? fun x => x.mask.getLsbD lane

/-- The split that holds a lane changed. -/
def Group.updLane (g : Group) (lane : Nat) (f : Split → Split) : Group :=
  let h (x : Split) : Split := if x.mask.getLsbD lane then f x else x
  { g with splits := g.splits.map h, overflow := g.overflow.map h }

/-- Every split of the group is held. -/
def Group.allHeld (g : Group) : Bool := g.allSplits.all fun x => x.isFree || x.held

/-! ## Halting and releasing (22 R336, R341) -/

/-- A lane on the overflow stack held: carved into an entry of its own above the others, or its whole entry. -/
def State.holdStacked (s : State) (lane : Nat) (h : Stop) : State :=
  let g := s.grp
  match g.overflow.find? fun x => x.mask.getLsbD lane with
  | none => s
  | some x =>
    if x.mask = laneBit lane || 16 ≤ g.overflow.length then { s with grp := g.updLane lane (Split.hold h) }
    else
      let rest := g.updLane lane fun y => { y with mask := y.mask &&& ~~~(laneBit lane), joined := none }
      let new := Split.hold h { x with mask := laneBit lane, age := 0, promoted := none, joined := none }
      ({ s with grp := { rest with overflow := new :: rest.overflow } }).traceSplit 15 15 1 (laneBit lane) x.pc

/-- A debug halt of a scope of the group in focus. -/
def State.debugHalt (s : State) (scope : BitVec 2) (lane : Nat) : State :=
  match scope.toNat with
  | 0 => match s.grp.splitOf lane with
    | some k => s.holdLane k lane {}
    | none => s.holdStacked lane {}
  | 1 => { s with grp := s.grp.holdAll {} }
  | _ => s.mapGang (Group.holdAll {})

/-- Whether the target of a halt is gone: its lane exited, or for a wider scope no lane is live. -/
def State.haltGone (s : State) (scope : BitVec 2) (lane : Nat) : Bool :=
  match scope.toNat with
  | 0 => !s.grp.live.getLsbD lane
  | 1 => s.grp.live == 0
  | _ => (s.grp :: s.peers).all fun g => g.live == 0

/-- A split that was blocked while running tests its condition afresh. -/
def Split.afresh (x : Split) : Split :=
  match x.st with
  | .inTsal _ _ _ | .inPop _ _ _ _ | .yielded _ _ => { x with st := .running, blk := .no }
  | _ => { x with blk := .no }

/-- A held split released: one that was blocked runs again; a waiting or sleeping one waits again; one whose wait ended meanwhile
goes on. -/
def Split.release (x : Split) : Split :=
  if !x.held then x
  else match x.st with
    | .passed _ _ => { x with held := false }.goOn
    | _ => { x with held := false }.afresh

/-- The register writes of splits that go on when they are released (15 R248). -/
def Group.passedWrites (g : Group) (l : List Split) : Group :=
  l.foldl (fun g x => match x.st with
    | .passed (some d) v => if x.held then g.setS d v else g
    | _ => g) g

/-- Every split of a group that satisfies p released. -/
def Group.releaseIf (p : Split → Bool) (g : Group) : Group :=
  let f (x : Split) : Split := if p x then x.release else x
  let g := g.passedWrites (g.allSplits.filter p)
  { g with splits := g.splits.map f, overflow := g.overflow.map f }

/-- Every split of a group released. -/
def Group.release (g : Group) : Group := g.releaseIf fun _ => true

/-- Groups of the gang in focus changed one after another, each in focus; the focus comes back. -/
def State.eachGroup (s : State) (f : State → State) : State :=
  let ids := (s.grp :: s.peers).map (·.idx)
  let me := s.self
  ids.foldl (fun s i => s.at { me with group := i } f) s

/-- A release of a scope of the group in focus, and whether anything was held there; joins that wait are tested at once. -/
def State.debugGo (s : State) (scope : BitVec 2) (lane : Nat) : Bool × State :=
  match scope.toNat with
  | 0 =>
    let held := match s.grp.laneSplit lane with | some x => x.held | none => false
    (held, if held then ({ s with grp := s.grp.releaseIf fun x => x.mask.getLsbD lane }).recheck 0 else s)
  | 1 =>
    let held := s.grp.allSplits.any (·.held)
    (held, if held then ({ s with grp := s.grp.release }).recheck 0 else s)
  | _ =>
    let held := (s.grp :: s.peers).any fun g => g.allSplits.any (·.held)
    (held, if held then s.eachGroup fun s =>
      if s.grp.allSplits.any (·.held) then ({ s with grp := s.grp.release }).recheck 0 else s else s)

/-- A status of the debug instructions (22 R340). -/
def dDONE : W64 := 0
def dPENDING : W64 := 1
def dNOT_HELD : W64 := 3
def dNO_ENTRY : W64 := 4
def dGONE : W64 := 5
def dNO_REG : W64 := 6

/-- The halt command on a target: its status, and the state after it. -/
def State.haltTarget (s : State) (t : Target) (scope : BitVec 2) : W64 × State :=
  match s.focus t.g with
  | none => (dGONE, s)
  | some u => if u.haltGone scope t.lane then (dGONE, s) else (dDONE, s.at t.g fun u => u.debugHalt scope t.lane)

/-- The release command on a target. -/
def State.goTarget (s : State) (t : Target) (scope : BitVec 2) : W64 × State :=
  match s.focus t.g with
  | none => (dNOT_HELD, s)
  | some u => if (u.debugGo scope t.lane).1 then (dDONE, s.at t.g fun u => (u.debugGo scope t.lane).2) else (dNOT_HELD, s)

/-- `dbg.halt` (22 R341): the agent's own split is held after this instruction. -/
def execDbgHalt (d a : BitVec 6) (scope : BitVec 2) (s : State) : Out :=
  .next <| s.debug (dbgUse a true [] [.s d]) a fun s t =>
    let me := s.self
    let (st, s) := s.advance.haltTarget t scope
    s.at me fun s => s.writeS d st

/-- `dbg.go` (22 R341). -/
def execDbgGo (d a : BitVec 6) (scope : BitVec 2) (s : State) : Out :=
  .next <| s.debug (dbgUse a true [] [.s d]) a fun s t =>
    let me := s.self
    let (st, s) := s.advance.goTarget t scope
    s.at me fun s => s.writeS d st

/-! ## Steps (22 R343) -/

/-- A held split about to be stepped: what it was blocked by while running, or parked on, is tested afresh. -/
def Split.forStep (x : Split) : Split :=
  match x.st with
  | .parked _ _ => { x with st := .running, blk := .no }
  | _ => x.afresh

/-- A target lane made ready for a step: alone in a held split of the table, or the status that says why it is not. -/
def State.carveStep (s : State) (lane : Nat) : Except W64 State :=
  if !s.grp.live.getLsbD lane then .error dGONE
  else match s.grp.splitOf lane with
    | none => .error dNO_ENTRY
    | some k =>
      let x := s.grp.splits.get k
      if !x.held then .error dNOT_HELD
      else if x.mask = laneBit lane then .ok { s with grp := s.grp.updSplit k Split.forStep }
      else match s.grp.splits.firstFree with
        | none => .error dNO_ENTRY
        | some _ =>
          match s.grp.carve k (laneBit lane) Split.forStep with
          | some (g, j) => .ok (({ s with grp := g }).traceSplit k.toNat (match j with | some i => i.toNat | none => 15) 1 (laneBit lane) x.pc)
          | none => .error dNO_ENTRY

/-- A step of a target: its status at once, or the lane's instruction as the very next move. -/
def State.stepTarget (s : State) (t : Target) (agent : Option (GroupRef × BitVec 6)) : State :=
  match s.focus t.g with
  | none => s.stepStatus t.g agent dGONE
  | some u =>
    if (s.ctx t.g.gang.vf).stopped then s.stepStatus t.g agent dPENDING
    else match u.carveStep t.lane with
    | .error st => s.stepStatus t.g agent st
    | .ok _ =>
      let s := s.at t.g fun u => match u.carveStep t.lane with | .ok v => v | .error _ => u
      { s with agenda := .stepLane t.g (BitVec.ofNat 6 t.lane) agent :: s.agenda }

/-- `dbg.step` (22 R343). -/
def execDbgStep (d a : BitVec 6) (s : State) : Out :=
  .next <| s.debug (dbgUse a true [] [.s d]) a fun s t => s.advance.stepTarget t (some (s.self, d))

/-! ## Registers of a target (22 R338, R342) -/

/-- File and number of a register code. -/
def codeFile (r : BitVec 9) : Nat := (field r 7 2 : BitVec 2).toNat
def codeNum (r : BitVec 9) : Nat := (field r 0 7 : BitVec 7).toNat

/-- The register a code names, where it is one of the three files. -/
def codeReg (r : BitVec 9) : Option Reg :=
  match codeFile r with
  | 0 => some (.v (codeNum r))
  | 1 => some (.s (BitVec.ofNat 6 (codeNum r)))
  | 2 => some (.m (codeNum r))
  | _ => none

/-- Whether the group in focus has the register. -/
def State.hasReg (s : State) (r : BitVec 9) : Bool :=
  match codeFile r with
  | 0 => codeNum r < s.gang.lrec.nv
  | 1 => codeNum r < 64
  | 2 => codeNum r < s.gang.lrec.nm
  | _ => codeNum r ≤ 6

/-- A register of the group in focus, with its status. -/
def State.debugRead (s : State) (lane : Nat) (r : BitVec 9) : W64 × W64 :=
  let g := s.grp
  let file (v : W64) : W64 × W64 := (v, match codeReg r with | some x => if g.isEmpty x then dPENDING else dDONE | none => dDONE)
  let ofSplit (f : Split → W64) : W64 × W64 := match g.laneSplit lane with | some x => (f x, dDONE) | none => (0, dGONE)
  if !s.hasReg r then (0, dNO_REG)
  else match codeFile r with
    | 0 => file ((g.vreg (codeNum r) lane).setWidth 64)
    | 1 => file (g.sreg (BitVec.ofNat 6 (codeNum r)))
    | 2 => file (g.mreg (codeNum r) lane)
    | _ => match codeNum r with
      | 0 => ofSplit (·.pc)
      | 1 => ofSplit (·.mode)
      | 2 => ofSplit (·.mask)
      | 3 => ofSplit fun x => BitVec.ofNat 64 x.code
      | 4 => (g.live, dDONE)
      | 5 => (g.tsf, dDONE)
      | _ => (g.aef, dDONE)

/-- The producer of an empty register loses its write of it. One that a fault holds is dropped from its fault, with its whole
write: its registers are full, their values unchanged, and the splits parked on it run again; of a pop the claim stays, its slot
counting as read. Any other goes on without that write (22 R342, log 68). -/
def Group.cancel (g : Group) (r : Reg) : Group :=
  let held (e : Entry) : Bool := e.held.isSome && e.writes.contains r
  let gone (e : Entry) : Bool := held e && e.op != .qpop
  let out := g.flight.filter held
  let resume (x : Split) : Split :=
    match x.st with
    | .parked va false => if out.any fun e => e.held == some va then { x with st := .running, blk := .no } else x
    | _ => x
  let g := g.markAll false (out.flatMap Entry.writes)
  { g with
    flight := (g.flight.filter fun e => !gone e).map fun (e : Entry) =>
      if held e then { e with held := none, accs := [], cancelled := e.dest.regs }
      else if e.writes.contains r then { e with cancelled := r :: e.cancelled } else e
    splits := g.splits.map resume, overflow := g.overflow.map resume
    frame := { g.frame with splits := g.frame.splits.map resume, stack := g.frame.stack.map resume } }

/-- Every split of a group changed. -/
def Group.mapSplits (g : Group) (f : Split → Split) : Group :=
  let h (x : Split) : Split := if x.isFree then x else f x
  { g with splits := g.splits.map h, overflow := g.overflow.map h }

/-- A register of the group in focus written by an agent: its status, and the group after it (22 R342). -/
def State.debugWrite (s : State) (lane : Nat) (r : BitVec 9) (v : W64) (force : Bool) : W64 × Group :=
  let g := s.grp
  let put (x : Reg) (h : Group → Group) : W64 × Group :=
    if !g.isEmpty x then (dDONE, h g)
    else if force then (dDONE, h ((g.cancel x).mark false x))
    else (dPENDING, g)
  if !s.hasReg r then (dNO_REG, g)
  else
    let n := codeNum r
    let laneHeld := match g.laneSplit lane with | some x => x.held | none => false
    match codeFile r with
    | 0 =>
      if !g.live.getLsbD lane then (dGONE, g)
      else if !laneHeld then (dNOT_HELD, g) else put (.v n) fun g => g.setV n lane (v.setWidth 32)
    | 2 =>
      if !g.live.getLsbD lane then (dGONE, g)
      else if !laneHeld then (dNOT_HELD, g) else put (.m n) fun g => g.setM n lane v
    | 1 =>
      if g.live = 0 then (dGONE, g)
      else if !g.allHeld then (dNOT_HELD, g) else put (.s (BitVec.ofNat 6 n)) fun g => g.setS (BitVec.ofNat 6 n) v
    | _ =>
      if 2 ≤ n && n ≤ 4 then (dNO_REG, g)
      else if g.live = 0 then (dGONE, g)
      else if !g.allHeld then (dNOT_HELD, g)
      else match n with
        | 0 => (dDONE, g.mapSplits fun x => { x.setPc (v &&& ~~~3) with st := .running, blk := .no })
        | 1 => if modeOk v then (dDONE, g.mapSplits fun x => { x with mode := v }) else (dNO_REG, g)
        | 5 => (dDONE, { g with tsf := v &&& 3 })
        | _ => (dDONE, { g with aef := v &&& 0x3F })

/-- A write to a target: its status, and the state after it. -/
def State.writeTarget (s : State) (t : Target) (r : BitVec 9) (v : W64) (force : Bool) : W64 × State :=
  match s.focus t.g with
  | none => (dGONE, s)
  | some u => ((u.debugWrite t.lane r v force).1, s.at t.g fun u => { u with grp := (u.debugWrite t.lane r v force).2 })

/-- A read of a target. -/
def State.readTarget (s : State) (t : Target) (r : BitVec 9) : W64 × W64 :=
  match s.focus t.g with
  | none => (0, dGONE)
  | some u => u.debugRead t.lane r

/-- `dbg.rd` (22 R342): a long-latency producer of its value and its status. -/
def execDbgRd (d a : BitVec 6) (r : BitVec 9) (s : State) : Out :=
  .next <| s.debug (dbgUse a (d != 63) [] [.s d, .s (d + 1)]) a fun s t =>
    let e : Entry := { s.newEntry (.dbgRd d a r) (.dbgRd t.g (BitVec.ofNat 6 t.lane) r) with
      scal := [s.readS a, s.readS (a + 1)], dest := Dest.scal d.toNat 2 }
    let s := { s with grp := (s.grp.markAll true e.dest.regs).bump }
    (s.launchEntry e).advance

/-- A `dbg.rd` completes: the register as it is now. -/
def State.endDbgRd (s : State) (e : Entry) (g : GroupRef) (lane : BitVec 6) (r : BitVec 9) : State :=
  let (v, st) := s.readTarget { g, lane := lane.toNat } r
  let d : BitVec 6 := e.dest.reg.setWidth 6
  let s := s.keeping ((s.writeS d v).writeS (d + 1) st) e.cancelled
  (s.fillDest e).dropEntry e.id

/-- A debug write; the value is read before any status is written. -/
def State.debugWr (s : State) (d a : BitVec 6) (r : BitVec 9) (force : Bool) : State :=
  s.debug (dbgUse a (d != 63) [(.s d, false)] [.s (d + 1)]) a fun s t =>
    let me := s.self
    let (st, s) := s.writeTarget t r (s.readS d) force
    (s.at me fun s => s.writeS (d + 1) st).advance

/-- `dbg.wr`. -/
def execDbgWr (d a : BitVec 6) (r : BitVec 9) (s : State) : Out := .next (s.debugWr d a r false)
/-- `dbg.wr.f`. -/
def execDbgWrF (d a : BitVec 6) (r : BitVec 9) (s : State) : Out := .next (s.debugWr d a r true)

/-! ## Held splits listed (22 R344) -/

/-- A held split with what `dbg.ls` gives of it, and the keys of its place in the list. -/
structure HeldSplit where
  key : Nat × Nat × Nat
  hit : BitVec 128
  launch : BitVec 32
  gang : BitVec 32
  grp : BitVec 5
  lane : Nat
  deriving DecidableEq, Repr

/-- The order of the list: gang, group, split. -/
def HeldSplit.before (a b : HeldSplit) : Bool :=
  a.key.1 < b.key.1 || (a.key.1 == b.key.1 && (a.key.2.1 < b.key.2.1 || (a.key.2.1 == b.key.2.1 && a.key.2.2 < b.key.2.2)))

/-- A held split put at its place. -/
def insertHeld (h : HeldSplit) : List HeldSplit → List HeldSplit
  | [] => [h]
  | x :: t => if h.before x then h :: x :: t else x :: insertHeld h t

/-- The held splits of a context in ascending order of launch and gang, group and split. -/
def State.heldSplits (s : State) (vf : BitVec 7) : List HeldSplit :=
  let l := (s.residents.filter fun r => r.gang.vf == vf).flatMap fun r => r.groups.flatMap fun g =>
    ((List.range g.allSplits.length).zip g.allSplits).filterMap fun x =>
      if x.2.isFree || !x.2.held then none
      else some ({ key := (r.gang.seq.toNat * 2 ^ 32 + r.gang.idx.toNat, g.idx.toNat, x.1), hit := x.2.hit,
                   launch := r.gang.launch, gang := r.gang.idx, grp := g.idx, lane := lowestBit x.2.mask } : HeldSplit)
  l.foldl (fun l h => insertHeld h l) []

/-- `dbg.ls` (22 R344). -/
def execDbgLs (d a : BitVec 6) (s : State) : Out :=
  .next <| s.issue { ok := d.toNat ≤ 60, reads := [(.s a, false)], writes := [.s d, .s (d + 1), .s (d + 2), .s (d + 3)] } fun s =>
    let x := s.readS a
    let named : BitVec 7 := field x 32 7
    if !s.debugCap s.gang.vf named then s.trap cDBG_CAP
    else if field x 0 32 ≠ (0 : BitVec 32) || x.getLsbD 39 || field x 56 8 ≠ (0 : BitVec 8) then s.trap cDBG_TARGET
    else
      let v := if named = 0 then s.gang.vf else named
      match (s.heldSplits v)[(field x 40 16 : BitVec 16).toNat]? with
      | none => ((s.writeRecord d 0).writeRecord (d + 2) 0).advance
      | some h =>
        let hi : W64 := (BitVec.ofNat 6 h.lane ++ h.grp).setWidth 32 ++ h.gang
        let lo : W64 := named.setWidth 32 ++ h.launch
        ((s.writeRecord d h.hit).writeRecord (d + 2) (hi ++ lo)).advance

/-! ## The register mirror (22 R345) -/

/-- DBG_TARGET as DMSTAT gives it. -/
def dTARGET : W64 := 7

/-- BUSY: a command of the mirror has not ended. -/
def dmBUSY : W64 := 1#64 <<< 63

/-- A command of the register mirror on its target; one while BUSY is ignored. -/
def State.mirror (s : State) (vf : BitVec 7) (f : State → Target → State) : State :=
  let c := s.ctx vf
  if c.dmStat.getLsbD 63 then s
  else match s.findTarget vf c.dmt0 c.dmt1 with
  | some t => if t.g.gang.vf = vf then f s t else s.updCtx vf fun c => { c with dmStat := dTARGET }
  | none => s.updCtx vf fun c => { c with dmStat := dTARGET }

/-- A status of the mirror. -/
def State.mirrorStat (s : State) (vf : BitVec 7) (st : W64) : State := s.updCtx vf fun c => { c with dmStat := st }

/-- `DM_HALT`. -/
def execDmHalt (vf : BitVec 7) (scope : BitVec 2) (s : State) : Out :=
  .next <| s.mirror vf fun s t => let (st, s) := s.haltTarget t scope; s.mirrorStat vf st
/-- `DM_GO`. -/
def execDmGo (vf : BitVec 7) (scope : BitVec 2) (s : State) : Out :=
  .next <| s.mirror vf fun s t => let (st, s) := s.goTarget t scope; s.mirrorStat vf st
/-- `DM_STEP`: BUSY until the step is done. -/
def execDmStep (vf : BitVec 7) (s : State) : Out :=
  .next <| s.mirror vf fun s t => (s.mirrorStat vf dmBUSY).stepTarget t none
/-- `DM_RD`. -/
def execDmRd (vf : BitVec 7) (r : BitVec 9) (s : State) : Out :=
  .next <| s.mirror vf fun s t =>
    let (v, st) := s.readTarget t r
    s.updCtx vf fun c => { c with dmData := v, dmStat := st }
/-- `DM_WR`. -/
def execDmWr (vf : BitVec 7) (r : BitVec 9) (s : State) : Out :=
  .next <| s.mirror vf fun s t => let (st, s) := s.writeTarget t r (s.ctx vf).dmData false; s.mirrorStat vf st
/-- `DM_WR.F`. -/
def execDmWrF (vf : BitVec 7) (r : BitVec 9) (s : State) : Out :=
  .next <| s.mirror vf fun s t => let (st, s) := s.writeTarget t r (s.ctx vf).dmData true; s.mirrorStat vf st

/-! ## Marks (22 R350) -/

/-- `tr.mark`. -/
def execTrMark (a : BitVec 6) (k : BitVec 9) (s : State) : Out :=
  .next <| s.issue { reads := [(.s a, false)] } fun s =>
    (if s.grp.tracectl.getLsbD 3 then s.packet 7 (toBytes 2 k.toNat ++ toBytes 8 (s.readS a).toNat) else s).advance

end Sys2Proof.Machine
end

