-- ==== Sys2Proof/Machine/Faults.lean ====
section
/-!
DEFINITION. Sys2Proof/Machine/Faults.lean: producers that complete, load values evaluated, and the service of held faults: retries,
migration, the host's answers and invalidation (04 R45, 22 R334, 18 R280, R283 to R287, R292, R293).
-/

namespace Sys2Proof.Machine

/-! ## Producers (04 R45) -/

/-- A `tv` fills its register with the values it read at issue, in the lanes still live (03 R16). -/
def State.endTv (s : State) (e : Entry) : State :=
  let out := (lanesOf (e.active &&& s.grp.live)).map fun l => (l, e.result.get l)
  let r := e.dest.reg.toNat
  let t := if e.dest.count = 2 then { s with grp := s.grp.putPair r out }
    else { s with grp := s.grp.putV r (out.map fun x => (x.1, x.2.setWidth 32)) }
  ((s.keeping t e.cancelled).fillDest e).dropEntry e.id

/-- `PRODUCER COMPLETION`: lanes of a load are performed, or another long-latency producer writes its destination. -/
def execProducerCompletion (g : GroupRef) (id : Nat) (lanes : Mask) (s : State) : Out :=
  .next <| s.onFlight g fun s =>
    match s.grp.entry id with
    | none => s
    | some e =>
      match e.op with
      | .ld _ => s.performLoad e lanes
      | .atom _ | .chunk => s.finishBank e
      | .tv => s.endTv e
      | .qpop => s.endPop e
      | .qpush => s.endPush e
      | .pmtGet | .pmtRet => s.endPermit e
      | .dbgRd t lane r => s.endDbgRd e t lane r
      | _ => s

/-! ## Load values (22 R332 to R334) -/

/-- A halt that lands on a lane wherever its split is now. -/
def State.haltLate (s : State) (act : BitVec 3) (k : BitVec 2) (lane : Nat) (h : Stop) : State :=
  if act.toNat = 2 then
    match s.grp.splitOf lane with
    | some j => s.holdLane j lane h
    | none => s.holdStacked lane h
  else s.halt act k lane 2 h

/-- What follows the evaluation of a landed load: what its strongest firing does, with the skid of the split that holds the firing
lane (22 R334, R335). -/
def State.actLate (s : State) (fs : List Firing) (e : Entry) : State :=
  match strongest fs with
  | none => s
  | some f =>
    let skid := s.grp.skidOf e f.lane
    let (s, recs) := s.logFirings fs f.act e.split skid e.pc
    let h : Stop := { hit := s.hitRecord f f.act e.split skid e.pc, hits := recs }
    if f.act.toNat = 1 then
      s.pend { cause := cWATCH_TRAP, tkind := 3, pc := e.pc, split := e.split, detail := f.p.setWidth 64, va := 0, id := e.id,
               queued := false, hits := recs }
    else s.haltLate f.act e.split f.lane h

/-- A load or returning atomic whose values wait for load-value predicates, or whose addresses or operands fired ones that act when
it has landed. -/
def Entry.toEvaluate (e : Entry) : Bool := (!e.watch.isEmpty || !e.fired.isEmpty) && e.finished && !e.op.isEngine && e.err == 0 && e.held.isNone

/-- `WATCH LOAD-VALUE EVALUATION`: the oldest value under evaluation is evaluated; of all that its instruction fired the strongest
acts (22 R333). -/
def execWatchLoadValueEvaluation (g : GroupRef) (s : State) : Out :=
  .next <| s.onGroup g fun s =>
    if s.grp.frame.active then s
    else match s.grp.flight.find? fun e => e.toEvaluate && e.writes.isEmpty with
      | none => s
      | some e =>
        let vals := e.accs.map fun a => (a.lane, e.result.get a.lane)
        let (s, fs) := s.evaluate [(2, vals)] e.watch
        (s.actLate (e.fired.foldl (fun l f => insertFiring f l) fs) e).dropEntry e.id

/-! ## Held accesses released (18 R283) -/

/-- A split parked on a page becomes ready. -/
def Split.unpark (page : W64) (x : Split) : Split :=
  match x.st with
  | .parked va _ => if pageOf va = page then { x with st := .running, blk := .no } else x
  | _ => x

/-- Every split of a group parked on a page, those saved in its frame included, becomes ready. -/
def Group.unpark (page : W64) (g : Group) : Group :=
  { g with splits := g.splits.map (Split.unpark page), overflow := g.overflow.map (Split.unpark page),
           frame := { g.frame with splits := g.frame.splits.map (Split.unpark page), stack := g.frame.stack.map (Split.unpark page) } }

/-- A held access of the group in focus translated again: performed in its turn, held again, or trapping; a record load that is
refused now is refused as at its issue (06 R136). -/
def State.retryEntry (s : State) (e : Entry) : State :=
  if e.op.isEngine then s.updEntry (s.retrying e)
  else
    let (e, s) := s.loadEntry { e with held := none }
    if e.op.whole && e.err == 0 && e.held.isNone then
      let (e, s) := (s.dropEntry e.id).loadWhole e
      if e.err = 0 then s else if refusesPrecisely e.err then s.refuseWhole e else s.launchEntry e
    else if e.err = 0 then s.updEntry e else s.failEntry e

/-- The held accesses of the group in focus on a page retried, its parked splits ready. -/
def State.releaseHere (page : W64) (s : State) : State :=
  let l := s.grp.flight.filter fun e => e.pages.contains page
  let s := { s with grp := s.grp.unpark page }
  l.foldl State.retryEntry s

/-- Every resident group of a context. -/
def State.groupsOf (s : State) (vf : BitVec 7) : List GroupRef :=
  (s.residents.filter fun r => r.gang.vf == vf).flatMap fun r => r.groups.map fun g =>
    { gang := { vf := vf, seq := r.gang.seq, gang := r.gang.idx }, group := g.idx }

/-- A change made in each of several groups, the focus coming back. -/
def State.atAll (s : State) (f : State → State) (l : List GroupRef) : State := l.foldl (fun s g => s.at g f) s

/-- The accesses of a context that a page holds released. -/
def State.releasePage (s : State) (vf : BitVec 7) (page : W64) : State := s.atAll (State.releaseHere page) (s.groupsOf vf)

/-- A fault record of a die without it. -/
def State.dropRecord (s : State) (f : FaultRec) : State :=
  let s := { s with faults := s.faults.filter fun x => !(x.die == f.die && x.slot == f.slot) }
  s.updCtx f.vf fun c => { c with forward := c.forward.filter fun q => q != (f.die, f.slot) }

/-- The record of a slot. -/
def State.faultAt (s : State) (die : BitVec 3) (slot : BitVec 12) : Option FaultRec :=
  s.faults.find? fun f => f.die == die && f.slot == slot

/-- `FRESP` RESUME: the accesses a record holds are released (18 R286). -/
def execFrespResume (vf : BitVec 7) (die : BitVec 3) (slot : BitVec 12) (s : State) : Out :=
  .next <|
    match s.faultAt die slot with
    | some f => if f.vf = vf && f.kind != 1 then (s.dropRecord f).releasePage vf f.va else s
    | none => s

/-! ## Refusal (18 R286) -/

/-- The trap of a split parked on a refused page by its own fetch, the fetch of a record it names, or its queue's page, which names the
faulting address (18 R282, R286, R290); one that waits for a held access goes on, and has none. -/
def Split.refused (page : W64) (id : Nat) (q : BitVec 2 × Split) : Option Due :=
  match q.2.st with
  | .parked va true =>
    if pageOf va ≠ page || q.2.isFree then none
    else some { cause := cFILL_REFUSED, tkind := 0, pc := q.2.pc, split := q.1, detail := 0, va, id, queued := false, hits := [] }
  | _ => none

/-- The splits parked on a refused page go on; those parked by themselves trap at the group's next boundary, those saved in its frame
at the first after its handler's return (18 R286). -/
def State.refuseSplits (page : W64) (s : State) : State :=
  let f := s.grp.frame
  let here := s.grp.splits.list.filterMap (Split.refused page s.grp.nextId)
  let saved := if f.active then f.splits.list.filterMap (Split.refused page s.grp.nextId) else []
  let g := s.grp.unpark page
  here.foldl State.pend { s with grp := { g with frame := { g.frame with later := g.frame.later ++ saved } } }

/-- An operation after the refusal of a page on which it is held: a core's carries the cause, an engine's part is a fault when it
lands. -/
def Entry.refusedOn (page : W64) (e : Entry) : Entry :=
  let e1 := e.onPages (e.pages.filter (· != page))
  if e.op.isEngine then { e1 with refused := page :: e.refused }
  else
    let va := ((e.accs.find? fun a => a.place == .virt && pageOf a.addr == page).map (·.addr)).getD page
    { e1 with err := cFILL_REFUSED, va }

/-- A held access refused: a core's traps with the access in the replay queue, an engine's part is a fault when it lands. -/
def State.refuseEntry (page : W64) (s : State) (e : Entry) : State :=
  if e.op.isEngine then s.updEntry (e.refusedOn page) else s.failEntry (e.refusedOn page)

/-- The held accesses of the group in focus on a page refused; those of its replay queue raise the cause when they are re-injected. -/
def State.refuseHere (page : W64) (s : State) : State :=
  let l := s.grp.flight.filter fun e => e.pages.contains page
  let s := s.refuseSplits page
  let f (e : Entry) : Entry := if e.pages.contains page then e.refusedOn page else e
  let s := { s with grp := { s.grp with rq := s.grp.rq.map f, behind := s.grp.behind.map f } }
  l.foldl (State.refuseEntry page) s

/-- `FRESP` REFUSE. -/
def execFrespRefuse (vf : BitVec 7) (die : BitVec 3) (slot : BitVec 12) (s : State) : Out :=
  .next <|
    match s.faultAt die slot with
    | some f => if f.vf = vf && f.kind != 1 then (s.dropRecord f).atAll (State.refuseHere f.va) (s.groupsOf vf) else s
    | none => s

/-! ## Retry without a record (18 R284) -/

/-- Splits parked on pages without a record, where no access is held on them either. -/
def State.unparkIdle (s : State) : State :=
  let free (p : W64) : Bool := !s.outstanding p && s.grp.flight.all fun e => !e.pages.contains p
  let pages := s.grp.allSplits.filterMap fun x => match x.st with | .parked va _ => some va | _ => none
  ((pages.map pageOf).filter free).foldl (fun s p => { s with grp := s.grp.unpark p }) s

/-- `FAULT BUFFER RETRY`: an access held without a record is retried, and splits parked so. -/
def execFaultBufferRetry (g : GroupRef) (id : Nat) (s : State) : Out :=
  .next <| s.onGroup g fun s =>
    let s := match s.grp.entry id with
      | some e => match e.held with
        | some page => if e.op.isEngine || !s.outstanding page then s.retryEntry e else s
        | none => s
      | none => s
    s.unparkIdle

/-! ## Migration on touch (18 R285, 19 R309) -/

/-- A map with n entries copied; the destination's own entries go. -/
def copyRange {w : Nat} (m : SMap w) (src dst n : Nat) : SMap w :=
  let kept : SMap w := m.filter fun c => !(dst ≤ c.1 && c.1 < dst + n)
  (m.filter fun c => src ≤ c.1 && c.1 < src + n).foldl (fun m c => SMap.set m (c.1 - src + dst) c.2) kept

/-- Everything cached of the translation of an address of a context dropped (18 R280). -/
def State.dropPage (s : State) (vf : BitVec 7) (va : W64) : State :=
  { s with
    tlb := s.tlb.filter fun t => !t.covers vf va
    dieTlb := s.dieTlb.filter fun t => !t.covers vf va
    tables := s.tables.filter fun t => !t.covers vf va }

/-- An access of some core that an old translation let through into n bytes of memory is still to be performed (18 R280, R285). -/
def State.letThrough (s : State) (src : BitVec 52) (n : Nat) : Bool :=
  (s.residents ++ s.evicted.map (·.image)).any fun r => r.groups.any fun g => g.flight.any fun e => e.held.isNone && e.openAccs.any fun a =>
    a.place == .virt && meet a.pa.toNat a.n src.toNat n

/-- Whether a line lies in n bytes of memory from an address. -/
def lineIn (a : BitVec 52) (n : Nat) (l : BitVec 46) : Bool := a.toNat / 64 ≤ l.toNat && l.toNat < (a.toNat + n) / 64

/-- The uncorrectable lines of a mirrored page's primary frame re-read from its copy, and rewritten, where that is good (23 R363). -/
def State.healFrame (s : State) (src : BitVec 52) (n : Nat) : State :=
  (s.uncorrectable.filter (lineIn src n)).foldl (fun s l => (s.readLine (l ++ 0#6) 64 { mirror := true }).2) s

/-- n bytes of memory copied by firmware, with the keys their lines are held under; an uncorrectable line is reported, and its copy
is uncorrectable too (23 R363). -/
def State.copyFrame (s : State) (src dst : BitVec 52) (n : Nat) : State :=
  let moved (l : BitVec 46) : BitVec 46 := BitVec.ofNat 46 (l.toNat - src.toNat / 64 + dst.toNat / 64)
  let lines := s.uncorrectable.filter (lineIn src n)
  { s with
    mem := copyRange s.mem src.toNat dst.toNat n
    lineKeys := copyRange s.lineKeys (src.toNat / 64) (dst.toNat / 64) (n / 64)
    uncorrectable := lines.map moved ++ s.uncorrectable.filter fun l => !lineIn dst n l
    replies := s.replies ++ lines.map Reply.uncorrectable }

/-- A leaf without its must-be-zero bits (00 R10, 18 R278). -/
def cleanLeaf (pte : BitVec 128) : BitVec 128 :=
  putField (putField (putField pte 90 (0 : BitVec 38)) 52 (0 : BitVec 16)) 3 (0 : BitVec 6)

/-- The leaf of a page that firmware moves to a tier-1 frame, its other fields kept; its D is set (19 R309). -/
def movedLeaf (pte : BitVec 128) (frame : BitVec 52) : BitVec 128 :=
  putField (putField (putField (putField (cleanLeaf pte) 9 (field frame 9 43 : BitVec 43)) 74 (0 : BitVec 1)) 75 (0 : BitVec 1))
    72 (1 : BitVec 1)

/-- The bytes of a leaf's page copied to a frame, of a mirrored page into the copy too. -/
def State.copyPage (s : State) (level : Nat) (pte : BitVec 128) (frame : BitVec 52) : State :=
  let n := 2 ^ pageBits level
  if pteMirror pte then ((s.healFrame (pteAddr pte) n).copyFrame (pteAddr pte) frame n).copyFrame frame (mirrorOf frame) n
  else s.copyFrame (pteAddr pte) frame n

/-- A leaf rewritten to a frame that its page has been copied to: D set and logged, old translations dropped. -/
def State.moveLeaf (s : State) (vf : BitVec 7) (va : W64) (level : Nat) (pte : BitVec 128) (at_ frame : BitVec 52) : State :=
  let s := if pteD pte then s else s.logDirty vf va level
  (s.writePhys at_ (toBytes 16 (movedLeaf pte frame).toNat)).dropPage vf va

/-- The page of a leaf moved to a frame. -/
def State.movePage (s : State) (vf : BitVec 7) (va : W64) (level : Nat) (pte : BitVec 128) (at_ frame : BitVec 52) : State :=
  (s.copyPage level pte frame).moveLeaf vf va level pte at_ frame

/-- A record of the fault buffers goes to the host as KIND 2 (18 R285, R286). -/
def State.toHost (s : State) (f : FaultRec) : State :=
  let s := { s with faults := s.faults.map fun (x : FaultRec) => if x.die == f.die && x.slot == f.slot then { x with kind := 2 } else x }
  (s.updCtx f.vf fun c => { c with forward := c.forward ++ [(f.die, f.slot)] }).forward f.vf

/-- System software gives the firmware a free tier-1 frame of a level's page size (log 69). -/
def State.giveFrame (s : State) (level : BitVec 3) (pa : BitVec 52) : State :=
  if 2 < level.toNat || regionOf pa ≠ .tier1 || pa.toNat % 2 ^ pageBits level.toNat ≠ 0 || s.tier1Free.contains (level, pa) then s
  else { s with tier1Free := s.tier1Free ++ [(level, pa)] }

/-- `MIGRATE-ON-TOUCH SERVICE` (18 R285): the page of a record moves into a free tier-1 frame, once the accesses that an old
translation let through are performed; its own frame is freed to the firmware's pool, and the accesses it holds are released. Where
no frame is free the record goes to the host as KIND 2. -/
def execMigrateOnTouchService (die : BitVec 3) (slot : BitVec 12) (frame : Option (BitVec 52)) (s : State) : Out :=
  .next <|
    match s.faultAt die slot with
    | none => s
    | some f =>
      if f.kind ≠ 1 then s
      else match s.walkVa f.vf none f.va with
        | .leaf l pte at_ =>
          let free := s.tier1Free.filter fun x => x.1.toNat == l
          if !pteMOT pte then (s.dropRecord f).releasePage f.vf f.va
          else match frame with
            | none => if free.isEmpty then s.toHost f else s
            | some pa =>
              if !free.contains (BitVec.ofNat 3 l, pa) || s.letThrough (pteAddr pte) (2 ^ pageBits l) then s
              else
                let s := s.movePage f.vf f.va l pte at_ pa
                let s := { s with
                  tier1Free := s.tier1Free.erase (BitVec.ofNat 3 l, pa)
                  tier2Free := if regionOf (pteAddr pte) = Region.tier2 then s.tier2Free ++ [(BitVec.ofNat 3 l, pteAddr pte)] else s.tier2Free }
                (s.dropRecord f).releasePage f.vf f.va
        | _ => (s.dropRecord f).releasePage f.vf f.va

/-! ## The host fault queue and invalidation (18 R280, R292, R293) -/

/-- `FQHEAD`: waiting records are written as the driver makes room. -/
def execFqhead (vf : BitVec 7) (v : W64) (s : State) : Out :=
  .next ((s.updCtx vf fun c => { c with fqHead := v }).forward vf)

/-- Accesses translated before an invalidation, which completes when they are performed; one that a fault holds no translation has
let through (18 R280). -/
def Group.markStale (covers : W64 → Bool) (g : Group) : Group :=
  { g with flight := g.flight.map fun (e : Entry) =>
      if e.held.isNone && e.openAccs.any fun a => a.place == .virt && covers a.addr then { e with stale := true } else e }

/-- INVAL[1] as read back: no access that an old translation let through is still to be performed. -/
def State.invalDone (s : State) (vf : BitVec 7) : Bool :=
  (s.residents ++ s.evicted.map (·.image)).all fun r =>
    r.gang.vf != vf || r.groups.all fun g => g.flight.all fun e => !e.stale || e.openAccs.isEmpty

/-- Accesses of a context's gangs, resident and evicted, marked so. -/
def State.markStale (s : State) (vf : BitVec 7) (covers : W64 → Bool) : State :=
  let s := s.mapWhere (fun g => g.vf == vf) (Group.markStale covers)
  { s with evicted := s.evicted.map fun (e : Evicted) =>
      if e.image.gang.vf == vf then { e with image := { e.image with groups := e.image.groups.map (Group.markStale covers) } } else e }

/-- `INVAL` of a page: the accesses that a leaf over the named range let through are among those of its 1 GiB. -/
def execInvalPage (vf : BitVec 7) (va : W64) (s : State) : Out :=
  .next ((s.dropPage vf va).markStale vf fun a => a >>> 30 == va >>> 30)

/-- Everything cached of a context's translations dropped. -/
def State.dropAllPages (s : State) (vf : BitVec 7) : State :=
  { s with
    tlb := s.tlb.filter fun t => t.vf != vf
    dieTlb := s.dieTlb.filter fun t => t.vf != vf
    tables := s.tables.filter fun t => t.vf != vf }

/-- `INVAL` of all of the context. -/
def execInvalAll (vf : BitVec 7) (s : State) : Out :=
  .next ((s.dropAllPages vf).markStale vf fun _ => true)

end Sys2Proof.Machine
end

