-- ==== Sys2Proof/Machine/Sched.lean ====
section
/-!
DEFINITION. Sys2Proof/Machine/Sched.lean: the passing of time, the scheduler's moves, retirement, admission, eviction and wakes
(03 R17 to R20, R32 to R37, 14 R235, R236, R241 to R245, 19 R300, 22 R329, R349, R353).
-/

namespace Sys2Proof.Machine

/-! ## Time (22 R353, 05 R80, 14 R241 to R243) -/

/-- The age of promotion (14 R242). -/
def promotionAge : Nat := 32

/-- A split after time has passed: ready cycles counted up to 63, with its promotion; a deadline noted; the cycle of an event over. -/
def Split.pass (now start : W64) (cycles : BitVec 32) (ready : Bool) (x : Split) : Split :=
  let x := if cycles = 0 then x else { x with wokeNow := false }
  match x.st with
  | .running =>
    if ready then
      let age := min 65535 (x.age.toNat + cycles.toNat)
      { x with
        age := BitVec.ofNat 16 age
        promoted := x.promoted.or
          (if promotionAge ≤ age then some (start + BitVec.ofNat 64 (promotionAge - x.age.toNat)) else none) }
    else { x with age := 0, promoted := none }
  | .asleep _ t _ => if t.toNat ≤ now.toNat && x.woke.isNone then { x with woke := some 0 } else x
  | _ => x

/-- A group after time has passed: cycles without a ready split, of which the present one is none where a split has been ready in it;
cycles waiting to move in (14 R241). -/
def Group.pass (now start : W64) (cycles : BitVec 32) (g : Group) : Group :=
  let ready := !g.ready.isEmpty
  let f (x : Split) : Split := x.pass now start cycles (g.inActive && g.alive && x.ready)
  let rest := Split.pass now start cycles false
  let more (n : BitVec 16) : BitVec 16 := BitVec.ofNat 16 (min 65535 (n.toNat + cycles.toNat))
  { g with splits := g.splits.map f, overflow := g.overflow.map rest,
           frame := { g.frame with splits := g.frame.splits.map rest, stack := g.frame.stack.map rest },
           idle := if ready then 0 else BitVec.ofNat 16 (min 65535 (g.idle.toNat + cycles.toNat - if g.wasReady then 1 else 0))
           wasReady := g.wasReady && cycles == 0
           waitIn := if !g.inActive && ready then more g.waitIn else 0 }

/-- The cycles for which a split that is ready may stay unissued (14 R242). -/
def issueBound : Nat := 63

/-- The cycles that may pass before some ready split has waited that long. -/
def State.slack (s : State) : Nat :=
  s.residents.foldl (init := 2 ^ 32) fun n r =>
    (r.groups.filter (·.inActive)).foldl (init := n) fun n g => g.ready.foldl (fun n q => min n (issueBound - q.2.age.toNat)) n

/-- Cycles that dies whose clock is lowered lose, each its own number of those that pass (23 R357). -/
def loseCycles (slow : BitVec 8) (n : BitVec 32) (lost : List (BitVec 32)) (m : SMap 64) : SMap 64 :=
  (lanesOf (slow.setWidth 64)).foldl (init := m) fun m d =>
    let x := (lost[d]?).getD 0
    SMap.set m d (SMap.get m d + (if x.toNat ≤ n.toNat then x else n).setWidth 64)

/-- TIME and the cycle counters advanced, the latter no further than a ready split may wait; dies whose clock is lowered lose
cycles (14 R242, 22 R353, 23 R357). -/
def State.pass (s : State) (ns cycles : BitVec 32) (lost : List (BitVec 32)) : State :=
  let now := deadline s.time (ns.setWidth 64)
  let n : BitVec 32 := if cycles.toNat ≤ s.slack then cycles else BitVec.ofNat 32 s.slack
  let f := Group.pass now s.cycles n
  let s := (({ s with
    time := now, cycles := s.cycles + n.setWidth 64, exited := if n = 0 then s.exited else []
    lost := loseCycles s.service.slowDies n lost s.lost }).mapWhere
      (fun g => !s.captured g.vf) f)
  { s with evicted := s.evicted.map fun (e : Evicted) =>
      if s.captured e.image.gang.vf then e else { e with image := { e.image with groups := e.image.groups.map f } } }

/-! ## Promotion and the register files (14 R241, R242) -/

/-- `SPLIT PROMOTION`: a split whose age has reached 32. -/
def execSplitPromotion (g : GroupRef) (k : BitVec 2) (s : State) : Out :=
  .next <| s.onGroup g fun s =>
    { s with grp := s.grp.updSplit k fun x =>
        if s.grp.inActive && s.grp.alive && x.ready && promotionAge ≤ x.age.toNat && x.promoted.isNone
        then { x with promoted := some s.cycles } else x }

/-! ## Choosing a split (14 R242) -/

/-- A ready split of an active set, with what orders it. -/
structure Issuable where
  gang : GangRef
  group : BitVec 5
  k : BitVec 2
  promoted : Option W64
  deriving DecidableEq, Repr

/-- The ready splits of the active set of a quadrant of a core. -/
def State.issuable (s : State) (die : BitVec 3) (core : BitVec 7) (quad : Nat) : List Issuable :=
  (s.gangsOn die core).flatMap fun r =>
    (r.groups.filter fun g => g.inActive && g.idx.toNat % 4 == quad).flatMap fun g =>
      g.ready.map fun q => { gang := r.gang.ref, group := g.idx, k := q.1, promoted := q.2.promoted }

/-- Whether a split belongs to the older group, or to the same group with a lower index. -/
def Issuable.older (a b : Issuable) : Bool :=
  a.gang.seq.toNat < b.gang.seq.toNat || (a.gang.seq == b.gang.seq && (a.gang.gang.toNat < b.gang.gang.toNat ||
    (a.gang.gang == b.gang.gang && (a.group.toNat < b.group.toNat ||
      (a.group == b.group && a.gang.vf == b.gang.vf && a.k.toNat < b.k.toNat)))))

/-- Whether a split goes before another: promoted ones first, in the order of their promotion; then the older group's. Which of two
groups of different contexts with the same numbers is older, the spec does not say: either may go (log 71). -/
def Issuable.before (a b : Issuable) : Bool :=
  match a.promoted, b.promoted with
  | some x, some y => x.toNat < y.toNat || (x == y && a.older b)
  | some _, none => true
  | none, some _ => false
  | none, none => a.older b

/-- Whether a split is one that its quadrant's scheduler picks. -/
def State.picks (s : State) (g : GroupRef) (k : BitVec 2) : Bool :=
  match s.residents.find? fun r => r.gang.isRef g.gang with
  | none => false
  | some r =>
    let l := s.issuable r.gang.die r.gang.core (g.group.toNat % 4)
    l.any fun x => x.gang == g.gang && x.group == g.group && x.k == k && l.all fun y => !y.before x

/-- The next move: the first of the agenda, else a free choice, in which a split issues only where the scheduler picks it
(log 1). -/
def State.nextMove (s : State) : Move × State :=
  match s.agenda with
  | m :: t => (m, { s with agenda := t, tick := s.tick + 1 })
  | [] =>
    let m := match Config.nextMove s.tick with
      | .issue g k => if s.picks g k then .issue g k else .pass 0 0 []
      | m => m
    (m, { s with tick := s.tick + 1 })

/-- A group not ready for 256 cycles may move out. -/
def Group.mayMoveOut (g : Group) : Bool := g.inActive && !g.retired && 256 ≤ g.idle.toNat

/-- `GROUP MOVE-OUT`. -/
def execGroupMoveOut (g : GroupRef) (s : State) : Out :=
  .next <| s.onGroup g fun s =>
    if s.grp.mayMoveOut then { s with grp := { s.grp with inActive := false, waitIn := 0 } } else s

/-- A group of a quadrant, with what its place in the active file takes. -/
structure QuadGroup where
  ref : GroupRef
  bytes : Nat
  active : Bool
  leaves : Bool
  idle : Nat
  entered : Nat
  slot : BitVec 5
  deriving DecidableEq, Repr

/-- The quadrant of a group (03 R17). -/
def quadOf (i : BitVec 5) : Nat := i.toNat % 4

/-- The unretired groups of a quadrant of a core. -/
def State.quadGroups (s : State) (die : BitVec 3) (core : BitVec 7) (quad : Nat) : List QuadGroup :=
  (s.gangsOn die core).flatMap fun r => r.groups.filterMap fun g =>
    if quadOf g.idx = quad && !g.retired then
      some ({ ref := { gang := { vf := r.gang.vf, seq := r.gang.seq, gang := r.gang.idx }, group := g.idx }
              bytes := r.gang.lrec.footprint, active := g.inActive, leaves := g.mayMoveOut, idle := g.idle.toNat
              entered := g.entered, slot := g.slot } : QuadGroup)
    else none

/-- Bytes of a quadrant's active file, and groups it holds. -/
def activeBytes : Nat := 131072
def activeGroups : Nat := 4

/-- Bytes of a core's backing file. -/
def backingBytes : Nat := 1048576

/-- Bytes left of a core's active and backing files (19 R306, R310). -/
def State.fileOf (s : State) (die : BitVec 3) (core : BitVec 7) : Nat × Nat :=
  match s.service.repaired.find? fun x => x.1 == (die, core) with
  | some x => (x.2.1.toNat, x.2.2.toNat)
  | none => (4 * activeBytes, backingBytes)

/-- Room for one more group of a size among the active ones, in a file of so many bytes. -/
def roomFor (file bytes : Nat) (l : List QuadGroup) : Bool :=
  l.length < activeGroups && (l.map (·.bytes)).sum + bytes ≤ file

/-- The group of a list for which a measure is greatest, the first of equals. -/
def greatest (f : QuadGroup → Nat) : List QuadGroup → Option QuadGroup
  | [] => none
  | x :: t =>
    match greatest f t with
    | some y => if f x < f y then some y else some x
    | none => some x

/-- Active groups taken out until one of a size fits: those that may move out, blocked longest first; then, for a group that
has waited 4,096 cycles, the earliest that entered. Those that leave; none where it cannot fit. -/
def makeRoom (file bytes : Nat) (forced : Bool) : Nat → List QuadGroup → Option (List QuadGroup)
  | 0, l => if roomFor file bytes l then some [] else none
  | n + 1, l =>
    if roomFor file bytes l then some []
    else match (greatest (·.idle) (l.filter (·.leaves))).or
        (if forced then greatest (fun x => (l.map (·.entered)).sum - x.entered) l else none) with
      | none => none
      | some x => (makeRoom file bytes forced n (l.filter (· != x))).map (x :: ·)

/-- `GROUP MOVE-IN`: a group with a ready split, where there is room or room is made. -/
def execGroupMoveIn (g : GroupRef) (s : State) : Out :=
  .next <| s.onGroup g fun s =>
    if s.grp.inActive || (s.ctx s.gang.vf).stopped || s.grp.ready.isEmpty then s
    else
      let active := (s.quadGroups s.gang.die s.gang.core (quadOf s.grp.idx)).filter (·.active)
      match makeRoom ((s.fileOf s.gang.die s.gang.core).1 / 4) s.gang.lrec.footprint (4096 ≤ s.grp.waitIn.toNat) 8 active with
      | none => s
      | some out =>
        let s := s.atAll (fun s => { s with grp := { s.grp with inActive := false } }) (out.map (·.ref))
        { s with order := s.order + 1,
                 grp := { s.grp with inActive := true, entered := s.order, idle := 0, waitIn := 0 } }

/-! ## Retirement (03 R36, R37, 15 R255) -/

/-- A group whose lanes have exited and whose operations have completed. -/
def Group.mayRetire (g : Group) : Bool := !g.retired && g.live == 0 && g.due.isEmpty && g.flight.isEmpty

/-- What the watch bank of a core counts for a context dropped (22 R329). -/
def State.freeBank (s : State) (die : BitVec 3) (core : BitVec 7) (vf : BitVec 7) : State :=
  { s with watchCounts := s.watchCounts.filter fun c => !(c.die == die && c.core == core && c.vf == vf) }

/-- Marks of soft errors in operations of gangs that are gone dropped (23 R362). -/
def State.dropMarks (s : State) (gone : GangRef → Bool) : State :=
  { s with service := { s.service with softErrors := s.service.softErrors.filter fun x => !gone x.1.gang } }

/-- The gang in focus leaves its core: the watch bank is free where it was the context's last there. -/
def State.leaveCore (s : State) : State :=
  let die := s.gang.die
  let core := s.gang.core
  let vf := s.gang.vf
  let s := { s with gang := Gang.blank, grp := Group.blank, peers := [], k := 0 }
  if (s.gangsOn die core).any fun r => r.gang.vf == vf then s
  else s.freeBank die core vf

/-- The gang in focus retires: its permits go back, its core and, with its band's last gang, the band's region are free. -/
def State.retireGang (s : State) : State :=
  let g := s.gang
  let s := { s with exited := s.exited ++ ((s.grp :: s.peers).filter fun (x : Group) => x.retiredAt == s.cycles).map fun (x : Group) => (g, x) }
  let s := (s.returnPermits.dropMarks (· == g.ref)).leaveCore
  let s := { s with bands := s.bands.filter fun b => !b.holds g || !(s.bandGangs b).isEmpty }
  s.updCtx g.vf fun c => { c with
    launches := c.launches.map fun (l : Launch) => if l.seq == g.seq then { l with retired := l.retired + 1 } else l }

/-- `GROUP RETIREMENT`: replay entries are discarded, counters dropped, the slot and footprint released; with its last group
the gang retires. -/
def execGroupRetirement (g : GroupRef) (s : State) : Out :=
  .next <| s.onGroup g fun s =>
    if !s.grp.mayRetire then s
    else
      let s := { s with grp := { s.grp with
        retired := true, retiredAt := s.cycles, rq := [], behind := [], flight := [], counters := [], inActive := false, splits := SplitTable.empty, overflow := []
        frame := { s.grp.frame with active := false } } }
      let s := s.checkBars
      if (s.grp :: s.peers).all (·.retired) then s.retireGang else s

/-! ## What a gang needs of a core (14 R236, 22 R329) -/

/-- Dies, cores of a die, bytes of a core's gang memory, slots of a quadrant, bytes of a die's bank memory. -/
def dieCount : Nat := 8
def coreCount : Nat := 80
def gmemBytes : Nat := 524288
def quadSlots : Nat := 32
def dieBank : Nat := 67108864

/-- Register bytes that a gang's unretired groups hold. -/
def Resident.regBytes (r : Resident) : Nat := (r.groups.filter fun g => !g.retired).length * r.gang.lrec.footprint

/-- A gang that asks for a place: its context, its record, the segments it needs. -/
structure Ask where
  vf : BitVec 7
  lrec : LaunchRec
  segs : Nat
  deriving DecidableEq, Repr

/-- Whether a gang fits a core. -/
def State.fits (s : State) (a : Ask) (die : BitVec 3) (core : BitVec 7) : Bool :=
  let here := s.gangsOn die core
  let need (q : Nat) : Nat := ((List.range a.lrec.groups).filter fun i => i % 4 == q).length
  core.toNat < coreCount && !s.service.failed.contains (die, core) && !s.service.failing.contains (die, core) &&
    ((List.range 4).all fun q => (s.quadGroups die core q).length + need q ≤ quadSlots) &&
    (here.map (·.regBytes)).sum + a.lrec.groups * a.lrec.footprint ≤ (s.fileOf die core).2 &&
    a.lrec.footprint ≤ (s.fileOf die core).1 / 4 &&
    (here.map fun r => r.gang.lrec.gmem.toNat + 8192).sum + a.lrec.gmem.toNat + 8192 ≤ gmemBytes &&
    a.segs ≤ s.unreserved die core &&
    ((s.ctx a.vf).watch.isEmpty || !s.bankTaken a.vf die core)

/-- The cores of a die that a gang fits. -/
def State.coresFor (s : State) (a : Ask) (die : BitVec 3) : List (BitVec 7) :=
  ((List.range coreCount).map (BitVec.ofNat 7)).filter fun c => s.fits a die c

/-- The dies. -/
def dies : List (BitVec 3) := (List.range dieCount).map (BitVec.ofNat 3)

/-! ## Bank regions (06 R106, 14 R236) -/

/-- Every region of bank memory held by any context. -/
def State.allRegions (s : State) : List (Nat × Nat) :=
  (s.contexts.flatMap fun c => c.regions.map fun r => (r.1.toNat, r.2.toNat)) ++
    ((s.bands.filter (·.resident)).map fun b => (b.base.toNat, b.bytes))

/-- n bytes of one die's bank memory from an address, none of them held. -/
def State.bankFree (s : State) (base n : Nat) : Bool :=
  base % 64 == 0 && base / dieBank == (base + n - 1) / dieBank && base + n ≤ dieCount * dieBank &&
    s.allRegions.all fun r => !meet base n r.1 r.2

/-- Whether some base of a die has n free bytes: at its start or just after a region. -/
def State.bankRoom (s : State) (die : BitVec 3) (n : Nat) : Bool :=
  let tries := (die.toNat * dieBank) :: s.allRegions.map fun r => (r.1 + r.2 + 63) / 64 * 64
  tries.any fun b => b / dieBank == die.toNat && s.bankFree b n

/-- A region zeroed. -/
def State.zeroBank (s : State) (base n : Nat) : State := { s with bank := s.bank.filter fun c => !(base ≤ c.1 && c.1 < base + n) }

/-- Bytes of a band's region. -/
def LaunchRec.bandBytes (r : LaunchRec) : Nat := r.bankKB.toNat * 1024 + 256

/-! ## Candidates (14 R235, R244) -/

/-- What an evicted gang needs: its pool and, where it waits in tsal, a request: of several the least, with which a wake condition of
its is met (11 R192, 14 R244, log 78). -/
def Resident.ask (r : Resident) : Ask :=
  let waits := (r.groups.flatMap fun g => g.poolWaits r.gang).map (·.request)
  { vf := r.gang.vf, lrec := r.gang.lrec, segs := r.gang.pool.toNat + (waits.min?).getD 0 }

/-- What a gang never admitted needs. -/
def Launch.ask (l : Launch) (vf : BitVec 7) : Ask := { vf, lrec := l.lrec, segs := l.lrec.tiles.toNat }

/-- A candidate: its first gang, its gangs' needs, its band's region where it has one, and its place in the order. -/
structure Cand where
  ref : GangRef
  asks : List Ask
  band : Option (BitVec 32)
  /-- The base an evicted band's region must have. -/
  base : Option (BitVec 29)
  prio : Nat
  woken : Bool
  order : Nat
  since : W64
  deriving DecidableEq, Repr

/-- Whether a candidate comes before another: priority, woken before new, order of the wake or of acceptance. -/
def Cand.before (a b : Cand) : Bool :=
  b.prio < a.prio || (a.prio == b.prio && ((a.woken && !b.woken) ||
    (a.woken == b.woken && (a.order < b.order || (a.order == b.order && a.ref.vf.toNat < b.ref.vf.toNat)))))

/-- The next gang or band of a launch that is still to be admitted. -/
def Launch.cand (vf : BitVec 7) (l : Launch) : Option Cand :=
  if l.lrec.gangs.toNat ≤ l.admitted || l.status != 0 then none
  else
    let n := l.lrec.band.toNat
    some { ref := { vf, seq := l.seq, gang := BitVec.ofNat 32 l.admitted }, asks := List.replicate (max 1 n) (l.ask vf)
           band := if n = 0 then none else some (BitVec.ofNat 32 (l.admitted / n)), base := none
           prio := l.lrec.prio.toNat, woken := false, order := l.seq.toNat, since := l.accepted }

/-- A woken gang; or a band, which is one candidate, at its member that was woken first (14 R235). -/
def State.wokenCand (s : State) (e : Evicted) : Option Cand :=
  let g := e.image.gang
  let c : Cand := { ref := { vf := g.vf, seq := g.seq, gang := g.idx }, asks := [e.image.ask], band := none, base := none
                    prio := g.lrec.prio.toNat, woken := true, order := e.order, since := e.since }
  if !e.woken then none
  else match g.band with
    | none => some c
    | some i =>
      match s.bands.find? fun b => b.vf == g.vf && b.seq == g.seq && b.idx == i with
      | none => none
      | some b =>
        let all := s.evicted.filter fun x => b.holds x.image.gang
        if all.any fun x => x.woken && x.order < e.order then none
        else some { c with ref := { c.ref with gang := BitVec.ofNat 32 (i.toNat * g.lrec.band.toNat) }, asks := all.map fun x => x.image.ask
                           band := some i, base := some b.base }

/-- Every candidate; gangs of a stopped context are none. -/
def State.candidates (s : State) : List Cand :=
  ((s.evicted.filter fun e => !(s.ctx e.image.gang.vf).stopped).filterMap s.wokenCand) ++
    (s.contexts.filter fun c => !c.stopped).flatMap fun c => c.launches.filterMap (Launch.cand c.vf)

/-- A gang's need put among others, the one of most segments first: the gangs of a band differ in nothing else. -/
def insertAsk (a : Ask) : List Ask → List Ask
  | [] => [a]
  | b :: t => if b.segs ≤ a.segs then a :: b :: t else b :: insertAsk a t

/-- Distinct cores for several gangs, one after another. -/
def matchCores (s : State) (die : BitVec 3) : List Ask → List (BitVec 7) → Bool
  | [], _ => true
  | a :: t, used =>
    match (s.coresFor a die).find? fun c => !used.contains c with
    | some c => matchCores s die t (c :: used)
    | none => false

/-- Whether a candidate fits somewhere: a gang on some core, a band on distinct cores of one die with its region. -/
def State.placeable (s : State) (c : Cand) : Bool :=
  match c.band, c.asks with
  | none, a :: _ => dies.any fun d => (List.range coreCount).any fun i => s.fits a d (BitVec.ofNat 7 i)
  | some _, a :: _ =>
    let n := a.lrec.bandBytes
    dies.any fun d => matchCores s d (c.asks.foldr insertAsk []) [] && (match c.base with
      | some b => b.toNat / dieBank == d.toNat && s.bankFree b.toNat n
      | none => s.bankRoom d n)
  | _, [] => false

/-- How long a candidate that fits nowhere lets later ones pass: 1 ms (14 R235). -/
def reserveAfter : Nat := 1000000

/-- A candidate that has waited 1 ms reserves until it is placed. -/
def State.reserves (s : State) (c : Cand) : Bool :=
  s.reserving.contains c.ref || c.since.toNat + reserveAfter ≤ s.time.toNat

/-- Whether a candidate may be admitted now: every earlier one fits nowhere, and none that reserves comes before it. -/
def State.mayAdmit (s : State) (c : Cand) : Bool :=
  s.candidates.all fun x => !x.before c || x.ref == c.ref || (!s.placeable x && !s.reserves x)

/-! ## Admission (03 R17 to R21, 14 R236, 04 R43) -/

/-- Slots of quadrants for n groups from index i on: the lowest that are free. -/
def takeSlots (used : Nat → List (BitVec 5)) : Nat → Nat → List (BitVec 5)
  | _, 0 => []
  | i, n + 1 =>
    let q := i % 4
    let mine := takeSlots used (i + 1) n
    let x := ((List.range quadSlots).map (BitVec.ofNat 5)).find? fun x => !(used q).contains x
    let x := x.getD 0
    x :: if n = 0 then mine else takeSlots (fun p => if p = q then x :: used p else used p) (i + 1) n

/-- The slots in use on a core. -/
def State.usedSlots (s : State) (die : BitVec 3) (core : BitVec 7) (q : Nat) : List (BitVec 5) :=
  (s.quadGroups die core q).map (·.slot)

/-- A group at its start: every lane live but in a partial last group, parameters in s1 on, one split at the code address. -/
def Launch.group (l : Launch) (i : Nat) (slot : BitVec 5) : Group :=
  let lanes := if i + 1 = l.lrec.groups && l.lrec.last ≠ 0 then l.lrec.last.toNat else l.lrec.lanes
  let live := widthMask lanes
  { Group.blank with
    idx := BitVec.ofNat 5 i, live := live, s := SMap.ofValues 1 l.params, slot := slot
    splits := { SplitTable.empty with e0 := { Split.free with pc := l.lrec.code, mask := live } } }

/-- The record that the command processor writes into d255 of a band's gangs (14 R236). -/
def bandRecord (base : BitVec 29) (kb : BitVec 16) : W256 :=
  putField (putField (putField (putField (putField (putField (putField (0 : W256) 0 (1 : BitVec 8))
    32 ((base + 256).setWidth 64)) 96 (BitVec.ofNat 48 (kb.toNat * 1024))) 208 (7 : BitVec 8)) 216 (0 : BitVec 2))
    220 (2 : BitVec 3)) 223 (2 : BitVec 3)

/-- A gang of a launch at its first admission. TVEC has bits [1:0] zero, as every PC (04 R55). -/
def State.newGang (s : State) (vf : BitVec 7) (l : Launch) (i : Nat) (die : BitVec 3) (core : BitVec 7)
    (base : Option (BitVec 29)) : Resident :=
  let n := l.lrec.band.toNat
  let slots := takeSlots (s.usedSlots die core) 0 l.lrec.groups
  { gang := { Gang.blank with
      present := true, vf := vf, seq := l.seq, idx := BitVec.ofNat 32 i, launch := l.id, lrec := l.lrec, die := die, core := core
      window := match base with | some b => l.window.set 255 (bandRecord b l.lrec.bankKB) | none => l.window
      codebook := (s.ctx vf).codebook, pool := l.lrec.tiles.setWidth 13, tvec := l.lrec.handler &&& ~~~3
      band := if n = 0 then none else some (BitVec.ofNat 32 (i / n)) }
    groups := (List.range l.lrec.groups).map fun j => l.group j ((slots[j]?).getD 0) }

/-- A resident gang placed: on a core that held no gang of its context the watch counts start at 0; the
core drops the shared records it has cached (22 R329, 06 R112). -/
def State.place (s : State) (r : Resident) : State :=
  let here := (s.gangsOn r.gang.die r.gang.core).any fun x => x.gang.vf == r.gang.vf
  let s := if here then s
    else s.freeBank r.gang.die r.gang.core r.gang.vf
  let s := { s with recCache := s.recCache.filter fun c => !(c.die == r.gang.die && c.core == r.gang.core) }
  { s with others := s.others ++ [r], reserving := s.reserving.filter fun x =>
      !(x.vf == r.gang.vf && x.seq == r.gang.seq && x.gang == r.gang.idx) }

/-- The gangs of a launch admitted so far. -/
def State.countAdmitted (s : State) (vf : BitVec 7) (seq : W64) (n : Nat) : State :=
  s.updCtx vf fun c => { c with
    launches := c.launches.map fun (l : Launch) => if l.seq == seq then { l with admitted := l.admitted + n } else l }

/-- SEGBASE of tiles set afresh (11 R187). -/
def freshBases : List (Nat × W256) → State → SMap 256 → SMap 256 × State
  | [], s, m => (m, s)
  | (n, r) :: t, s, m =>
    if recKind r = 2 then
      if tileSegs r = 0 then freshBases t s (m.set n (putField r 54 (0 : BitVec 12)))
      else
        let (i, s) := s.fresh
        freshBases t s (m.set n (putField r 54 (Config.segBase i)))
    else freshBases t s m

/-- An evicted gang as it comes back to a core: its groups in the backing file, what they were found blocked by to be tested
afresh, a SYNC due for those that trace (22 R349). -/
def State.comeBack (s : State) (r : Resident) (die : BitVec 3) (core : BitVec 7) : Resident × State :=
  let slots := takeSlots (s.usedSlots die core) 0 r.groups.length
  let (w, s) := freshBases r.gang.window s r.gang.window
  ({ gang := { r.gang with die := die, core := core, window := w, tvec := r.gang.lrec.handler &&& ~~~3, blockedSince := none }
     groups := ((List.range r.groups.length).zip r.groups).map fun x =>
       { x.2 with slot := (slots[x.1]?).getD 0, inActive := false, idle := 0, waitIn := 0
                  splits := x.2.splits.map fun (y : Split) => { y with blk := .no, age := 0, promoted := none }
                  syncDue := x.2.syncDue || x.2.tracectl.getLsbD 0 } }, s)

/-- What the group in focus had issued and not performed re-injected, its frame as it stands. Inside a handler the operations of the trap
are re-injected up to the first that carries a cause, at which `rte` too would leave the rest in the queue (18 R296), and which stays for
the handler's own `rte`; the operations that the handler itself issued go on (19 R301, R306, log 70). -/
def State.rerun (s : State) : State :=
  let l := s.grp.rq ++ s.grp.behind
  if !s.grp.frame.active then State.reinjectAll l s
  else
    let own := l.filter fun e => s.grp.frame.first ≤ e.id
    let old := l.filter fun e => e.id < s.grp.frame.first
    let stay := old.dropWhile fun e => e.err == 0
    let s1 := State.reinjectAll ((old.takeWhile fun e => e.err == 0) ++ own) s
    if s1.grp.killed then s1 else { s1 with grp := { s1.grp with rq := stay.take rqSize, behind := stay.drop rqSize } }

/-- The groups of a list of gangs, named. -/
def groupRefs (l : List Resident) : List GroupRef := l.flatMap fun r => r.groups.map fun g => { gang := r.gang.ref, group := g.idx }

/-- Gangs that left a failed core take up what they had issued and not performed, when they are admitted again (19 R310). -/
def State.rerunFailed (s : State) (l : List Evicted) : State :=
  s.atAll State.rerun (groupRefs ((l.filter (·.always)).map (·.image)))

/-- `GANG ADMISSION`: the gang, which has no band, goes onto a core that it fits. -/
def execGangAdmission (g : GangRef) (die : BitVec 3) (core : BitVec 7) (s : State) : Out :=
  .next <|
    match s.candidates.find? fun c => c.ref == g with
    | none => s
    | some c =>
      match c.band, c.asks with
      | none, a :: _ =>
        if !s.mayAdmit c || !s.fits a die core then s
        else if c.woken then
          match s.evicted.find? fun e => e.image.gang.isRef g with
          | none => s
          | some e =>
            let s := { s with evicted := s.evicted.filter fun x => !x.image.gang.isRef g }
            let (r, s) := s.comeBack e.image die core
            (s.place r).rerunFailed [e]
        else match (s.ctx g.vf).launches.find? fun l => l.seq == g.seq with
          | none => s
          | some l => (s.place (s.newGang g.vf l l.admitted die core none)).countAdmitted g.vf g.seq 1
      | _, _ => s

/-- Several gangs of a band placed on cores in order. -/
def State.placeNew (vf : BitVec 7) (l : Launch) (base : BitVec 29) (die : BitVec 3) : Nat → List (BitVec 7) → State → State
  | _, [], s => s
  | i, c :: t, s => State.placeNew vf l base die (i + 1) t (s.place (s.newGang vf l i die c (some base)))

/-- Several evicted gangs of a band placed on cores in order. -/
def State.placeBack (die : BitVec 3) : List Resident → List (BitVec 7) → State → State
  | r :: t, c :: u, s =>
    let (r, s) := s.comeBack r die c
    State.placeBack die t u (s.place r)
  | _, _, s => s

/-- Whether gangs fit cores one by one. -/
def State.fitAll (s : State) (die : BitVec 3) : List Ask → List (BitVec 7) → Bool
  | [], [] => true
  | a :: t, c :: u => s.fits a die c && State.fitAll s die t u
  | _, _ => false

/-- No two alike. -/
def distinct : List (BitVec 7) → Bool
  | [] => true
  | c :: t => !t.contains c && distinct t

/-- `BAND ADMISSION`: a band goes onto distinct cores of one die with its bank region, or not at all; one that comes back
has its region at the addresses it had. -/
def execBandAdmission (vf : BitVec 7) (seq : W64) (band : BitVec 32) (die : BitVec 3) (cores : List (BitVec 7))
    (base : BitVec 29) (s : State) : Out :=
  .next <|
    match s.candidates.find? fun c => c.ref.vf == vf && c.ref.seq == seq && c.band == some band with
    | none => s
    | some c =>
      let n := match c.asks with | a :: _ => a.lrec.bandBytes | [] => 0
      if !s.mayAdmit c || !distinct cores || !s.fitAll die c.asks cores then s
      else if base.toNat / dieBank ≠ die.toNat || !s.bankFree base.toNat n then s
      else if c.woken then
        let mine (b : Band) : Bool := b.vf == vf && b.seq == seq && b.idx == band
        match s.bands.find? mine with
        | none => s
        | some b =>
          if base ≠ b.base then s
          else
            let back := s.evicted.filter fun e => b.holds e.image.gang
            let s := { s with
              evicted := s.evicted.filter fun e => !b.holds e.image.gang
              bands := s.bands.map fun (x : Band) => if mine x then { x with resident := true, saved := [] } else x }
            let s := s.zeroBank base.toNat n
            let s := { s with bank := b.saved.foldl (fun m c => SMap.set m (c.1 + base.toNat) c.2) s.bank }
            (State.placeBack die (back.map (·.image)) cores s).rerunFailed back
      else match (s.ctx vf).launches.find? fun l => l.seq == seq with
        | none => s
        | some l =>
          let b : Band := { vf, seq, idx := band, base, bytes := n, resident := true, saved := [], barriers := [] }
          let s := ({ s with bands := s.bands ++ [b] }).zeroBank base.toNat n
          (State.placeNew vf l base die l.admitted cores s).countAdmitted vf seq cores.length

/-- `CANDIDATE RESERVATION`: a candidate that has waited 1 ms and fits nowhere reserves. -/
def execCandidateReservation (g : GangRef) (s : State) : Out :=
  .next <|
    match s.candidates.find? fun c => c.ref == g with
    | none => s
    | some c =>
      if c.since.toNat + reserveAfter ≤ s.time.toNat && !s.placeable c && !s.reserving.contains g
      then { s with reserving := s.reserving ++ [g] } else s

/-! ## Eviction (14 R243, 19 R300) -/

/-- The word at an address of a context as it stands. -/
def State.peekWord (s : State) (vf : BitVec 7) (pc : W64) : Option W32 :=
  (s.peek vf none pc).map fun x =>
    BitVec.ofNat 32 (ofBytes (s.readPhys (pteAddr x.2 + BitVec.ofNat 52 (pc.toNat % 2 ^ pageBits x.1)) 4))

/-- What a split of a blocked group waits for outside its gang. -/
inductive Wake where
  /-- Nothing outside, or nothing that can come alone. -/
  | never
  /-- The phase of a barrier in bank memory: its address and the phase bit. -/
  | phase (a : BitVec 29) (bit : BitVec 1)
  | pop (ctl : BitVec 29)
  | remote
  | pool (request : Nat)
  /-- It may issue. -/
  | ready
  deriving DecidableEq, Repr

/-- The wake condition of a split (14 R244). -/
def Group.wakeOf (g : Group) (x : Split) : Wake :=
  match x.st with
  | .inPop _ q _ _ => .pop (qCtl q)
  | .inTsal _ n _ => .pool n.toNat
  | .running =>
    match x.blk with
    | .barWait a bit => if a.getLsbD 63 then .phase (field a 0 29) bit else .never
    | .reg y _ =>
      if !g.isEmpty y then .ready
      else if g.flight.any fun e => e.writes.contains y && e.openAccs.any (·.remote) then .remote
      else .never
    | _ => .ready
  | _ => .never

/-- Bank memory as an evicted gang last saw it: with the saved bytes of its band's region (14 R243). -/
def State.seenBy (s : State) (r : Resident) : State :=
  match s.bands.find? fun b => !b.resident && b.holds r.gang with
  | none => s
  | some b =>
    let t := s.zeroBank b.base.toNat b.bytes
    { t with bank := b.saved.foldl (fun m c => SMap.set m (c.1 + b.base.toNat) c.2) t.bank }

/-- Whether a wake condition is met. -/
def State.wakeMet (s : State) (r : Resident) : Wake → Bool
  | .never => false
  | .phase a b => barPhase ((s.seenBy r).barrier (true, a.toNat)) != b
  | .pop c => (s.seenBy r).qWaiting c != 0 || s.badCtl c
  | .remote => false
  | .ready => true
  | .pool n => dies.any fun d => (List.range coreCount).any fun i => r.gang.pool.toNat + n ≤ s.unreserved d (BitVec.ofNat 7 i)

/-- The wake conditions of a gang. -/
def Resident.wakes (r : Resident) : List Wake :=
  (r.groups.filter fun g => g.alive).flatMap fun g =>
    if !g.due.isEmpty then [.ready]
    else (g.splits.list.filter fun q => !q.2.isFree && !q.2.held).map fun q => g.wakeOf q.2

/-- A resident gang that may be evicted, but for its priority and its wakes: wholly blocked, nothing counted or queued. -/
def State.evictable (s : State) (r : Resident) : Bool :=
  s.whollyBlocked r && !(s.ctx r.gang.vf).stopped &&
    r.groups.all fun g => g.counters.isEmpty && g.flight.all fun e => !e.op.queued

/-- A unit of eviction: a gang, or every gang of a band. -/
structure EvictUnit where
  gangs : List Resident
  band : Option Band
  deriving DecidableEq, Repr

/-- The unit that a gang belongs to. -/
def State.unitOf (s : State) (r : Resident) : EvictUnit :=
  match s.bands.find? fun b => b.holds r.gang with
  | some b => { gangs := s.residents.filter fun x => b.holds x.gang, band := some b }
  | none => { gangs := [r], band := none }

/-- Something outside a unit can wake one of its gangs (14 R243). -/
def EvictUnit.wakeable (u : EvictUnit) : Bool := u.gangs.any fun r => r.wakes.any (· != .never)

/-- Since when every gang of a unit has been blocked. -/
def EvictUnit.since (u : EvictUnit) : Option Nat :=
  u.gangs.foldl (fun t r => t.bind fun t => r.gang.blockedSince.map fun b => max t b.toNat) (some 0)

/-- The priority of a unit. -/
def EvictUnit.prio (u : EvictUnit) : Nat := match u.gangs with | r :: _ => r.gang.lrec.prio.toNat | [] => 0

/-- Whether the distributor may evict a unit for a candidate: of lower priority, or of equal priority and blocked for 20 µs. -/
def State.mayEvict (s : State) (u : EvictUnit) (c : Cand) : Bool :=
  u.gangs.all s.evictable && u.wakeable && match u.since with
    | some t => u.prio < c.prio || (u.prio == c.prio && t + 20000 ≤ s.time.toNat)
    | none => false

/-- Whether a unit goes before another: lower priority, then blocked longer. -/
def EvictUnit.beforeUnit (a b : EvictUnit) : Bool :=
  a.prio < b.prio || (a.prio == b.prio && (a.since.getD 0) < (b.since.getD 0))

/-- A gang of those resident taken away from its core, its image kept. -/
def State.evictGang (s : State) (r : GangRef) (always : Bool) : State :=
  match s.focusGang r with
  | none => s
  | some t =>
    let img : Resident := { gang := t.gang, groups := (t.grp :: t.peers).map fun (g : Group) => { g with inActive := false } }
    let s := t.leaveCore
    { s with
      order := if always then s.order + 1 else s.order
      evicted := s.evicted ++ [{ image := img, woken := always, order := s.order, since := s.time, always }] }

/-- A unit evicted: its gangs' images kept, a band's region saved and released (14 R243). -/
def State.evictUnit (s : State) (u : EvictUnit) (always : Bool) : State :=
  let s := match u.band with
    | some b =>
      let bytes : SMap 8 := SMap.slice s.bank b.base.toNat b.bytes
      let s := { s with bands := s.bands.map fun (x : Band) =>
        if x.vf == b.vf && x.seq == b.seq && x.idx == b.idx then { x with resident := false, saved := bytes } else x }
      s.zeroBank b.base.toNat b.bytes
    | none => s
  u.gangs.foldl (fun s r => s.evictGang { vf := r.gang.vf, seq := r.gang.seq, gang := r.gang.idx } always) s

/-- `GANG EVICTION`: only for an unplaced candidate of equal or higher priority that fits nowhere, the lowest priority and
longest blocked first, and only where the image can be written (19 R302). -/
def execGangEviction (g : GangRef) (s : State) : Out :=
  .next <|
    match s.residents.find? fun r => r.gang.isRef g with
    | none => s
    | some r =>
      let u := s.unitOf r
      let cs := s.candidates.filter fun c => !s.placeable c
      let may (v : EvictUnit) : Bool := cs.any fun c => s.mayEvict v c
      if may u && (s.residents.all fun q => !may (s.unitOf q) || !(s.unitOf q).beforeUnit u) &&
        s.saveMapped g.vf (s.ctx g.vf).saveSize
      then s.evictUnit u false else s

/-- Whether an evicted gang is to become a woken candidate. -/
def State.wakesNow (s : State) (e : Evicted) : Bool := !e.woken && (e.always || e.image.wakes.any (s.wakeMet e.image))

/-- An evicted gang becomes a woken candidate, the next in the order of wakes (14 R235). -/
def State.wakeGang (s : State) (g : Gang) : State :=
  { s with order := s.order + 1
           evicted := s.evicted.map fun (x : Evicted) =>
             if x.image.gang.isRef g.ref then { x with woken := true, order := s.order, since := s.time } else x }

/-- `GANG WAKE`: an evicted gang becomes a woken candidate when a group's wake condition is met (14 R244). -/
def execGangWake (g : GangRef) (s : State) : Out :=
  .next <|
    match s.evicted.find? fun e => e.image.gang.isRef g with
    | none => s
    | some e => if s.wakesNow e then s.wakeGang e.image.gang else s

/-- The evicted gangs whose condition is met after a move become woken candidates. -/
def State.noteWakes (s : State) : State :=
  (s.evicted.filter s.wakesNow).foldl (fun s e => s.wakeGang e.image.gang) s

/-- Since when each gang has been wholly blocked, noted after a move (14 R243). -/
def State.noteBlocked (s : State) : State :=
  let note (r : Resident) : Gang :=
    { r.gang with blockedSince := if s.whollyBlocked r then r.gang.blockedSince.or (some s.time) else none }
  { s with
    gang := if s.gang.present then note { gang := s.gang, groups := s.grp :: s.peers } else s.gang
    others := s.others.map fun (r : Resident) => { r with gang := note r } }

end Sys2Proof.Machine
end

