-- ==== Sys2Proof/Machine/Save.lean ====
section
/-!
DEFINITION. Sys2Proof/Machine/Save.lean: context reset and destruction, capture, restore, resume and discard, dirty-page logging,
bank regions of a context, and the retirement of cores onto spares (15 R255, 16 R258, 19 R300 to R310, 13 R228, 23 R362).
-/

namespace Sys2Proof.Machine

/-! ## Context reset (15 R255, 16 R258, 23 R359) -/

/-- The gangs of a list leave their cores, their permits returned. -/
def State.removeGangs : List GangRef → State → State
  | [], s => s
  | r :: t, s =>
    State.removeGangs t <|
      match s.focusGang r with
      | some u => (u.returnPermits).leaveCore
      | none => s

/-- Every gang of a context, evicted ones too, gone with its permits returned, and its bands' regions released. -/
def State.sweep (s : State) (vf : BitVec 7) : State :=
  let out := (s.evicted.filter fun e => e.image.gang.vf == vf).map (·.image)
  let s := { s with others := s.others ++ out, evicted := s.evicted.filter fun e => e.image.gang.vf != vf }
  let s := State.removeGangs ((s.residents.filter fun r => r.gang.vf == vf).map fun r => r.gang.ref) s
  { s with bands := s.bands.filter fun b => b.vf != vf, reserving := s.reserving.filter fun r => r.vf != vf
           faults := s.faults.filter fun f => f.vf != vf }

/-- What cores and dies have cached of a context dropped: translations, table entries, shared records. -/
def State.dropCaches (s : State) (vf : BitVec 7) : State :=
  { s with
    tlb := s.tlb.filter fun t => t.vf != vf, dieTlb := s.dieTlb.filter fun t => t.vf != vf
    tables := s.tables.filter fun t => t.vf != vf, recCache := s.recCache.filter fun r => r.vf != vf }

/-- Every uncompleted launch of a context completes CANCELLED (14 R232). -/
def State.cancel (s : State) (vf : BitVec 7) : State :=
  (s.ctx vf).launches.foldl (fun s l => s.signalDone vf l.lrec.doneAddr l.seq 4) s

/-- What a context keeps over its reset: what the physical function and the security processor set, and its bank regions. -/
def Context.afterReset (c : Context) : Context :=
  { Context.reset c.vf with
    resetDone := c.returns.isEmpty, resetting := !c.returns.isEmpty, returns := c.returns, fqBase := c.fqBase, fqSize := c.fqSize, fqTail := c.fqTail, fqHead := c.fqHead, csBase := c.csBase
    dlBase := c.dlBase, dlSize := c.dlSize, dlTail := c.dlTail, dlHead := c.dlHead, dlOvf := c.dlOvf, dlOn := c.dlOn
    dbgMask := c.dbgMask, dmt0 := c.dmt0, dmt1 := c.dmt1, dmData := c.dmData, dmStat := c.dmStat, keys := c.keys
    regions := c.regions }

/-- A context reset: its gangs gone, its launches cancelled, then RESETDONE, once every module that it returns permits to has
acknowledged, or is down (16 R258, R265). -/
def State.resetContext (s : State) (vf : BitVec 7) : State :=
  ((((s.sweep vf).cancel vf).dropCaches vf).dropMarks fun g => g.vf == vf).updCtx vf Context.afterReset

/-- Returns to a device acknowledged, or not to be: with the last of them a reset that waits is reported. -/
def Context.acknowledged (c : Context) (device : BitVec 12) : Context :=
  let rest := c.returns.filter fun r => r.1 != device
  { c with returns := rest, resetDone := c.resetDone || (c.resetting && rest.isEmpty), resetting := c.resetting && !rest.isEmpty }

/-- A module acknowledges the permits that a context has returned to it (16 R265). -/
def State.returned (s : State) (vf : BitVec 7) (device : BitVec 12) : State := s.updCtx vf fun c => c.acknowledged device

/-- A write to CTXCTL: RESET resets the context; CIRQ is what the write gives it. -/
def State.writeCtxCtl (s : State) (vf : BitVec 7) (v : W64) : State :=
  (if v.getLsbD 0 then s.resetContext vf else s).updCtx vf fun c => { c with cirq := v.getLsbD 1 }

/-- `CTXCTL` written with RESET. -/
def execCtxctlReset (vf : BitVec 7) (v : W64) (s : State) : Out := .next (s.writeCtxCtl vf v)

/-- Every bank region that a context holds outside bands cleared and released. -/
def State.releaseRegions (s : State) (vf : BitVec 7) : State :=
  ((s.ctx vf).regions.foldl (fun (s : State) r => s.zeroBank r.1.toNat r.2.toNat) s).updCtx vf fun c => { c with regions := [] }

/-- `CONTEXT DESTRUCTION`: as a reset, then its bank regions are released and its registers are those of a new context. -/
def execContextDestruction (vf : BitVec 7) (s : State) : Out :=
  .next (((s.resetContext vf).releaseRegions vf).updCtx vf fun c =>
    { Context.reset c.vf with returns := c.returns, resetting := !c.returns.isEmpty })

/-- The loader places the data of a `.data bank` section in a region of the context, before its first launch (13 R228). -/
def State.loadBank (s : State) (vf : BitVec 7) (a : BitVec 29) (b : List Byte) : State :=
  let c := s.ctx vf
  if c.nextSeq = 1 && c.launches.isEmpty && b.length ≤ 64 &&
      c.regions.any fun r => r.1.toNat ≤ a.toNat && a.toNat + b.length ≤ r.1.toNat + r.2.toNat
  then s.writeBank a b else s

/-- `BANK REGION RESERVATION`: free bytes of one die become the context's, zeroed; CSSIZE grows by them (13 R228, 19 R302). -/
def execBankRegionReservation (vf : BitVec 7) (base : BitVec 29) (bytes : BitVec 27) (s : State) : Out :=
  .next <|
    if bytes = 0 || !s.bankFree base.toNat bytes.toNat then s
    else (s.zeroBank base.toNat bytes.toNat).updCtx vf fun c =>
      { c with regions := c.regions ++ [(base, bytes)], csSize := c.saveSize + bytes.toNat }

/-! ## Capture (19 R301 to R304, R308) -/

/-- A load or returning atomic that has written its registers and waits for the watch alone (22 R334). -/
def Entry.landedLoad (e : Entry) : Bool := e.toEvaluate && e.writes.isEmpty

/-- A gather that has begun to land an entry, and whose engine may go on with it (19 R304). -/
def State.fetching (s : State) (e : Entry) : Bool :=
  let n := e.entryBytes
  (List.range (e.sc 1).toNat).any fun k =>
    let mine := (List.range n).map fun i => e.hasLanded (k * n + i)
    mine.any id && !mine.all id && (s.planEntry e k).1.isSome

/-- Whether an operation of the group in focus still has something to do that a capture waits for (19 R303 step 3, R304):
lanes that may be performed, a producer that may complete; a `cp.a` that has not landed, bytes of a `cp.b` short of its progress
point, held ones too, and an entry of a gather that is being fetched. -/
def State.busyEntry (s : State) (e : Entry) : Bool :=
  match e.op with
  | .cpA => true
  | .cpB => (List.range e.total).any fun p => !e.hasLanded p && e.landed.any fun r => p < r.1 + r.2
  | .gth => s.fetching e
  | .tile _ => false
  | op =>
    if e.held.isSome || e.err ≠ 0 || e.landedLoad then false
    else match op with
    | .ld _ => !e.finished && !(s.loadable e (BitVec.allOnes 64)).isEmpty
    | .st _ => e.openAccs.any (s.mayPerform e)
    | .atom _ | .chunk => e.finished || !(s.steppable e (BitVec.allOnes 64)).isEmpty
    | .red _ | .bankMx | .bankSup | .bankVadd => !(s.steppable e (BitVec.allOnes 64)).isEmpty
    | .tv | .qpop | .qpush | .pmtGet | .pmtRet | .dbgRd _ _ _ => true
    | .recLd | .cbld | .cpA | .cpB | .gth | .tile _ => false

/-- Whether the group in focus stands at its boundary with nothing left to complete: no trap due, nothing to retire. -/
def State.stillHere (s : State) : Bool :=
  s.grp.due.isEmpty && !s.grp.mayRetire && s.grp.flight.all fun e => !s.busyEntry e

/-- Whether every resident group of a context stands still, and no launch is to complete. -/
def State.still (s : State) (vf : BitVec 7) : Bool :=
  (s.groupsOf vf).all (fun g => match s.focus g with | some t => t.stillHere | none => true) &&
    (s.ctx vf).launches.all fun l => l.status != 0 || l.retired != l.lrec.gangs.toNat

/-- What has issued and not been performed goes into the replay queue in issue order, tile operations too; copies and gathers stay
with their engines, and loads whose values wait for evaluation with the watch (19 R303 step 2, R304, 11 R195). -/
def Group.park (g : Group) : Group :=
  let goes (e : Entry) : Bool := e.op.isTile || (!e.op.isEngine && !e.landedLoad)
  let all := (g.flight.filter goes).foldl (fun l e => insertEntry e l) (g.rq ++ g.behind)
  { g with
    inActive := false, rq := all.take rqSize, behind := all.drop rqSize
    flight := g.flight.filter fun e => !goes e }

/-- Bytes of every bank region that a context holds. -/
def State.regionBytes (s : State) (vf : BitVec 7) : SMap 8 :=
  let l := s.heldRegions vf
  s.bank.filter fun c => l.any fun r => r.1 ≤ c.1 && c.1 < r.1 + r.2

/-- The image of a context as it stands, with the bytes that it is written as. -/
def State.image (s : State) (vf : BitVec 7) (area : List Byte) : ContextImage :=
  { ctx := s.ctx vf, gangs := s.residents.filter fun r => r.gang.vf == vf
    evicted := s.evicted.filter fun e => e.image.gang.vf == vf, bands := s.bands.filter fun b => b.vf == vf
    bank := s.regionBytes vf, at_ := s.time, area }

/-- A captured context's image written to its save area, all of its bytes at device scope: their values are the device's own, by which
RESTORE finds the image again. Where they cannot be written CSSTAT is NOSPACE, and the context runs on (19 R302, R303, log 21). -/
def State.putImage (s : State) (vf : BitVec 7) : State :=
  let c := s.ctx vf
  let (i, s) := s.fresh
  let area := (List.range c.saveSize).map (Config.imageByte i)
  match (if s.saveMapped vf c.saveSize then s.writeVirt vf none c.csBase area else none) with
  | none => s.updCtx vf fun c => { c with csStat := 8, stopped := false }
  | some s =>
    let s := (s.mapWhere (fun g => g.vf == vf) Group.park).updCtx vf fun c => { c with csStat := 2, stoppedAt := s.time }
    { s with images := s.image vf area :: s.images }

/-- `CAPTURE`: from IDLE or RESTORED the context stops and CSSTAT is BUSY; once everything stands still its image is written and
CSSTAT is CAPTURED. -/
def execCapture (vf : BitVec 7) (s : State) : Out :=
  let c := s.ctx vf
  .next <|
    if c.csStat = 0 || c.csStat = 3 then
      if !s.saveMapped vf c.saveSize then s.updCtx vf fun c => { c with csStat := 8 }
      else (s.updCtx vf fun c => { c with csStat := 1, stopped := true }).mapWhere (fun g => g.vf == vf) fun g => { g with inActive := false }
    else if c.csStat = 1 then (if s.still vf then s.putImage vf else s)
    else s

/-! ## Running on (19 R301, R306, R307) -/

/-- A sleeper's deadline moved by the time a context was stopped: it resumes with its remaining time. -/
def Split.shift (gap : W64) (x : Split) : Split :=
  match x.st with
  | .asleep d t e => { x with st := .asleep d (deadline t gap) e }
  | _ => x

/-- Every sleeper of a group so. -/
def Group.shift (gap : W64) (g : Group) : Group :=
  { g with splits := g.splits.map (Split.shift gap), overflow := g.overflow.map (Split.shift gap),
           frame := { g.frame with splits := g.frame.splits.map (Split.shift gap), stack := g.frame.stack.map (Split.shift gap) } }

/-- The sleepers of a context, of its evicted gangs too, moved by a time. -/
def State.shiftSleepers (s : State) (vf : BitVec 7) (gap : W64) : State :=
  let s := s.mapWhere (fun g => g.vf == vf) (Group.shift gap)
  { s with evicted := s.evicted.map fun (e : Evicted) =>
      if e.image.gang.vf == vf then { e with image := { e.image with groups := e.image.groups.map (Group.shift gap) } } else e }

/-- `RESUME`: a captured context runs on in place. -/
def execResume (vf : BitVec 7) (s : State) : Out :=
  .next <|
    if !s.captured vf then s
    else
      let gap := s.time - (s.ctx vf).stoppedAt
      let s := (s.updCtx vf fun c => { c with csStat := 0, stopped := false }).shiftSleepers vf gap
      s.atAll State.rerun (s.groupsOf vf)

/-- `DISCARD`: a captured context is reset. -/
def execDiscard (vf : BitVec 7) (s : State) : Out := .next (if s.captured vf then s.resetContext vf else s)

/-! ## Restore (19 R306) -/

/-- The key indices that the valid leaves of page tables name. -/
def tableKeys (mem : List Host.Cell) : Nat → BitVec 52 → List (BitVec 13)
  | level, table =>
    (List.range (if level = 0 then 32 else 512)).flatMap fun i =>
      let e := BitVec.ofNat 128 (ofBytes (SMap.getRange mem (table + BitVec.ofNat 52 (16 * i)).toNat 16))
      if !pteV e then []
      else if pteLeaf e then [pteKey e]
      else match level with
        | 0 => []
        | l + 1 => tableKeys mem l (pteAddr e)

/-- A gang of an image as one of another virtual function, at its place. -/
def Gang.moveTo (g : Gang) (vf : BitVec 7) : Gang := { g with vf := vf }

/-- The cores that a restore may use for a gang of an image: those it fits whose register file is whole; for a gang of a band, cores
of the die its region's addresses name that no other gang of the band takes. -/
def State.placesFor (s : State) (vf : BitVec 7) (img : ContextImage) (used : List (W64 × BitVec 32 × BitVec 7)) (r : Resident) :
    List (BitVec 3 × BitVec 7) :=
  let ask : Ask := { vf, lrec := r.gang.lrec, segs := r.gang.pool.toNat }
  let home := (img.bands.find? fun b => b.resident && b.holds r.gang).map fun b => BitVec.ofNat 3 (b.base.toNat / dieBank)
  (dies.filter fun d => match home with | some h => d == h | none => true).flatMap fun d =>
    ((s.coresFor ask d).filter fun c => (s.service.repaired.all fun x => x.1 != (d, c)) &&
      match r.gang.band with | some i => !used.contains (r.gang.seq, i, c) | none => true).map fun c => (d, c)

/-- Whether the gangs of an image can be placed at all, some way. -/
def State.canPlace (vf : BitVec 7) (img : ContextImage) : List (W64 × BitVec 32 × BitVec 7) → List Resident → State → Bool
  | _, [], _ => true
  | used, r :: t, s =>
    (s.placesFor vf img used r).any fun p =>
      State.canPlace vf img (match r.gang.band with | some i => (r.gang.seq, i, p.2) :: used | none => used) t
        (s.place { r with gang := { r.gang.moveTo vf with die := p.1, core := p.2 } })

/-- The gangs of an image placed one by one; none where one fits nowhere it is sent. -/
def State.placeAll (vf : BitVec 7) (places : List Placement) : List Resident → State → Option State
  | [], s => some s
  | r :: t, s =>
    match places.find? fun p => p.seq == r.gang.seq && p.gang == r.gang.idx with
    | none => none
    | some p =>
      let ask : Ask := { vf, lrec := r.gang.lrec, segs := r.gang.pool.toNat }
      if !s.fits ask p.die p.core || s.service.repaired.any fun x => x.1 == (p.die, p.core) then none
      else
        let (q, s) := s.comeBack { r with gang := r.gang.moveTo vf } p.die p.core
        State.placeAll vf places t (s.place { q with gang := { q.gang with tvec := r.gang.tvec } })

/-- Whether the gangs of every resident band of an image are sent to distinct cores of the die its region names. -/
def bandsPlaced (img : ContextImage) (places : List Placement) : Bool :=
  (img.bands.filter (·.resident)).all fun b =>
    let mine := places.filter fun p => p.seq == b.seq && img.gangs.any fun r => b.holds r.gang && r.gang.idx == p.gang
    distinct (mine.map (·.core)) && mine.all fun p => p.die.toNat == b.base.toNat / dieBank

/-- A context with what an image holds in place of its work. -/
def Context.restored (c : Context) (i : Context) : Context :=
  let vf := c.vf
  { c with
    lqTail := i.lqTail, lqHead := i.lqHead, ctxErr := i.ctxErr, errPc := i.errPc, errLaunch := i.errLaunch, nextSeq := i.nextSeq
    launches := i.launches
    launchReqs := i.launchReqs.map fun (r : LaunchReq) => { r with g := { r.g with gang := { r.g.gang with vf := vf } } }
    elog := i.elog, elogOvf := i.elogOvf, wlog := i.wlog, wlogOvf := i.wlogOvf, watch := i.watch, codebook := i.codebook
    regions := c.regions ++ i.regions, claims := i.claims, pushes := i.pushes, triggers := i.triggers, seen := i.seen, sweep := i.sweep
    csSize := max c.csSize i.csSize, csStat := 3, stopped := false }

/-- `RESTORE`: the image whose bytes stand at CSBASE is checked, placed whole or not at all, and loaded. Places that do not serve are none the distributor would
choose where others do. -/
def execRestore (vf : BitVec 7) (places : List Placement) (s : State) : Out :=
  let c := s.ctx vf
  let fail (x : BitVec 4) : State := s.updCtx vf fun c => { c with csStat := x }
  .next <|
    if !c.launches.isEmpty || c.csStat = 1 then s
    else match s.images.find? fun x => (s.readVirt vf none c.csBase x.area.length).1 == some x.area with
      | none => fail 10
      | some img =>
        if !((tableKeys s.mem 4 c.root).all c.keys.contains) then fail 11
        else
          let regions := (img.ctx.regions.map fun r => (r.1.toNat, r.2.toNat)) ++
            ((img.bands.filter (·.resident)).map fun b => (b.base.toNat, b.bytes))
          -- the watch table is the context's before its gangs are placed
          let t := s.updCtx vf fun c => c.restored img.ctx
          if !(regions.all fun r => s.bankFree r.1 r.2) || !State.canPlace vf img [] img.gangs t then fail 9
          else if !bandsPlaced img places then s
          else
            let gap := s.time - img.at_
            let bands := img.bands.map fun (b : Band) => { b with vf := vf }
            match State.placeAll vf places img.gangs { t with bands := t.bands ++ bands } with
            | none => s
            | some t =>
              let t := regions.foldl (fun (t : State) r => t.zeroBank r.1 r.2) t
              let t := { t with
                bank := img.bank.foldl (fun (m : List Host.Cell) (c : Nat × Byte) => SMap.set m c.1 c.2) t.bank
                evicted := t.evicted ++ img.evicted.map fun (e : Evicted) =>
                  { e with image := { gang := e.image.gang.moveTo vf, groups := e.image.groups.map (Group.shift gap) } } }
              let t := (t.dropCaches vf).mapWhere (fun g => g.vf == vf) (Group.shift gap)
              t.atAll State.rerun (t.groupsOf vf)

/-! ## Dirty-page logging (19 R309) -/

/-- `LOGON`. -/
def execLogon (vf : BitVec 7) (s : State) : Out :=
  .next <| s.updCtx vf fun c => if c.csStat = 1 then c else { c with dlTail := 0, dlHead := 0, dlOvf := false, dlOn := true }

/-- `LOGOFF`. -/
def execLogoff (vf : BitVec 7) (s : State) : Out :=
  .next <| s.updCtx vf fun c => if c.csStat = 1 then c else { c with dlOn := false }

/-! ## Retirement of cores and soft errors (19 R310, 23 R362) -/

/-- Spare cores of a die. -/
def spareCount : Nat := 4

/-- Every group of a list of gangs stands at its boundary with nothing left to complete. -/
def State.gangsStill (s : State) (l : List Resident) : Bool :=
  l.all fun r => r.groups.all fun g =>
    match s.focus { gang := r.gang.ref, group := g.idx } with | some t => t.stillHere | none => true

/-- SEGBASE of the tiles of gangs of a core set afresh (11 R187). -/
def State.freshSegs (s : State) : List GangRef → State
  | [] => s
  | r :: t =>
    let s := State.freshSegs s t
    match s.focusGang r with
    | none => s
    | some u =>
      let (w, u) := freshBases u.gang.window u u.gang.window
      { u with gang := { u.gang with window := w } }

/-- A failing core leaves: the named gangs are parked, what the core cached is dropped, and the core is either replaced by a
spare, on which the gangs' groups stay active, or marked failed. -/
def State.clearCore (s : State) (die : BitVec 3) (core : BitVec 7) (names : List GangRef) (spare : Bool) : State :=
  let s := s.mapWhere (fun g => g.present && names.contains g.ref) fun g =>
    { g.park with inActive := g.inActive && spare, syncDue := g.syncDue || g.tracectl.getLsbD 0 }
  { s with
    tlb := s.tlb.filter fun t => !(t.die == die && t.core == core)
    recCache := s.recCache.filter fun r => !(r.die == die && r.core == core)
    service := { s.service with
      failing := s.service.failing.filter (· != (die, core))
      spares := if spare then s.service.spares ++ [(die, core)] else s.service.spares
      failed := if spare then s.service.failed else s.service.failed ++ [(die, core)] } }

/-- A unit, its gangs as they now stand, is evicted whatever they wait for. -/
def State.evictAlways (s : State) (u : EvictUnit) : State :=
  s.evictUnit { u with gangs := u.gangs.filterMap fun r => s.residents.find? fun x => x.gang.isRef r.gang.ref } true

/-- `CORE RETIREMENT`: a core in which a hard failure is found stops its gangs at their next boundary. Once they stand still, they go on
on a spare of the die under the core's logical index; where the die holds none, they are saved as evicted, bands whole, and always
woken. What they had issued and not performed is re-injected. -/
def execCoreRetirement (die : BitVec 3) (core : BitVec 7) (s : State) : Out :=
  .next <|
    if coreCount ≤ core.toNat || s.service.failed.contains (die, core) then s
    else
      let failing := if s.service.failing.contains (die, core) then s.service.failing else (die, core) :: s.service.failing
      let spare := (s.service.spares.filter fun x => x.1 == die).length < spareCount
      let here := s.gangsOn die core
      let units := here.map fun r => s.unitOf r
      let gangs := if spare then here else units.flatMap (·.gangs)
      let s := { s with service := { s.service with failing } }
      if !s.gangsStill gangs then s
      else
        let names := gangs.map (·.gang.ref)
        if spare then ((s.clearCore die core names true).freshSegs names).atAll State.rerun (groupRefs gangs)
        else units.foldl State.evictAlways (s.clearCore die core names false)

/-- An operation that has issued and not retired (19 R310, 23 R362). -/
def State.unretired (s : State) (x : GroupRef × Nat) : Bool :=
  match s.focus x.1 with
  | some t => t.grp.outstanding.any fun e => e.id == x.2
  | none => false

/-- `SOFT-ERROR RE-EXECUTION`: the instruction is executed again with the same operands before it retires, and nothing of it is seen;
an error found again on the re-execution is a hard failure of the core. -/
def execSoftErrorReexecution (g : GroupRef) (id : Nat) (s : State) : Out :=
  .next <|
    match s.focus g with
    | none => s
    | some t =>
      if !s.unretired (g, id) then s
      else
        let core := (t.gang.die, t.gang.core)
        let marks := s.service.softErrors.filter s.unretired
        { s with service :=
            if !marks.contains (g, id) then { s.service with softErrors := (g, id) :: marks }
            else if s.service.failing.contains core then s.service
            else { s.service with failing := core :: s.service.failing } }

/-- A register file repaired in place, with fewer bytes of its active and backing files (19 R306, R310). -/
def State.repairFile (s : State) (die : BitVec 3) (core : BitVec 7) (active : BitVec 20) (backing : BitVec 21) : State :=
  if coreCount ≤ core.toNat || 4 * activeBytes < active.toNat || backingBytes < backing.toNat then s
  else { s with service := { s.service with
    repaired := ((die, core), active, backing) :: s.service.repaired.filter fun x => x.1 != (die, core) } }

end Sys2Proof.Machine
end

