-- ==== Sys2Proof/Machine/Host.lean ====
section
/-!
DEFINITION. Sys2Proof/Machine/Host.lean: what the host, other modules and system software ask of this module: register writes, the
codebook image, accesses through CXL.mem, messages of the fabric, time alignment, trace time stamps and sampling
(16 R257 to R266, 22 R345, R347 to R352).
-/

namespace Sys2Proof.Machine

/-! ## Registers (16 R258, R262, 18 R292, 19 R301, 22 R340, R345, R347, R351) -/

/-- A register of a context that an uncompleted launch keeps as it is. -/
def State.setIdle (s : State) (vf : BitVec 7) (f : Context → Context) : State :=
  s.updCtx vf fun c => if c.launches.isEmpty then f c else c

/-- The trace sink of a die changed. -/
def State.updSink (s : State) (die : BitVec 3) (f : Sink → Sink) : State :=
  { s with sinks := s.sinks.set die.toNat (f (sinkAt s.sinks die)) }

/-- The sample buffer of a die changed. -/
def State.updSampleSink (s : State) (die : BitVec 3) (f : Sink → Sink) : State :=
  { s with sampleSinks := s.sampleSinks.set die.toNat (f (sinkAt s.sampleSinks die)) }

/-- `REGISTER WRITE`. -/
def execRegisterWrite (r : RegName) (v : W64) (s : State) : Out :=
  .next <|
    match r with
    | .lqBase vf => s.setIdle vf fun c => { c with lqBase := v }
    | .lqSize vf => s.setIdle vf fun c => { c with lqSize := v }
    | .ptRoot vf => s.setIdle vf fun c => { c with ptRoot := v }
    | .rtBase vf => s.setIdle vf fun c => { c with rtBase := v }
    | .lwImg vf => s.setIdle vf fun c => { c with lwImg := v }
    | .ctxCtl vf => s.writeCtxCtl vf v
    | .fqBase vf => s.updCtx vf fun c => { c with fqBase := v }
    | .fqSize vf => (s.updCtx vf fun c => { c with fqSize := v }).forward vf
    | .csBase vf => s.updCtx vf fun c => { c with csBase := v }
    | .dlBase vf => s.updCtx vf fun c => { c with dlBase := v }
    | .dlSize vf => s.updCtx vf fun c => { c with dlSize := v }
    | .dlHead vf => s.updCtx vf fun c => { c with dlHead := v.setWidth 32 }
    | .dbgMask vf => s.updCtx vf fun c => { c with dbgMask := v }
    | .dmt0 vf => s.updCtx vf fun c => { c with dmt0 := v }
    | .dmt1 vf => s.updCtx vf fun c => { c with dmt1 := v }
    | .dmData vf => s.updCtx vf fun c => { c with dmData := v }
    | .trBase die => s.updSink die fun k => { k with base := v }
    | .trSize die => s.updSink die fun k => { k with size := v }
    | .trHead die => s.updSink die fun k => { k with head := v }
    | .smBase die => s.updSampleSink die fun k => { k with base := v }
    | .smSize die => s.updSampleSink die fun k => { k with size := v }
    | .smHead die => s.updSampleSink die fun k => { k with head := v }
    | .smCtl die =>
      { s with samplers := s.samplers.set die.toNat { ctl := v.setWidth 6, start := s.cycles, taken := [], next := [] } }
    | .exportLo i =>
      { s with exports := s.exports.set i.toNat ((field (s.exports.get i.toNat) 64 64 : W64) ++ v) }
    | .exportHi i =>
      { s with exports := s.exports.set i.toNat (v ++ (field (s.exports.get i.toNat) 0 64 : W64)) }

/-- The context block of BAR0, read: offsets that it does not list read as zero (16 R258). -/
def State.barWord (s : State) (vf : BitVec 7) (offset : BitVec 12) : W64 :=
  let c := s.ctx vf
  match offset.toNat with
  | 0x000 => c.lqBase
  | 0x008 => c.lqSize
  | 0x018 => c.lqHead.setWidth 64
  | 0x020 => c.ptRoot
  | 0x028 => c.rtBase
  | 0x030 => (bit c.cirq).setWidth 64 <<< 1
  | 0x038 => (bit c.resetDone).setWidth 64 ||| ((bit (c.ctxErr.getLsbD 63)).setWidth 64 <<< 1)
  | 0x040 => c.lwImg
  | 0x048 => c.cbImg
  | _ => 0

/-- A register of BAR2, read. -/
def State.regWord (s : State) : HostReg → W64
  | .named r =>
    match r with
    | .lqBase vf => s.barWord vf 0x000
    | .lqSize vf => s.barWord vf 0x008
    | .ptRoot vf => s.barWord vf 0x020
    | .rtBase vf => s.barWord vf 0x028
    | .ctxCtl vf => s.barWord vf 0x030
    | .lwImg vf => s.barWord vf 0x040
    | .fqBase vf => (s.ctx vf).fqBase
    | .fqSize vf => (s.ctx vf).fqSize
    | .csBase vf => (s.ctx vf).csBase
    | .dlBase vf => (s.ctx vf).dlBase
    | .dlSize vf => (s.ctx vf).dlSize
    | .dlHead vf => (s.ctx vf).dlHead.setWidth 64
    | .dbgMask vf => (s.ctx vf).dbgMask
    | .dmt0 vf => (s.ctx vf).dmt0
    | .dmt1 vf => (s.ctx vf).dmt1
    | .dmData vf => (s.ctx vf).dmData
    | .trBase die => (sinkAt s.sinks die).base
    | .trSize die => (sinkAt s.sinks die).size
    | .trHead die => (sinkAt s.sinks die).head
    | .smCtl die => ((s.samplers[die.toNat]?).getD Sampler.reset).ctl.setWidth 64
    | .smBase die => (sinkAt s.sampleSinks die).base
    | .smSize die => (sinkAt s.sampleSinks die).size
    | .smHead die => (sinkAt s.sampleSinks die).head
    | .exportLo i => field (s.exports.get i.toNat) 0 64
    | .exportHi i => field (s.exports.get i.toNat) 64 64
  | .fqTail vf => (s.ctx vf).fqTail
  | .fqHead vf => (s.ctx vf).fqHead
  | .inval vf => (bit (s.invalDone vf)).setWidth 64 <<< 1
  | .csSize vf => BitVec.ofNat 64 (s.ctx vf).shownSize
  | .csStat vf => (s.ctx vf).csStat.setWidth 64
  | .dlTail vf => (bit (s.ctx vf).dlOvf).setWidth 64 <<< 63 ||| (s.ctx vf).dlTail.setWidth 64
  | .dmStat vf => (s.ctx vf).dmStat
  | .trTail die => (sinkAt s.sinks die).tail
  | .smTail die => (sinkAt s.sampleSinks die).tail

/-- An answer of the module. -/
def State.reply (s : State) (r : Reply) : State := { s with replies := s.replies ++ [r] }

/-- `CBIMG`: 0 makes the image zero; else the 768 bytes are copied, where they can be read. -/
def execCbimg (vf : BitVec 7) (v : W64) (s : State) : Out :=
  .next <|
    if !(s.ctx vf).launches.isEmpty then s
    else if v = 0 then s.updCtx vf fun c => { c with cbImg := 0, codebook := [] }
    else
      let s := s.updCtx vf fun c => { c with cbImg := v }
      match s.readChunks vf 16 (v &&& ~~~15) 48 with
      | (some l, s) => s.updCtx vf fun c => { c with codebook := SMap.setRange [] 0 l.flatten }
      | (none, s) => s

/-! ## CXL.mem (16 R257, 19 R309) -/

/-- The physical address of a host access, and the state after its mapping was used: A and D set, a dirty-log entry written. -/
def State.hostAddr (s : State) (mapping : Option (BitVec 7)) (addr : W64) (write : Bool) : Option (BitVec 52 × Via) × State :=
  match mapping with
  | none => (if addr.toNat < 2 ^ 52 then some (addr.setWidth 52, {}) else none, s)
  | some vf =>
    match s.translate vf none addr (if write then .write else .read) with
    | (.ok pa m, s) => (some (pa, m), s)
    | (_, s) => (none, s)

/-- `HOST CXL.MEM ACCESS`: bytes of one line of tier-1 memory; other addresses are not exposed. -/
def execHostCxlMemAccess (mapping : Option (BitVec 7)) (addr : W64) (data : Option (List Byte)) (n : Nat) (s : State) : Out :=
  let len := match data with | some b => b.length | none => n
  .next <|
    match s.hostAddr mapping addr data.isSome with
    | (none, s) => s
    | (some (pa, m), s) =>
      if regionOf pa ≠ .tier1 || 64 < pa.toNat % 64 + len then s
      else match data with
        | some b => s.writeBoth pa m b
        | none => match s.readLine pa len m with
          | (some b, s) => { s with replies := s.replies ++ [.host b] }
          | (none, s) => s

/-! ## The export table (16 R261 to R263) -/

def exPeer (e : BitVec 128) : BitVec 12 := field e 116 12
def exV (e : BitVec 128) : Bool := e.getLsbD 113
def exRO (e : BitVec 128) : Bool := e.getLsbD 112
def exBank (e : BitVec 128) : Bool := e.getLsbD 111
/-- Bytes from the entry's start that may be used. -/
def exLimit (e : BitVec 128) : Nat := ((field e 83 15 : BitVec 15).toNat + 1) * 65536
/-- The key of the pages behind the entry (16 R270). -/
def exKey (e : BitVec 128) : BitVec 13 := field e 98 13
/-- The physical address behind the entry. -/
def exBase (e : BitVec 128) : BitVec 52 := (field e 62 21 : BitVec 21) ++ (0 : BitVec 31)

/-- Whether an entry serves a sender's n bytes at an offset within it. -/
def exServes (e : BitVec 128) (sender : BitVec 12) (off n : Nat) (write : Bool) : Bool :=
  exV e && off + n ≤ exLimit e && (exPeer e == sender || exPeer e == BitVec.allOnes 12) && !(write && exRO e)

/-- The context that holds n bytes of bank memory. -/
def State.bankOwner (s : State) (a n : Nat) : Option (BitVec 7) :=
  (s.contexts.find? fun c => s.bankHeld c.vf a n).map (·.vf)

/-- What an aperture offset reaches: bank memory, or a physical address. -/
inductive Reach where
  | bank (a : BitVec 29)
  | phys (pa : BitVec 52) (key : BitVec 13)
  deriving DecidableEq, Repr

/-- What a sender's access of n bytes at an aperture offset reaches; none where it is refused. -/
def State.reach (s : State) (sender : BitVec 12) (offset : BitVec 39) (n : Nat) (write : Bool) : Option Reach :=
  let e := s.exports.get (offset.toNat / 2 ^ 31)
  let off := offset.toNat % 2 ^ 31
  if sender = s.device || !exServes e sender off n write then none
  else if exBank e then
    if off + n ≤ 2 ^ 29 && (s.bankOwner off n).isSome then some (.bank (BitVec.ofNat 29 off)) else none
  else
    let pa := exBase e + BitVec.ofNat 52 off
    match regionOf pa with
    | .tier1 | .tier2 | .host => some (.phys pa (exKey e))
    | .fabric | .none => none

/-- Bytes behind a reach; none where a line of them cannot be corrected, which is reported. -/
def State.readReach (s : State) (r : Reach) (n : Nat) : Option (List Byte) × State :=
  match r with
  | .bank a => s.readBankLine a n
  | .phys pa k =>
    match s.readLine (pa + BitVec.ofNat 52 (n - 1)) 1 { key := some k } with
    | (none, s) => (none, s)
    | (some last, s) =>
      let head := min n (64 - pa.toNat % 64)
      match s.readLine pa head { key := some k } with
      | (none, s) => (none, s)
      | (some b, s) =>
        if head + 1 < n then
          match s.readLine (pa + BitVec.ofNat 52 head) (n - head) { key := some k } with
          | (none, s) => (none, s)
          | (some t, s) => (some (b ++ t), s)
        else (some (if head < n then b ++ last else b), s)

/-- Bytes written behind a reach. -/
def State.writeReach (s : State) (r : Reach) (b : List Byte) : State :=
  match r with
  | .bank a => s.writeBank a b
  | .phys pa k => s.writeKeyed pa (some k) b

/-- `REMOTE ACCESS`: performed, or refused (16 R263). -/
def execRemoteAccess (m : RemoteMsg) (s : State) : Out :=
  let len : Nat := match m.kind with
    | .load n => n
    | .store b => b.length
    | .atomic _ fmt _ _ => typeBits fmt / 8
  let write : Bool := match m.kind with | .load _ => false | _ => true
  .next <|
    match s.reach m.sender m.offset len write with
    | none => s.reply (.refused m.sender)
    | some r =>
      match m.kind with
      | .store b => (s.writeReach r b).reply (.acknowledged m.sender)
      | .load n =>
        match s.readReach r n with
        | (some b, s) => s.reply (.data m.sender b)
        | (none, s) => s.reply (.refused m.sender)
      | .atomic fn fmt x y =>
        match s.readReach r len with
        | (some b, s) =>
          let new := atomStep fn fmt (ofBytes b) (x.toNat % 2 ^ (8 * len)) (y.toNat % 2 ^ (8 * len))
          (s.writeReach r (toBytes len new)).reply (.data m.sender b)
        | (none, s) => s.reply (.refused m.sender)

/-! ## Queues of this module for other modules (16 R264, R265) -/

/-- Whether a sender's export entries reach the control block at a bank address, and it can be read (log 77). -/
def State.ctlReached (s : State) (sender : BitVec 12) (c : BitVec 29) : Bool :=
  sender != s.device && !s.badCtl c && (List.range 256).any fun i =>
    let e := s.exports.get i
    exBank e && exServes e sender c.toNat 32 true

/-- Where the slots of a remote push lie; none where one of them is refused. -/
def slotReaches (s : State) (sender : BitVec 12) (p : RemotePush) (tail : W32) : Nat → List (List Byte) → Option (List (Reach × List Byte))
  | _, [] => some []
  | j, b :: t =>
    let i := (tail.toNat + j) % 2 ^ 32 % 2 ^ p.capLog.toNat
    match s.reach sender (p.slots + BitVec.ofNat 39 (i * p.recBytes)) p.recBytes true with
    | none => none
    | some r => (slotReaches s sender p tail (j + 1) t).map fun l => (r, b) :: l

/-- A push message is one a queue can take: a record size, a capacity, records of that size, no more than the capacity. -/
def pushOk (p : RemotePush) : Bool :=
  [16, 32, 64].contains p.recBytes && p.capLog.toNat ≤ 16 && p.records.all (fun b => b.length == p.recBytes) &&
    !p.records.isEmpty && p.records.length ≤ 2 ^ p.capLog.toNat

/-- `REMOTE QPUSH`: the whole push at this module's bank under 15 R249; the answer is what the sender's register takes, 0 where
there is no room. -/
def execRemoteQpush (sender : BitVec 12) (p : RemotePush) (s : State) : Out :=
  .next <|
    if !pushOk p || !s.ctlReached sender p.ctl then s.reply (.refused sender)
    else match s.bankOwner p.ctl.toNat 32 with
      | none => s.reply (.refused sender)
      | some vf =>
        let n := p.records.length
        let tail := s.qTail p.ctl
        if 2 ^ p.capLog.toNat < s.qUsed p.ctl + n then s.reply (.data sender (toBytes 8 0))
        else match slotReaches s sender p tail 0 p.records with
          | none => s.reply (.refused sender)
          | some l =>
            let s := l.foldl (fun (s : State) x => s.writeReach x.1 x.2) s
            (s.pushed vf p.ctl n).reply (.data sender (toBytes 8 ((BitVec.ofNat 32 n : W32) ++ tail).toNat))

/-- An entry of the remote-holder table is the one of a message. -/
def RemoteHolder.isOf (h : RemoteHolder) (sender : BitVec 12) (p : RemotePmt) : Bool :=
  h.device == sender && h.context == p.context && h.gang == p.gang && h.ctl == p.ctl

/-- What the table records for a message's holder. -/
def State.remoteHeld (s : State) (sender : BitVec 12) (p : RemotePmt) : W32 :=
  match s.remoteHolders.find? fun h => h.isOf sender p with
  | some h => h.count
  | none => 0

/-- The entry of a message's holder replaced; one that falls to 0 is freed. -/
def State.setRemoteHeld (s : State) (sender : BitVec 12) (p : RemotePmt) (x : W32) : State :=
  let rest := s.remoteHolders.filter fun h => !h.isOf sender p
  { s with remoteHolders := if x = 0 then rest
      else rest ++ [{ device := sender, context := p.context, gang := p.gang, ctl := p.ctl, count := x }] }

/-- `REMOTE PERMIT` (16 R265): permits granted or not, or given back. -/
def execRemotePermit (sender : BitVec 12) (p : RemotePmt) (s : State) : Out :=
  let x : W32 := p.count.setWidth 32
  let held := s.remoteHeld sender p
  let answer (s : State) (ok : Bool) : State := s.reply (.data sender (toBytes 8 (if ok then 1 else 0)))
  .next <|
    if !s.ctlReached sender p.ctl || (s.bankOwner p.ctl.toNat 32).isNone then s.reply (.refused sender)
    else if p.get then
      if x = 0 then answer s true
      else if (s.qAvail p.ctl).toNat < x.toNat || (held = 0 && 256 ≤ s.remoteHolders.length) then answer s false
      else answer ((s.setCtl p.ctl 6 (s.qAvail p.ctl - x)).setRemoteHeld sender p (held + x)) true
    else if held.toNat < x.toNat then s.reply (.refused sender)
    else ((s.setCtl p.ctl 6 (s.qAvail p.ctl + x)).setRemoteHeld sender p (held - x)).reply (.acknowledged sender)

/-- The permits of a list of remote holders back in PAVAIL, where their control blocks are still held. -/
def State.giveBack (s : State) (l : List RemoteHolder) : State :=
  l.foldl (fun (s : State) h =>
    if (s.bankOwner h.ctl.toNat 32).isSome && !s.badCtl h.ctl then s.setCtl h.ctl 6 (s.qAvail h.ctl + h.count) else s) s

/-- `REMOTE PERMIT RETURN`: every permit of a sending context, at its reset, or of a device that is down. -/
def execRemotePermitReturn (sender : BitVec 12) (context : Option (BitVec 7)) (s : State) : Out :=
  let mine (h : RemoteHolder) : Bool := h.device == sender && match context with | some c => h.context == c | none => true
  .next <|
    if context.isNone && !s.down.contains sender then s
    else
      let s := s.giveBack (s.remoteHolders.filter mine)
      let s := { s with remoteHolders := s.remoteHolders.filter fun h => !mine h }
      if context.isSome then s.reply (.acknowledged sender) else s

/-- `FABRIC DOWN`: a device that cannot be reached (16 R263); the returns it had to acknowledge wait no longer (R265). -/
def execFabricDown (device : BitVec 12) (s : State) : Out :=
  .next <| if s.down.contains device || device = s.device then s
    else { s with down := device :: s.down, contexts := s.contexts.map fun c => c.acknowledged device }

/-- `TIME ALIGNMENT` (16 R266): TIME corrected towards fabric time by one nanosecond, at most one in 10,000; it never falls. -/
def execTimeAlignment (t : W64) (s : State) : Out :=
  .next <|
    if s.time.toNat < t.toNat && s.slewedAt.toNat + 10000 ≤ s.time.toNat then { s.pass 1 0 [] with slewedAt := s.time } else s

/-! ## Trace time stamps (22 R349) -/

/-- `TRACE TS`: 65,536 cycles after the last while EN is 1. -/
def execTraceTs (g : GroupRef) (s : State) : Out :=
  .next <| s.onGroup g fun s =>
    if s.tracing && 65536 ≤ (s.cycles - s.grp.tsAt).toNat then
      ({ s with grp := { s.grp with tsAt := s.grp.tsAt + 65536 } }).packet 6 (toBytes 8 s.time.toNat)
    else s

/-! ## Sampling (22 R351, R352) -/

/-- Cycles between samples of a die: 2^e, e from 8 to 20. -/
def Sampler.period (x : Sampler) : Option Nat :=
  let e := (field x.ctl 0 5 : BitVec 5).toNat
  if x.ctl.getLsbD 5 && 8 ≤ e && e ≤ 20 then some (2 ^ e) else none

/-- A resident group of a quadrant, with its gang. -/
structure Sampled where
  gang : Gang
  grp : Group
  deriving DecidableEq, Repr

/-- The groups in a quadrant's rotation: retired ones leave it after the cycle of their retirement. -/
def State.rotation (s : State) (die : BitVec 3) (core : BitVec 7) (quad : Nat) : List Sampled :=
  let inCycle (g : Group) : Bool := quadOf g.idx == quad && (!g.retired || g.retiredAt == s.cycles)
  ((s.gangsOn die core).flatMap fun r => (r.groups.filter inCycle).map fun g => { gang := r.gang, grp := g }) ++
    (s.exited.filter fun x => x.1.die == die && x.1.core == core && inCycle x.2).map fun x => { gang := x.1, grp := x.2 }

/-- The group of the lowest slot from a slot on. -/
def nextSlot (from_ : Nat) : List Sampled → Option Sampled
  | [] => none
  | x :: t =>
    match nextSlot from_ t with
    | none => if from_ ≤ x.grp.slot.toNat then some x else none
    | some y => if from_ ≤ x.grp.slot.toNat && x.grp.slot.toNat ≤ y.grp.slot.toNat then some x else some y

/-- The split sampled: the one that issued in the cycle, else the oldest ready, else the lowest that holds lanes. -/
def Group.sampledSplit (g : Group) (now : W64) : Option (BitVec 2 × Split) :=
  let l := g.splits.list.filter fun q => !q.2.isFree
  match l.find? fun q => q.2.issuedAt == now + 1 with
  | some q => some q
  | none =>
    let r := l.filter fun q => q.2.ready
    match r.find? fun q => r.all fun p => p.2.age.toNat ≤ q.2.age.toNat with
    | some q => some q
    | none => l.head?

/-- The reason of a counted operation that waits for its counter, or for something else. -/
def Group.countReason (g : Group) (cls : BitVec 3) : Nat := if 255 ≤ g.count cls then 13 else 31

/-- What an instruction that waits waits for; the store queue has no bound here that it could fill (log 52). -/
def waitReason (g : Group) : Option Instr → Nat
  | some (.waitc c _ _) => 9 + c.toNat
  | some (.cpA _ _ _ tag) | some (.cpB _ _ _ tag) => g.countReason (tag.setWidth 3)
  | some (.gth _ _ _) => g.countReason 5
  | some (.redAdd _ _ _ _) | some (.redMin _ _ _ _) | some (.redMax _ _ _ _) | some (.bankMx _ _ _ _) | some (.bankSup _ _ _ _)
  | some (.bankVadd _ _ _ _) => g.countReason 6
  | some (.fence _) => 15
  | some (.barWait _ _ _ _) | some (.barSync _ _ _) => 16
  | some (.qpush _ _ _) => 18
  | some (.launch _ _) => 29
  | none => 27
  | _ => 31

/-- What keeps a split from issuing its next instruction, whatever that is: an operation on a queue not yet answered, by this module or by
another one; a record load or a watched load (22 R334). -/
def Group.stopReason (g : Group) (x : Split) : Option Nat :=
  (g.flight.find? (g.keepsBack x)).map fun e =>
    match e.op with
    | .qpush | .pmtGet | .pmtRet => if e.part = 1 then 30 else 18
    | _ => if e.openAccs.any (·.remote) then 30 else 31

/-- The unit of a quadrant that a word takes, by the reason of a split that waits for it: the vector datapath, the special-function unit,
none. -/
def wordUnit (w : W32) : Nat :=
  let op := (field w 25 7 : BitVec 7).toNat
  if 0x48 ≤ op && op < 0x4C then 6
  else if op = 0x1C || op = 0x1D || (0x28 ≤ op && op < 0x50) || (0x78 ≤ op && op < 0x7B) then 5
  else 0

/-- The cycles for which a word of a group of so many lanes takes its unit (05 R98, 14 R242). -/
def unitCycles (unit lanes : Nat) : Nat := if unit = 6 then lanes / 8 else if lanes = 64 then 2 else 1

/-- The unit that a ready split's word takes, where the last word of a split of the quadrant still takes it: its reason (22 R352, log 52). -/
def State.unitBusy (s : State) (r : Sampled) (x : Split) : Option Nat :=
  let unit := ((s.peekWord r.gang.vf x.pc).map wordUnit).getD 0
  let mine := (s.gangsOn r.gang.die r.gang.core).flatMap fun q =>
    ((q.groups.filter fun g => quadOf g.idx == quadOf r.grp.idx).flatMap fun g => g.splits.list).map fun y => (q.gang, y.2)
  let holds (y : Gang × Split) : Bool :=
    !y.2.isFree && (s.peekWord y.1.vf (y.2.pc - 4)).map wordUnit == some unit && y.2.issuedAt.toNat ≤ s.cycles.toNat &&
      s.cycles.toNat + 1 < y.2.issuedAt.toNat + unitCycles unit y.1.lrec.lanes
  if unit != 0 && mine.any holds then some unit else none

/-- The records that an instruction under the per-tile interlock names, and whether it is counted (11 R193). -/
def tilesNamed (g : Group) : Option Instr → Option (List (BitVec 10) × Bool)
  | some (.tld c a _) | some (.tldf c a _) | some (.tst c a _) | some (.tstf c a _) | some (.tscl c a _) | some (.tcp c a)
  | some (.ttr c a) | some (.tlu c a) | some (.ttrsmU c a) => some ([c.setWidth 10, a.setWidth 10], true)
  | some (.tmm c a b) | some (.tmms c a b) | some (.tadd c a b) | some (.tsub c a b) | some (.ttrsmL c a b) | some (.tmmM c a b) =>
    some ([c.setWidth 10, a.setWidth 10, b.setWidth 10], true)
  | some (.tz c _) | some (.trnd c) | some (.tlr c) | some (.tden c) | some (.tchol c) | some (.vt c _ _) => some ([c.setWidth 10], true)
  | some (.tv _ a _) | some (.tinfo _ a) | some (.tls a) => some ([a.setWidth 10], false)
  | some (.recSet r _ _) | some (.recGet _ r _) => some ([field (g.sreg r) 0 10], false)
  | _ => none

/-- Why an instruction under the per-tile interlock waits: the counter is full, a claim of the operation it waits for, or that
operation. -/
def tileReason (r : Sampled) (groups : List Group) (l : List (BitVec 10)) (counted : Bool) : Nat :=
  let all := groups.flatMap fun g => g.outstanding
  let open_ (e : Entry) : Bool := match e.op with | .tile op => op.writesTile && e.claimed.isNone && !e.failed | _ => false
  let before := all.filter fun e => e.tiles.any fun n => l.contains n
  if counted && 255 ≤ r.grp.count 4 then 13
  else if before.any fun e => open_ e && all.any fun x => open_ x && x.seq < e.seq then 8
  else if before.isEmpty then 31 else 7

/-- The group issued in the cycle: one of its splits, or one that has exited (22 R351). -/
def Group.issuedIn (g : Group) (now : W64) : Bool :=
  g.exitAt == now + 1 || (g.splits.list.map (·.2) ++ g.overflow ++ g.frame.splits.list.map (·.2)).any fun x => x.issuedAt == now + 1

/-- The stall reason of a sampled split (22 R352). -/
def State.stallReason (s : State) (r : Sampled) (x : Split) : Nat :=
  let g := r.grp
  if g.issuedIn s.cycles then 0
  else if !g.due.isEmpty then 25
  else if !g.inActive then 26
  else if x.held then 24
  else match x.st with
    | .parked _ _ => 23
    | .yielded _ _ => 22
    | .asleep _ _ _ => 21
    | .waiting _ _ => 20
    | .inTsal _ _ _ => 19
    | .inPop _ _ _ _ => 18
    | .inLaunch _ => 29
    | .atBarrier _ _ => 16
    | .passed _ _ => 24
    | .running =>
      match x.blk with
      | .no => (s.unitBusy r x).getD 1
      | .barWait _ _ => 16
      | .other =>
        let i := (s.peekWord r.gang.vf x.pc).bind decode
        match g.stopReason x with
        | some n => n
        | none => match tilesNamed g i with
        | some (l, counted) => tileReason r ((s.gangsOn r.gang.die r.gang.core).flatMap fun q => if q.gang.isRef r.gang.ref then q.groups else []) l counted
        | none => waitReason g i
      | .reg y written =>
        if written then 4
        else match g.flight.find? fun e => e.writes.contains y with
          | some e =>
            if e.openAccs.any (·.remote) then 30
            else match e.op with
              | .ld .clear | .ld .keep => 17
              | .ld _ => 2
              | _ => 3
          | none => 3

/-- A sample record. -/
def State.sampleRecord (s : State) (r : Sampled) (quad : Nat) : W256 :=
  let pick := r.grp.sampledSplit s.cycles
  let x := match pick with | some q => q.2 | none => { Split.free with pc := r.grp.exitPc }
  let k : BitVec 2 := match pick with | some q => q.1 | none => 0
  -- a group that has retired in the cycle may have issued its exit in it
  let reason := if r.grp.retired then 28 else match pick with | some _ => s.stallReason r x | none => 31
  putField (putField (putField (putField (putField (putField (putField (putField (putField (putField (putField (0 : W256)
    224 r.gang.idx) 217 r.gang.vf) 214 r.gang.die) 207 r.gang.core) 205 (BitVec.ofNat 2 quad)) 200 r.grp.idx) 198 k)
    197 (bit (r.grp.issuedIn s.cycles))) 192 (BitVec.ofNat 5 reason)) 128 x.mask) 64 x.pc ||| s.time.setWidth 256

/-- A sample record to the buffer of a die; one that does not fit is dropped. -/
def State.putSample (s : State) (die : BitVec 3) (b : List Byte) : State :=
  let k := sinkAt s.sampleSinks die
  if k.fits b.length then
    { s with mem := writeRing k.base k.size k.tail b s.mem
             sampleSinks := s.sampleSinks.set die.toNat { k with tail := k.tail + BitVec.ofNat 64 b.length } }
  else s

/-- `SAMPLE`: every N cycles the next group of a quadrant in slot order. -/
def execSample (die : BitVec 3) (core : BitVec 7) (quad : BitVec 2) (s : State) : Out :=
  let x := (s.samplers[die.toNat]?).getD Sampler.reset
  let key := 4 * core.toNat + quad.toNat
  .next <|
    match x.period with
    | none => s
    | some n =>
      if (s.cycles - x.start).toNat / n ≤ (x.taken.get key).toNat then s
      else
        let l := s.rotation die core quad.toNat
        let y := { x with taken := x.taken.set key (x.taken.get key + 1) }
        match (nextSlot (x.next.get key).toNat l).or (nextSlot 0 l) with
        | none => { s with samplers := s.samplers.set die.toNat y }
        | some r =>
          let y := { y with next := y.next.set key (BitVec.ofNat 8 (r.grp.slot.toNat + 1)) }
          ({ s with samplers := s.samplers.set die.toNat y }).putSample die (toBytes 32 (s.sampleRecord r quad.toNat).toNat)

end Sys2Proof.Machine
end

