-- ==== Sys2Proof/Machine/Moment.lean ====
section
/-!
DEFINITION. Sys2Proof/Machine/Moment.lean: moment registers and their arithmetic (21 R313 to R324). Every step is rounded to f32 to
nearest even and never flushed.
-/

namespace Sys2Proof.Machine

/-! ## Pairs and steps (21 R314, R316) -/

/-- A mean and a variance, as f32 bits. -/
structure Pair where
  mean : Nat
  var : Nat
  deriving DecidableEq, Repr

/-- The pair in a lane of a moment register. -/
def Pair.ofBits (x : W64) : Pair := ⟨x.toNat % 2 ^ 32, x.toNat / 2 ^ 32⟩
/-- A pair as a lane of a moment register. -/
def Pair.bits (p : Pair) : W64 := BitVec.ofNat 32 p.var ++ BitVec.ofNat 32 p.mean

/-- f32. -/
def pf : Pr := Pr.of false
/-- 1.0, 2.0 and 0.5. -/
def fOne : Nat := pf.one
def fTwo : Nat := pf.pow 1
def fHalf : Nat := pf.pow (-1)
/-- The constants of 21 R318: 1/√(2π), 1/√2 and π/8, rounded. -/
def fKP : Nat := 0x3ECC422A
def fK2 : Nat := 0x3F3504F3
def fKS : Nat := 0x3EC90FDB

/-- EXP, ERF, SQRT and RSQ of f32 bits. -/
def fExp (x : Nat) : Calc Nat := Calc.step (expV false fmtF32 0 false (fmtF32.value x))
def fErf (x : Nat) : Calc Nat := Calc.step (sigmoidV true fmtF32 0 false (fmtF32.value x))
def fRsq (x : Nat) : Calc Nat := Calc.step (fmtF32.rsqV 0 false (fmtF32.value x))

/-- Whether f32 bits are a NaN. -/
def fNaN (x : Nat) : Bool := fmtF32.value x == .nan
/-- Whether f32 bits are below zero; −0 and NaN are not (21 R320). -/
def fNeg (x : Nat) : Bool := 2 ^ 31 < x && !fNaN x

/-- The covariance term of two variances: none under COV 0 (21 R316). -/
def covTerm (cov : BitVec 2) (va vb : Nat) : Calc (Option Nat) :=
  if cov = 0 then pure none
  else do
    let c ← pf.sqrt (← pf.mul va vb)
    pure (some (if cov = 1 then c else pf.flip c))

/-- A term added where it is there. -/
def withTerm (c : Option Nat) (f : Nat → Nat → Calc Nat) (x : Nat) : Calc Nat :=
  match c with
  | none => pure x
  | some c => f c x

/-! ## Sums, products and scaling (21 R317) -/

/-- madd, or msub. -/
def mAddSub (cov : BitVec 2) (neg : Bool) (a b : Pair) : Calc Pair := do
  let c ← covTerm cov a.var b.var
  let m ← if neg then pf.sub a.mean b.mean else pf.add a.mean b.mean
  let v ← pf.add a.var b.var
  let v ← withTerm c (fun c v => do
    let d ← pf.mul fTwo c
    if neg then pf.sub v d else pf.add d v) v
  pure ⟨m, v⟩

/-- mmul. -/
def mMul (cov : BitVec 2) (a b : Pair) : Calc Pair := do
  let c ← covTerm cov a.var b.var
  let m ← match c with
    | none => pf.mul a.mean b.mean
    | some c => pf.fma a.mean b.mean c
  let v ← pf.mul a.var b.var
  let v ← pf.fma (← pf.mul b.mean b.mean) a.var v
  let v ← pf.fma (← pf.mul a.mean a.mean) b.var v
  let v ← withTerm c (fun c v => do
    let v ← pf.fma (← pf.mul fTwo (← pf.mul a.mean b.mean)) c v
    pf.fma c c v) v
  pure ⟨m, v⟩

/-- mfma: the product, then the sum with the old destination. -/
def mFma (cov : BitVec 2) (a b d : Pair) : Calc Pair := do mAddSub cov false (← mMul cov a b) d

/-- mscl. -/
def mScl (s : Nat) (a : Pair) : Calc Pair := do
  let m ← pf.mul s a.mean
  pure ⟨m, ← pf.mul (← pf.mul s s) a.var⟩

/-! ## The non-linear rules (21 R319) -/

/-- A rule on a pair whose variance is neither negative nor NaN. -/
def nonLinear (f : Pair → Calc Pair) (a : Pair) : Calc Pair :=
  let n := fmtF32.nanCode
  if fNeg a.var then do
    modify (Rep.or · Rep.invalid)
    pure ⟨n, n⟩
  else if fNaN a.var then pure ⟨n, n⟩
  else f a

/-- mexp. -/
def mExp (a : Pair) : Calc Pair := do
  let m ← fExp (← pf.add a.mean (← pf.mul a.var fHalf))
  if pf.isZero a.var then pure ⟨m, 0⟩
  else do
    let x ← pf.sub (← fExp a.var) fOne
    let y ← fExp (← pf.add (← pf.mul fTwo a.mean) a.var)
    pure ⟨m, ← pf.mul x y⟩

/-- mrelu. -/
def mRelu (a : Pair) : Calc Pair :=
  if pf.isZero a.var then
    pure ⟨if fNaN a.mean then fmtF32.nanCode else if 0 < a.mean && a.mean < 2 ^ 31 then a.mean else 0, 0⟩
  else do
    let sg ← pf.sqrt a.var
    let al ← pf.div a.mean sg
    let big ← pf.mul (← pf.add fOne (← fErf (← pf.mul al fK2))) fHalf
    let small ← pf.mul (← fExp (pf.flip (← pf.mul (← pf.mul al al) fHalf))) fKP
    let m ← pf.fma a.mean big (← pf.mul sg small)
    let t ← pf.fma (← pf.mul a.mean sg) small (← pf.mul (← pf.fma a.mean a.mean a.var) big)
    pure ⟨m, ← pf.sub t (← pf.mul m m)⟩

/-- msig. -/
def mSig (a : Pair) : Calc Pair := do
  let k ← fRsq (← pf.add (← pf.mul a.var fKS) fOne)
  let m ← pf.div fOne (← pf.add fOne (← fExp (pf.flip (← pf.mul a.mean k))))
  pure ⟨m, ← pf.mul (← pf.mul m (← pf.sub fOne m)) (← pf.sub fOne k)⟩

/-! ## Results (21 R320 to R322) -/

/-- A moment result under NVM: the pair written, and what it raises. -/
def settlePair (nvm : BitVec 2) (p : Pair) (r : Rep) : Pair × Rep :=
  if fNeg p.var then
    (if nvm = 1 then p else ⟨p.mean, 0⟩, if nvm = 2 then r else r.or Rep.negVar)
  else (p, r)

/-- Moment results of the active lanes written, reported and watched: the flags, and the variances as rounded. -/
def State.finishMoment (s : State) (d : BitVec 5) (out : List (Nat × Pair × Rep)) : State :=
  let pc := s.sp.pc
  let fin : List (Nat × Pair × Rep) := out.map fun (x : Nat × Pair × Rep) => (x.1, settlePair (modeNVM s.mode) x.2.1 x.2.2)
  let s := { s with grp := s.grp.putM d.toNat (fin.map fun (x : Nat × Pair × Rep) => (x.1, x.2.1.bits)) }
  let reps : List (Nat × Rep) := fin.map fun (x : Nat × Pair × Rep) => (x.1, x.2.2)
  ((s.report reps pc).advance).watchAll
    [(4, reps.map fun x => (x.1, x.2.fl.setWidth 64)), (5, out.map fun x => (x.1, BitVec.ofNat 64 x.2.1.var))] pc

/-- Moment arithmetic on the pairs of each active lane: sources, then the old destination. -/
def State.moment (s : State) (u : Use) (d : BitVec 5) (f : Nat → Calc Pair) : State :=
  s.typed (fun t => t == 19 || t == 20) u fun s =>
    s.finishMoment d (s.lanes.map fun l => (l, (f l).run Rep.none))

/-- A lane of a moment register as a pair. -/
def State.pair (s : State) (r : BitVec 5) (l : Nat) : Pair := Pair.ofBits (s.grp.mreg r.toNat l)

/-- What a moment instruction of two sources needs. -/
def mUse2 (d a b : BitVec 5) (x y : BitVec 1) (rd : Bool) : Use :=
  { reads := [(.m a.toNat, x == 1), (.m b.toNat, y == 1)] ++ (if rd then [(.m d.toNat, false)] else [])
    writes := [.m d.toNat] }

/-- What a moment instruction of one source needs. -/
def mUse1 (d a : BitVec 5) (x : BitVec 1) : Use := { reads := [(.m a.toNat, x == 1)], writes := [.m d.toNat] }

/-- `madd`. -/
def execMadd (d a b : BitVec 5) (x y : BitVec 1) (s : State) : Out :=
  .next (s.moment (mUse2 d a b x y false) d fun l => mAddSub (modeCOV s.mode) false (s.pair a l) (s.pair b l))
/-- `msub`. -/
def execMsub (d a b : BitVec 5) (x y : BitVec 1) (s : State) : Out :=
  .next (s.moment (mUse2 d a b x y false) d fun l => mAddSub (modeCOV s.mode) true (s.pair a l) (s.pair b l))
/-- `mmul`. -/
def execMmul (d a b : BitVec 5) (x y : BitVec 1) (s : State) : Out :=
  .next (s.moment (mUse2 d a b x y false) d fun l => mMul (modeCOV s.mode) (s.pair a l) (s.pair b l))
/-- `mfma`. -/
def execMfma (d a b : BitVec 5) (x y : BitVec 1) (s : State) : Out :=
  .next (s.moment (mUse2 d a b x y true) d fun l => mFma (modeCOV s.mode) (s.pair a l) (s.pair b l) (s.pair d l))
/-- `mscl`. -/
def execMscl (d a : BitVec 5) (b : BitVec 6) (x y : BitVec 1) (s : State) : Out :=
  .next (s.moment { reads := [(.m a.toNat, x == 1), (.s b, y == 1)], writes := [.m d.toNat] } d
    fun l => mScl ((s.readS b).toNat % 2 ^ 32) (s.pair a l))
/-- `mexp`. -/
def execMexp (d a : BitVec 5) (x : BitVec 1) (s : State) : Out :=
  .next (s.moment (mUse1 d a x) d fun l => nonLinear mExp (s.pair a l))
/-- `mrelu`. -/
def execMrelu (d a : BitVec 5) (x : BitVec 1) (s : State) : Out :=
  .next (s.moment (mUse1 d a x) d fun l => nonLinear mRelu (s.pair a l))
/-- `msig`. -/
def execMsig (d a : BitVec 5) (x : BitVec 1) (s : State) : Out :=
  .next (s.moment (mUse1 d a x) d fun l => nonLinear mSig (s.pair a l))

/-! ## Moving pairs (21 R323) -/

/-- `mset`: the bits of an even pair of vector registers. -/
def execMset (d : BitVec 5) (a : BitVec 7) (x : BitVec 1) (s : State) : Out :=
  .next (s.moment
    { ok := a.toNat % 2 == 0, reads := [(.v a.toNat, x == 1), (.v (a.toNat + 1), x == 1)], writes := [.m d.toNat] } d
    fun l => pure ⟨(s.grp.vreg a.toNat l).toNat, (s.grp.vreg (a.toNat + 1) l).toNat⟩)

/-- `mcol`: the mean, and the square root of the variance. -/
def execMcol (d : BitVec 7) (a : BitVec 5) (x : BitVec 1) (s : State) : Out :=
  .next <| s.typed (fun t => t == 19 || t == 20)
    { ok := d.toNat % 2 == 0, reads := [(.m a.toNat, x == 1)], writes := [.v d.toNat, .v (d.toNat + 1)] } fun s =>
      let out : List (Nat × Nat × Rep) := s.lanes.map fun l => (l, (pf.sqrt (s.pair a l).var).run Rep.none)
      let pairs := out.map fun o => (o.1, BitVec.ofNat 32 o.2.1 ++ BitVec.ofNat 32 (s.pair a o.1).mean)
      let s := { s with grp := s.grp.putPair d.toNat pairs }
      s.finish (out.map fun o => (o.1, o.2.2))

/-- `mvar`: the variance. -/
def execMvar (d : BitVec 7) (a : BitVec 5) (x : BitVec 1) (s : State) : Out :=
  .next <| s.typed (fun t => t == 19 || t == 20) { reads := [(.m a.toNat, x == 1)], writes := [.v d.toNat] } fun s =>
    (s.writeV d.toNat fun l => field (s.grp.mreg a.toNat l) 32 32).finish (s.lanes.map fun l => (l, Rep.none))

/-! ## Loads and stores of pairs (21 R324) -/

/-- mf32 or mbf16. -/
def fmtMoment (f : BitVec 8) : Bool := f == 19 || f == 20

/-- `mld`. -/
def execMld (d : BitVec 5) (r : BitVec 8) (a : BitVec 7) (w : BitVec 1) (s : State) : Out :=
  .next <| s.issue { reads := [(.v a.toNat, w == 1)], writes := [.m d.toNat] } fun s =>
    let rec_ := s.record (r.setWidth 10)
    match checkMem rec_ fmtMoment anySpace false false 0 with
    | some c => s.trapRec c rec_
    | none => s.sendMem { s.newEntry (.mld d r a w) (.ld .moment) with
        snaps := [rec_], recs := [r.setWidth 10], blocks := [s.grp.block a.toNat], dest := Dest.mom d.toNat } none

/-- `mst`: what narrowing to bf16 raises is reported with the issue. -/
def execMst (d : BitVec 5) (r : BitVec 8) (a : BitVec 7) (w : BitVec 1) (s : State) : Out :=
  .next <| s.issue { reads := [(.v a.toNat, w == 1), (.m d.toNat, false)], ready := s.grp.heldStore.isNone,
                     park := s.grp.heldStore } fun s =>
    let rec_ := s.record (r.setWidth 10)
    match checkMem rec_ fmtMoment anySpace false true 0 with
    | some c => s.trapRec c rec_
    | none =>
      let e := { s.newEntry (.mst d r a w) (.st .moment) with
        snaps := [rec_], recs := [r.setWidth 10], blocks := s.grp.block a.toNat :: s.grp.momentBlocks d.toNat }
      match s.prepare e with
      | .error (c, va) => s.trapVa c va
      | .ok _ => (s.report (s.lanes.map fun l => (l, e.narrowing l)) s.sp.pc).sendMem e none

end Sys2Proof.Machine
end

