-- ==== Sys2Proof/Machine/Record.lean ====
section
/-!
DEFINITION. Sys2Proof/Machine/Record.lean: the record instructions and `cbld` (06 R136 to R138, 08 R156).
-/

namespace Sys2Proof.Machine

/-! ## Whole entries (06 R136, R138) -/

/-- No access of the group is open but stores that a fault holds and that miss n bytes at an address: a load of these bytes may be
performed in its order (08 R144). -/
def State.wholeReady (s : State) (va : W64) (n : Nat) : Bool :=
  s.grp.flight.all fun x => !x.op.isMem || x.openAccs.isEmpty ||
    (x.op.isStore && x.held.isSome && x.openAccs.all fun y => y.place != .virt || !meet y.addr.toNat y.n va.toNat n)

/-- A change of a shared entry goes to the table as a store: it waits where a store of the group is held (18 R283). -/
def State.changeReady (s : State) (n : BitVec 10) : Bool := n.toNat < 256 || s.grp.heldStore.isNone

/-- A record or codebook load performed; held by a replayable fault of its page, its split parked there; or trapping: a refused
record precisely, a memory fault at the next boundary. -/
def State.sendWhole (s : State) (e : Entry) : State :=
  let (e, s) := s.loadEntry e
  let s := { s with grp := s.grp.bump }
  match e.held with
  | some va => ((s.launchEntry e).advance).updSp fun x => { x with st := .parked va false }
  | none =>
    let (e, s) := if e.err = 0 then s.loadWhole e else (e, s)
    if e.err = cREC_BUSY || e.err = cREC_VALUE then s.trap e.err
    else if e.err = 0 then s.advance
    else (s.launchEntry e).advance

/-- `rec.ld`. -/
def execRecLd (a : BitVec 6) (n : BitVec 10) (s : State) : Out :=
  let u : Use :=
    { reads := [(.s a, false)], ready := s.wholeReady (s.readS a) 32 && s.changeReady n, park := s.grp.heldStore, recs := [n] }
  .next <| s.issue u fun s =>
    let x := s.readS a
    if field x 0 5 ≠ (0 : BitVec 5) then s.trapVa cALIGN x
    else if recKind (s.record n) == 2 && tileSegs (s.record n) != 0 then s.trap cREC_BUSY
    else s.sendWhole { s.newEntry (.recLd a n) .recLd with snaps := [s.record n], recs := [n], scal := [x] }

/-- `rec.st`. -/
def execRecSt (a : BitVec 6) (n : BitVec 10) (s : State) : Out :=
  let u : Use := { reads := [(.s a, false)], ready := s.grp.heldStore.isNone, park := s.grp.heldStore, recs := [n] }
  .next <| s.issue u fun s =>
    let x := s.readS a
    if field x 0 5 ≠ (0 : BitVec 5) then s.trapVa cALIGN x
    else s.sendMem { s.newEntry (.recSt a n) (.st .record) with snaps := [s.record n], recs := [n], scal := [x] } none

/-- The copies that the core in focus holds of count shared entries from N dropped (06 R136). -/
def State.dropCopies (s : State) (n : BitVec 10) (count : Nat) : State :=
  { s with recCache := s.recCache.filter fun c =>
      !(c.die == s.gang.die && c.core == s.gang.core && c.vf == s.gang.vf && n.toNat ≤ c.n.toNat && c.n.toNat < n.toNat + count) }

/-- Every earlier load and returning access of the group is performed (08 R156). -/
def State.loadsDone (s : State) : Bool :=
  s.grp.flight.all fun x => !x.op.isMem || x.op.queued || x.op == .qpush || x.openAccs.isEmpty

/-- `rec.inv`: it comes after the group's earlier loads, and the next use of an entry fetches it again (06 R136, 08 R156). -/
def execRecInv (a : BitVec 6) (n : BitVec 10) (s : State) : Out :=
  .next <| s.issue { reads := [(.s a, false)], ready := s.loadsDone } fun s =>
    (s.dropCopies n (max 1 (s.readS a).toNat)).advance

/-- `cbld`. -/
def execCbld (a : BitVec 6) (s : State) : Out :=
  .next <| s.issue { reads := [(.s a, false)], ready := s.wholeReady (s.readS a) 768 } fun s =>
    let x := s.readS a
    if field x 0 4 ≠ (0 : BitVec 4) then s.trapVa cALIGN x
    else s.sendWhole { s.newEntry (.cbld a) .cbld with scal := [x] }

/-! ## Fields (06 R137) -/

/-- A field of a record: the kind that has it (0 for both), its lowest bit, its width, whether read only. -/
structure RecField where
  kind : Nat
  lo : Nat
  width : Nat
  ro : Bool
  deriving DecidableEq, Repr

/-- The field of a code. -/
def recField (f : BitVec 6) : Option RecField :=
  match f.toNat with
  | 0 => some ⟨0, 0, 8, true⟩
  | 1 => some ⟨0, 8, 8, false⟩
  | 2 => some ⟨0, 16, 16, true⟩
  | 8 => some ⟨1, 32, 64, false⟩
  | 9 => some ⟨1, 96, 48, false⟩
  | 10 => some ⟨1, 144, 32, false⟩
  | 11 => some ⟨1, 176, 32, false⟩
  | 12 => some ⟨1, 208, 8, false⟩
  | 13 => some ⟨1, 216, 2, false⟩
  | 14 => some ⟨1, 218, 2, false⟩
  | 15 => some ⟨1, 220, 3, false⟩
  | 16 => some ⟨1, 223, 3, false⟩
  | 17 => some ⟨1, 226, 2, false⟩
  | 24 => some ⟨2, 32, 8, false⟩
  | 25 => some ⟨2, 40, 2, true⟩
  | 26 => some ⟨2, 42, 5, true⟩
  | 27 => some ⟨2, 47, 5, false⟩
  | 28 => some ⟨2, 52, 1, false⟩
  | 29 => some ⟨2, 53, 1, false⟩
  | 30 => some ⟨2, 54, 12, true⟩
  | 31 => some ⟨2, 66, 12, true⟩
  | 32 => some ⟨2, 78, 7, false⟩
  | 33 => some ⟨2, 85, 7, false⟩
  | 34 => some ⟨2, 92, 8, false⟩
  | _ => none

/-- Whether a field is a stride, which is signed. -/
def isStride (f : BitVec 6) : Bool := f == 10 || f == 11

/-- The present value of a field. -/
def RecField.get (x : RecField) (r : W256) : Nat := r.toNat / 2 ^ x.lo % 2 ^ x.width

/-- A record with a field replaced. -/
def RecField.put (x : RecField) (r : W256) (v : Nat) : W256 :=
  let keep := r &&& ~~~(BitVec.ofNat 256 ((2 ^ x.width - 1) * 2 ^ x.lo))
  keep ||| BitVec.ofNat 256 (v % 2 ^ x.width * 2 ^ x.lo)

/-- Whether a value may stand in a field of a record (06 R103, R137, 11 R181). -/
def fieldValueOk (f : BitVec 6) (x : RecField) (r : W256) (v : W64) : Bool :=
  if isStride f then -(2 ^ 31 : Int) ≤ v.toInt && v.toInt < 2 ^ 31
  else match f.toNat with
    | 1 => v.toNat ≤ 1
    | 12 | 24 => v.toNat ≤ 20
    | 15 => v.toNat ≤ 3
    | 16 => v.toNat ≤ 5
    | 27 => 1 ≤ v.toNat && v.toNat ≤ 31 && (tileRank r).toNat ≤ v.toNat
    | 32 | 33 => 1 ≤ v.toNat && v.toNat ≤ 64
    | _ => v.toNat < 2 ^ x.width

/-- The cause with which `rec.get`, or `rec.set` of a value, refuses a field. -/
def fieldFault (f : BitVec 6) (r : W256) (v : Option W64) : Option (BitVec 9) :=
  if recKind r ≠ 1 && recKind r ≠ 2 then some cREC_KIND
  else match recField f with
    | none => some cREC_FIELD
    | some x =>
      if x.kind ≠ 0 && x.kind ≠ (recKind r).toNat then some cREC_FIELD
      else match v with
        | none => none
        | some v =>
          if x.ro then some cREC_FIELD
          else if !fieldValueOk f x r v then some cREC_VALUE
          else if (f = 24 || f = 28 || f = 29) && tileSegs r != 0 && x.get r != v.toNat then some cREC_BUSY
          else none

/-- What a field instruction on entry sR waits for: the interlock of a tile record. -/
def State.fieldReady (s : State) (n : BitVec 10) : Bool := recKind (s.record n) != 2 || s.interlockFree [n]

/-- `rec.set` (08 R156): an entry of the shared window changes in the core's copy, and in the table as by a store. -/
def execRecSet (r a f : BitVec 6) (s : State) : Out :=
  .next <|
    let n : BitVec 10 := field (s.readS r) 0 10
    let u : Use :=
      { reads := [(.s r, false), (.s a, false)], ready := s.fieldReady n && s.changeReady n
        park := if s.fieldReady n then s.grp.heldStore else s.interlockHeld [n], recs := [n] }
    s.issue u fun s =>
      let old := s.record n
      let v := s.readS a
      match fieldFault f old (some v), recField f with
      | some c, _ => s.trap c
      | none, some x =>
        let e := { s.newEntry (.recSet r a f) (.st .table) with snaps := [old], recs := [n], scal := [s.readS r, v] }
        (s.changeRecord e n (bumpGen (x.put old v.toNat))).advance
      | none, none => s.trap cREC_FIELD

/-- `rec.get`. -/
def execRecGet (d r f : BitVec 6) (s : State) : Out :=
  .next <|
    let n : BitVec 10 := field (s.readS r) 0 10
    let u : Use :=
      { reads := [(.s r, false)], writes := [.s d], ready := s.fieldReady n, park := s.interlockHeld [n], recs := [n] }
    s.issue u fun s =>
      let x := s.record n
      match fieldFault f x none, recField f with
      | some c, _ => s.trap c
      | none, some i =>
        (s.writeS d (if isStride f then (BitVec.ofNat 32 (i.get x)).signExtend 64 else BitVec.ofNat 64 (i.get x))).advance
      | none, none => s.trap cREC_FIELD

end Sys2Proof.Machine
end

