-- ==== Sys2Proof/Machine/Service.lean ====
section
/-!
DEFINITION. Sys2Proof/Machine/Service.lean: power, resets, the Obsidian freeze, firmware, repairs, keys and management
(16 R261, R270, R271, 22 R354, 23 R356 to R364).
-/

namespace Sys2Proof.Machine

/-! ## Power and resets (23 R356 to R359) -/

/-- `POWER-ON`: everything cleared but the firmware held in flash; TIME starts at 0 and is stepped once onto fabric time. -/
def execPowerOn (fabricTime : W64) (s : State) : Out :=
  .next <|
    match s.power with
    | .off => { State.reset with
        time := fabricTime, slewedAt := fabricTime, firmware := s.firmware, inactive := s.inactive, agenda := s.agenda
        tick := s.tick, free := s.free, order := s.order }
    | _ => s

/-- An address of tier-1 or tier-2 memory. -/
def isTier (a : BitVec 52) : Bool := regionOf a == .tier1 || regionOf a == .tier2

/-- Bytes of tier-1 and tier-2 memory put among others. -/
def putTiers : List (BitVec 52 × Byte) → List Host.Cell → List Host.Cell
  | [], m => m
  | c :: t, m => putTiers t (if isTier c.1 then SMap.set m c.1.toNat c.2 else m)

/-- Memory after a module reset: tier 1 and tier 2 are undefined; host memory is the host's. -/
def memoryAfterReset (i : Nat) (old : List Host.Cell) : List Host.Cell :=
  putTiers (Config.resetMemory i) (old.filter fun c => !isTier (BitVec.ofNat 52 c.1))

/-- A module reset: contexts, key grants and export table cleared; TIME, the device number and the repairs kept. -/
def State.moduleReset (s : State) : State :=
  let (i, s) := s.fresh
  { State.reset with
    time := s.time, slewedAt := s.slewedAt, cycles := s.cycles, device := s.device, mem := memoryAfterReset i s.mem
    uncorrectable := s.uncorrectable, msix := s.msix, replies := s.replies, firmware := s.firmware, inactive := s.inactive
    onHd1 := s.onHd1, images := s.images
    service := { Service.reset with
      repaired := s.service.repaired, rowRemaps := s.service.rowRemaps, channels := s.service.channels, lanes := s.service.lanes, spares := s.service.spares
      failed := s.service.failed }
    coreStart := (List.range 1024).foldl (fun (m : SMap 64) i => SMap.set m i s.cycles) []
    agenda := s.agenda, tick := s.tick, free := s.free, order := s.order }

/-- Whether the module has power. -/
def State.powered (s : State) : Bool := s.power != .off

/-- `PERST#`. -/
def execPerst (s : State) : Out := .next (if s.powered then s.moduleReset else s)
/-- The management RESET command. -/
def execModuleReset (s : State) : Out := .next (if s.powered then s.moduleReset else s)

/-- `UNDERVOLTAGE POWER-OFF`. -/
def execUndervoltagePowerOff (s : State) : Out := .next { s with power := .off }

/-! ## The Obsidian freeze (22 R354) -/

/-- A freeze with its cause. -/
def State.freezeFor (s : State) (cause : BitVec 2) : State := if s.power = .on then { s with power := .frozen cause } else s

/-- `THERMAL TRIP`: a freeze, then power-off, which is the next move (23 R357). -/
def execThermalTrip (s : State) : Out :=
  .next (if s.powered then { s.freezeFor 0 with agenda := .event .undervoltagePowerOff :: s.agenda } else s)

/-- The output OBSFRZ_OUT_N: low while the module is frozen. -/
def State.obsfrzOutN (s : State) : Bool := match s.power with | .frozen _ => false | _ => true

/-- The pin OBSFRZ_N driven low. -/
def execObsfrzN (s : State) : Out := .next (s.freezeFor 1)
/-- The management FREEZE command. -/
def execFreeze (s : State) : Out := .next (s.freezeFor 2)

/-- The state of the dies as it stands. -/
def State.readOut (s : State) : ReadOut :=
  { residents := s.residents, evicted := s.evicted, bands := s.bands, contexts := s.contexts, bank := s.bank, tlb := s.tlb
    dieTlb := s.dieTlb, tables := s.tables, recCache := s.recCache, faults := s.faults, watchCounts := s.watchCounts
    exports := s.exports, remoteHolders := s.remoteHolders, sinks := s.sinks, sampleSinks := s.sampleSinks, samplers := s.samplers
    service := s.service, device := s.device, down := s.down, msix := s.msix, reserving := s.reserving
    freeFrames := s.tier1Free ++ s.tier2Free, firmware := s.firmware, onHd1 := s.onHd1, lost := s.lost, coreStart := s.coreStart
    slewedAt := s.slewedAt, time := s.time, cycles := s.cycles }

/-- `FREEZE READ-OUT`: the cause word and the frozen state. -/
def execFreezeReadout (s : State) : Out :=
  .next <| match s.power with
    | .frozen c => s.reply (.frozen c s.readOut)
    | _ => s

/-! ## Throttles and sensors, which change timing only (23 R357, R364) -/

/-- `THERMAL THROTTLE`. -/
def execThermalThrottle (die : BitVec 3) (s : State) : Out :=
  .next { s with service := { s.service with slowDies := s.service.slowDies ||| BitVec.ofNat 8 (2 ^ die.toNat) } }

/-- `POWER-CAP THROTTLE`: one more 100 MHz step. -/
def execPowerCapThrottle (s : State) : Out :=
  let n := s.service.clockSteps
  .next { s with service := { s.service with clockSteps := if n = BitVec.allOnes 8 then n else n + 1 } }

/-- `POWER-CAP SET`: 1,500 to 4,800 W. -/
def execPowerCapSet (watts : BitVec 16) (s : State) : Out :=
  .next <|
    if 1500 ≤ watts.toNat && watts.toNat ≤ 4800 then { s with service := { s.service with powerCap := watts } } else s

/-- `SENSOR READ`: its value is free. -/
def execSensorRead (_sensor : BitVec 8) (s : State) : Out :=
  let (i, s) := s.fresh
  .next (s.reply (.sensor (Config.sensorValue i)))

/-! ## Firmware (23 R360) -/

/-- `FIRMWARE UPDATE`: the inactive copy written and verified; one that fails is never started. -/
def execFirmwareUpdate (image : W64) (signed : Bool) (s : State) : Out :=
  .next (({ s with inactive := if signed then some image else none }).reply (.image signed))

/-- `FIRMWARE ACTIVATION`: the standby starts the new image and takes over; nothing in flight is changed. -/
def execFirmwareActivation (s : State) : Out :=
  .next <| match s.inactive with
    | some i => { s with firmware := i, inactive := some s.firmware, onHd1 := !s.onHd1 }
    | none => s

/-! ## Device number, attestation and keys (16 R261, R270, R271) -/

/-- `DEVICE-NUMBER SET`. -/
def execDeviceNumberSet (n : BitVec 12) (s : State) : Out := .next { s with device := n }

/-- `SPDM REQUEST`. -/
def execSpdmRequest (measurements : Bool) (s : State) : Out :=
  .next <| s.reply <|
    if measurements then .measurements Config.bootRom s.firmware s.exports (s.contexts.map fun c => (c.vf, c.keys)) else .certificates

/-- `KEY INSTALL`: through a secured session only; a context named is granted the index. -/
def execKeyInstall (vf : BitVec 7) (index : BitVec 13) (key : BitVec 512) (session : Bool) (s : State) : Out :=
  .next <|
    if !session then s.reply (.keyInstalled false)
    else
      let store := (index, key) :: s.service.keyStore.filter fun x => x.1 != index
      let s := { s with service := { s.service with keyStore := store } }
      (s.updCtx vf fun c => { c with keys := if c.keys.contains index then c.keys else index :: c.keys }).reply (.keyInstalled true)

/-! ## Repairs, which programs do not see (23 R361) -/

/-- `HBM ROW REMAP`. -/
def execHbmRowRemap (stack : BitVec 4) (row spare : BitVec 32) (s : State) : Out :=
  .next { s with service := { s.service with rowRemaps := (stack, row, spare) :: s.service.rowRemaps } }

/-- LPDDR 6 channels, and ports of the fabric (00 R4, R5). -/
def lpddrChannels : Nat := 96
def fabricPorts : Nat := 12

/-- A leaf of a context's tables. -/
structure Leaf where
  vf : BitVec 7
  va : W64
  level : Nat
  pte : BitVec 128
  at_ : BitVec 52
  deriving DecidableEq, Repr

/-- The bit of a virtual address at which the index of a table of a level begins. -/
def indexBit (level : Nat) : Nat :=
  if level = 0 then 16 else if level = 1 then 21 else if level = 2 then 30 else if level = 3 then 39 else 48

/-- The valid leaves of a table of a level and of the tables under it. -/
def tableLeaves (mem : List Host.Cell) (vf : BitVec 7) : Nat → BitVec 52 → W64 → List Leaf
  | level, table, va =>
    (List.range (if level = 0 then 32 else 512)).flatMap fun i =>
      let at_ := table + BitVec.ofNat 52 (16 * i)
      let e := BitVec.ofNat 128 (ofBytes (SMap.getRange mem at_.toNat 16))
      let va := va ||| BitVec.ofNat 64 (i <<< indexBit level)
      if !pteV e then []
      else if pteLeaf e then (if leafOk level e then [{ vf, va, level, pte := e, at_ }] else [])
      else match level with
        | 0 => []
        | l + 1 => tableLeaves mem vf l (pteAddr e) va

/-- Whether a page has a byte in an LPDDR 6 channel. -/
def Leaf.inChannel (x : Leaf) (channel : BitVec 16) : Bool :=
  regionOf (pteAddr x.pte) == .tier2 &&
    (List.range (2 ^ pageBits x.level)).any fun i => (Config.lpddrChannel (pteAddr x.pte + BitVec.ofNat 52 i)).val == channel.toNat

/-- The pages of a channel, of every context. -/
def State.channelPages (s : State) (channel : BitVec 16) : List Leaf :=
  s.contexts.flatMap fun c => (tableLeaves s.mem c.vf 4 c.root 0).filter fun x => x.inChannel channel

/-- The leaves of a list that map the same frame as one, itself the first. -/
def Leaf.sharing (x : Leaf) (l : List Leaf) : List Leaf :=
  x :: l.filter fun y => y.level == x.level && pteAddr y.pte == pteAddr x.pte

/-- The entry of a leaf as it stands. -/
def State.leafNow (s : State) (x : Leaf) : BitVec 128 := BitVec.ofNat 128 (ofBytes (s.readPhys x.at_ 16))

/-- Pages moved by firmware into free tier-1 frames, as it moves a page touched (18 R285): those that a frame is free for and no access
still reaches. A frame that several leaves map is copied once, and each of them rewritten to the one new frame. -/
def State.evacuate : List Leaf → State → State
  | [], s => s
  | x :: t, s =>
    State.evacuate t <|
      match s.tier1Free.find? fun f => f.1.toNat == x.level with
      | none => s
      | some f =>
        if s.leafNow x ≠ x.pte || s.letThrough (pteAddr x.pte) (2 ^ pageBits x.level) then s
        else
          let s := (x.sharing t).foldl (fun s y => s.moveLeaf y.vf y.va y.level y.pte y.at_ f.2) (s.copyPage x.level x.pte f.2)
          { s with tier1Free := s.tier1Free.erase f, tier2Free := s.tier2Free ++ [(f.1, pteAddr x.pte)] }

/-- `CHANNEL RETRAIN`: an HBM channel whose traffic has moved to a spare channel of its stack is retrained or retired; an LPDDR 6
channel is retrained once its pages have been moved. -/
def execChannelRetrain (hbm : Bool) (channel : BitVec 16) (retire : Bool) (s : State) : Out :=
  let note (s : State) : State := { s with service := { s.service with channels := (hbm, channel, retire) :: s.service.channels } }
  .next <|
    if hbm then note s
    else if lpddrChannels ≤ channel.toNat then s
    else
      let s := State.evacuate (s.channelPages channel) s
      if (s.channelPages channel).isEmpty then note s else s

/-- `FABRIC LANE RETRAIN`: a port on 7 lanes until its spare lane is retrained. -/
def execFabricLaneRetrain (port : BitVec 4) (lane : BitVec 3) (retrained : Bool) (s : State) : Out :=
  let rest := s.service.lanes.filter fun x => x != (port, lane)
  .next <| if fabricPorts ≤ port.toNat then s else { s with service := { s.service with lanes := if retrained then rest else (port, lane) :: rest } }

end Sys2Proof.Machine
end

