-- ==== Sys2Proof/Machine/Dispatch.lean ====
section
/-!
DEFINITION. Sys2Proof/Machine/Dispatch.lean: the meaning of every instruction, one arm per constructor.
-/

namespace Sys2Proof.Machine

/-- What an instruction or a step of an agent does to the machine. -/
def exec (i : Instr) (s : State) : Host.Outcome State Fault Refusal :=
  match i with
  | .nop => Sys2Proof.Machine.execNop s
  | .exit => Sys2Proof.Machine.execExit s
  | .bra x1 => Sys2Proof.Machine.execBra x1 s
  | .brmAny x1 x2 x3 => Sys2Proof.Machine.execBrmAny x1 x2 x3 s
  | .brmAll x1 x2 x3 => Sys2Proof.Machine.execBrmAll x1 x2 x3 s
  | .brmNone x1 x2 x3 => Sys2Proof.Machine.execBrmNone x1 x2 x3 s
  | .brz x1 x2 x3 => Sys2Proof.Machine.execBrz x1 x2 x3 s
  | .brnz x1 x2 x3 => Sys2Proof.Machine.execBrnz x1 x2 x3 s
  | .call x1 x2 => Sys2Proof.Machine.execCall x1 x2 s
  | .ret x1 => Sys2Proof.Machine.execRet x1 s
  | .jmp x1 x2 => Sys2Proof.Machine.execJmp x1 x2 s
  | .join x1 => Sys2Proof.Machine.execJoin x1 s
  | .setm x1 => Sys2Proof.Machine.execSetm x1 s
  | .getm x1 => Sys2Proof.Machine.execGetm x1 s
  | .yield => Sys2Proof.Machine.execYield s
  | .yieldExpiry x1 x2 => Sys2Proof.Machine.execYieldExpiry x1 x2 s
  | .sleep x1 x2 x3 => Sys2Proof.Machine.execSleep x1 x2 x3 s
  | .sleepTimeout x1 x2 => Sys2Proof.Machine.execSleepTimeout x1 x2 s
  | .sleepEventWake x1 x2 => Sys2Proof.Machine.execSleepEventWake x1 x2 s
  | .sadd x1 x2 x3 x4 x5 => Sys2Proof.Machine.execSadd x1 x2 x3 x4 x5 s
  | .ssub x1 x2 x3 x4 x5 => Sys2Proof.Machine.execSsub x1 x2 x3 x4 x5 s
  | .smul x1 x2 x3 x4 x5 => Sys2Proof.Machine.execSmul x1 x2 x3 x4 x5 s
  | .smulh x1 x2 x3 x4 x5 => Sys2Proof.Machine.execSmulh x1 x2 x3 x4 x5 s
  | .sand x1 x2 x3 x4 x5 => Sys2Proof.Machine.execSand x1 x2 x3 x4 x5 s
  | .sor x1 x2 x3 x4 x5 => Sys2Proof.Machine.execSor x1 x2 x3 x4 x5 s
  | .sxor x1 x2 x3 x4 x5 => Sys2Proof.Machine.execSxor x1 x2 x3 x4 x5 s
  | .sshl x1 x2 x3 x4 x5 => Sys2Proof.Machine.execSshl x1 x2 x3 x4 x5 s
  | .sshr x1 x2 x3 x4 x5 => Sys2Proof.Machine.execSshr x1 x2 x3 x4 x5 s
  | .ssra x1 x2 x3 x4 x5 => Sys2Proof.Machine.execSsra x1 x2 x3 x4 x5 s
  | .smin x1 x2 x3 x4 x5 => Sys2Proof.Machine.execSmin x1 x2 x3 x4 x5 s
  | .smax x1 x2 x3 x4 x5 => Sys2Proof.Machine.execSmax x1 x2 x3 x4 x5 s
  | .sslt x1 x2 x3 x4 x5 => Sys2Proof.Machine.execSslt x1 x2 x3 x4 x5 s
  | .sseq x1 x2 x3 x4 x5 => Sys2Proof.Machine.execSseq x1 x2 x3 x4 x5 s
  | .spop x1 x2 x3 => Sys2Proof.Machine.execSpop x1 x2 x3 s
  | .sclz x1 x2 x3 => Sys2Proof.Machine.execSclz x1 x2 x3 s
  | .sffs x1 x2 x3 => Sys2Proof.Machine.execSffs x1 x2 x3 s
  | .saddi x1 x2 x3 => Sys2Proof.Machine.execSaddi x1 x2 x3 s
  | .sli x1 x2 => Sys2Proof.Machine.execSli x1 x2 s
  | .sliHi x1 x2 => Sys2Proof.Machine.execSliHi x1 x2 s
  | .rdsr x1 x2 => Sys2Proof.Machine.execRdsr x1 x2 s
  | .rdsrLane x1 => Sys2Proof.Machine.execRdsrLane x1 s
  | .wrsr x1 x2 => Sys2Proof.Machine.execWrsr x1 x2 s
  | .vcmpEq x1 x2 x3 x4 x5 => Sys2Proof.Machine.execVcmpEq x1 x2 x3 x4 x5 s
  | .vcmpNe x1 x2 x3 x4 x5 => Sys2Proof.Machine.execVcmpNe x1 x2 x3 x4 x5 s
  | .vcmpLt x1 x2 x3 x4 x5 => Sys2Proof.Machine.execVcmpLt x1 x2 x3 x4 x5 s
  | .vcmpLe x1 x2 x3 x4 x5 => Sys2Proof.Machine.execVcmpLe x1 x2 x3 x4 x5 s
  | .vcmpUn x1 x2 x3 x4 x5 => Sys2Proof.Machine.execVcmpUn x1 x2 x3 x4 x5 s
  | .mand x1 x2 x3 x4 x5 => Sys2Proof.Machine.execMand x1 x2 x3 x4 x5 s
  | .mor x1 x2 x3 x4 x5 => Sys2Proof.Machine.execMor x1 x2 x3 x4 x5 s
  | .mxor x1 x2 x3 x4 x5 => Sys2Proof.Machine.execMxor x1 x2 x3 x4 x5 s
  | .mnot x1 x2 x3 => Sys2Proof.Machine.execMnot x1 x2 x3 s
  | .mlive x1 => Sys2Proof.Machine.execMlive x1 s
  | .mexpand x1 x2 x3 => Sys2Proof.Machine.execMexpand x1 x2 x3 s
  | .add x1 x2 x3 x4 x5 => Sys2Proof.Machine.execAdd x1 x2 x3 x4 x5 s
  | .sub x1 x2 x3 x4 x5 => Sys2Proof.Machine.execSub x1 x2 x3 x4 x5 s
  | .min x1 x2 x3 x4 x5 => Sys2Proof.Machine.execMin x1 x2 x3 x4 x5 s
  | .max x1 x2 x3 x4 x5 => Sys2Proof.Machine.execMax x1 x2 x3 x4 x5 s
  | .mul x1 x2 x3 x4 x5 => Sys2Proof.Machine.execMul x1 x2 x3 x4 x5 s
  | .mulh x1 x2 x3 x4 x5 => Sys2Proof.Machine.execMulh x1 x2 x3 x4 x5 s
  | .div x1 x2 x3 x4 x5 => Sys2Proof.Machine.execDiv x1 x2 x3 x4 x5 s
  | .rem x1 x2 x3 x4 x5 => Sys2Proof.Machine.execRem x1 x2 x3 x4 x5 s
  | .fma x1 x2 x3 x4 x5 => Sys2Proof.Machine.execFma x1 x2 x3 x4 x5 s
  | .fms x1 x2 x3 x4 x5 => Sys2Proof.Machine.execFms x1 x2 x3 x4 x5 s
  | .fnma x1 x2 x3 x4 x5 => Sys2Proof.Machine.execFnma x1 x2 x3 x4 x5 s
  | .abs x1 x2 x3 => Sys2Proof.Machine.execAbs x1 x2 x3 s
  | .neg x1 x2 x3 => Sys2Proof.Machine.execNeg x1 x2 x3 s
  | .rnd x1 x2 x3 => Sys2Proof.Machine.execRnd x1 x2 x3 s
  | .not x1 x2 x3 => Sys2Proof.Machine.execNot x1 x2 x3 s
  | .and x1 x2 x3 x4 x5 => Sys2Proof.Machine.execAnd x1 x2 x3 x4 x5 s
  | .or x1 x2 x3 x4 x5 => Sys2Proof.Machine.execOr x1 x2 x3 x4 x5 s
  | .xor x1 x2 x3 x4 x5 => Sys2Proof.Machine.execXor x1 x2 x3 x4 x5 s
  | .shl x1 x2 x3 x4 x5 => Sys2Proof.Machine.execShl x1 x2 x3 x4 x5 s
  | .shr x1 x2 x3 x4 x5 => Sys2Proof.Machine.execShr x1 x2 x3 x4 x5 s
  | .sra x1 x2 x3 x4 x5 => Sys2Proof.Machine.execSra x1 x2 x3 x4 x5 s
  | .rol x1 x2 x3 x4 x5 => Sys2Proof.Machine.execRol x1 x2 x3 x4 x5 s
  | .popc x1 x2 x3 => Sys2Proof.Machine.execPopc x1 x2 x3 s
  | .clz x1 x2 x3 => Sys2Proof.Machine.execClz x1 x2 x3 s
  | .brev x1 x2 x3 => Sys2Proof.Machine.execBrev x1 x2 x3 s
  | .bfe x1 x2 x3 x4 x5 => Sys2Proof.Machine.execBfe x1 x2 x3 x4 x5 s
  | .bfi x1 x2 x3 x4 x5 => Sys2Proof.Machine.execBfi x1 x2 x3 x4 x5 s
  | .sel x1 x2 x3 x4 x5 => Sys2Proof.Machine.execSel x1 x2 x3 x4 x5 s
  | .mov x1 x2 x3 => Sys2Proof.Machine.execMov x1 x2 x3 s
  | .movs x1 x2 x3 => Sys2Proof.Machine.execMovs x1 x2 x3 s
  | .lid x1 => Sys2Proof.Machine.execLid x1 s
  | .li x1 x2 => Sys2Proof.Machine.execLi x1 x2 s
  | .addI x1 x2 x3 x4 => Sys2Proof.Machine.execAddI x1 x2 x3 x4 s
  | .mulI x1 x2 x3 x4 => Sys2Proof.Machine.execMulI x1 x2 x3 x4 s
  | .andI x1 x2 x3 x4 => Sys2Proof.Machine.execAndI x1 x2 x3 x4 s
  | .orI x1 x2 x3 x4 => Sys2Proof.Machine.execOrI x1 x2 x3 x4 s
  | .xorI x1 x2 x3 x4 => Sys2Proof.Machine.execXorI x1 x2 x3 x4 s
  | .shlI x1 x2 x3 x4 => Sys2Proof.Machine.execShlI x1 x2 x3 x4 s
  | .shrI x1 x2 x3 x4 => Sys2Proof.Machine.execShrI x1 x2 x3 x4 s
  | .sraI x1 x2 x3 x4 => Sys2Proof.Machine.execSraI x1 x2 x3 x4 s
  | .cvt x1 x2 x3 x4 => Sys2Proof.Machine.execCvt x1 x2 x3 x4 s
  | .pk8 x1 x2 x3 => Sys2Proof.Machine.execPk8 x1 x2 x3 s
  | .upk8 x1 x2 x3 => Sys2Proof.Machine.execUpk8 x1 x2 x3 s
  | .pk4 x1 x2 x3 => Sys2Proof.Machine.execPk4 x1 x2 x3 s
  | .upk4 x1 x2 x3 => Sys2Proof.Machine.execUpk4 x1 x2 x3 s
  | .pk6 x1 x2 x3 => Sys2Proof.Machine.execPk6 x1 x2 x3 s
  | .upk6 x1 x2 x3 => Sys2Proof.Machine.execUpk6 x1 x2 x3 s
  | .rcp x1 x2 x3 => Sys2Proof.Machine.execRcp x1 x2 x3 s
  | .rsq x1 x2 x3 => Sys2Proof.Machine.execRsq x1 x2 x3 s
  | .sqrt x1 x2 x3 => Sys2Proof.Machine.execSqrt x1 x2 x3 s
  | .exp2 x1 x2 x3 => Sys2Proof.Machine.execExp2 x1 x2 x3 s
  | .exp x1 x2 x3 => Sys2Proof.Machine.execExp x1 x2 x3 s
  | .log2 x1 x2 x3 => Sys2Proof.Machine.execLog2 x1 x2 x3 s
  | .log x1 x2 x3 => Sys2Proof.Machine.execLog x1 x2 x3 s
  | .sin2pi x1 x2 x3 => Sys2Proof.Machine.execSin2pi x1 x2 x3 s
  | .cos2pi x1 x2 x3 => Sys2Proof.Machine.execCos2pi x1 x2 x3 s
  | .tanh x1 x2 x3 => Sys2Proof.Machine.execTanh x1 x2 x3 s
  | .erf x1 x2 x3 => Sys2Proof.Machine.execErf x1 x2 x3 s
  | .permZ x1 x2 x3 x4 x5 => Sys2Proof.Machine.execPermZ x1 x2 x3 x4 x5 s
  | .permS x1 x2 x3 x4 x5 => Sys2Proof.Machine.execPermS x1 x2 x3 x4 x5 s
  | .bcast x1 x2 x3 x4 x5 => Sys2Proof.Machine.execBcast x1 x2 x3 x4 x5 s
  | .reduAdd x1 x2 x3 x4 x5 => Sys2Proof.Machine.execReduAdd x1 x2 x3 x4 x5 s
  | .reduMin x1 x2 x3 x4 x5 => Sys2Proof.Machine.execReduMin x1 x2 x3 x4 x5 s
  | .reduMax x1 x2 x3 x4 x5 => Sys2Proof.Machine.execReduMax x1 x2 x3 x4 x5 s
  | .scanAdd x1 x2 x3 x4 x5 => Sys2Proof.Machine.execScanAdd x1 x2 x3 x4 x5 s
  | .illegalWord x1 => Sys2Proof.Machine.execIllegalWord x1 s
  | .ld x1 x2 x3 x4 => Sys2Proof.Machine.execLd x1 x2 x3 x4 s
  | .st x1 x2 x3 x4 => Sys2Proof.Machine.execSt x1 x2 x3 x4 s
  | .ldS x1 x2 x3 x4 => Sys2Proof.Machine.execLdS x1 x2 x3 x4 s
  | .stS x1 x2 x3 x4 => Sys2Proof.Machine.execStS x1 x2 x3 x4 s
  | .ldW x1 x2 x3 x4 => Sys2Proof.Machine.execLdW x1 x2 x3 x4 s
  | .stW x1 x2 x3 x4 => Sys2Proof.Machine.execStW x1 x2 x3 x4 s
  | .ldAcq x1 x2 x3 x4 => Sys2Proof.Machine.execLdAcq x1 x2 x3 x4 s
  | .stRel x1 x2 x3 x4 => Sys2Proof.Machine.execStRel x1 x2 x3 x4 s
  | .ldC x1 x2 x3 x4 => Sys2Proof.Machine.execLdC x1 x2 x3 x4 s
  | .ldK x1 x2 x3 x4 => Sys2Proof.Machine.execLdK x1 x2 x3 x4 s
  | .stF x1 x2 x3 x4 => Sys2Proof.Machine.execStF x1 x2 x3 x4 s
  | .feSet x1 x2 => Sys2Proof.Machine.execFeSet x1 x2 s
  | .feClr x1 x2 => Sys2Proof.Machine.execFeClr x1 x2 s
  | .feRd x1 x2 => Sys2Proof.Machine.execFeRd x1 x2 s
  | .cpA x1 x2 x3 x4 => Sys2Proof.Machine.execCpA x1 x2 x3 x4 s
  | .cpB x1 x2 x3 x4 => Sys2Proof.Machine.execCpB x1 x2 x3 x4 s
  | .gth x1 x2 x3 => Sys2Proof.Machine.execGth x1 x2 x3 s
  | .waitc x1 x2 x3 => Sys2Proof.Machine.execWaitc x1 x2 x3 s
  | .cnt x1 x2 x3 => Sys2Proof.Machine.execCnt x1 x2 x3 s
  | .barInit x1 x2 x3 x4 => Sys2Proof.Machine.execBarInit x1 x2 x3 x4 s
  | .barExp x1 x2 x3 x4 => Sys2Proof.Machine.execBarExp x1 x2 x3 x4 s
  | .barArr x1 x2 x3 => Sys2Proof.Machine.execBarArr x1 x2 x3 s
  | .barWait x1 x2 x3 x4 => Sys2Proof.Machine.execBarWait x1 x2 x3 x4 s
  | .barSync x1 x2 x3 => Sys2Proof.Machine.execBarSync x1 x2 x3 s
  | .fence x1 => Sys2Proof.Machine.execFence x1 s
  | .pf x1 x2 x3 x4 => Sys2Proof.Machine.execPf x1 x2 x3 x4 s
  | .cinv x1 x2 x3 => Sys2Proof.Machine.execCinv x1 x2 x3 s
  | .cinvAll => Sys2Proof.Machine.execCinvAll s
  | .atomAdd x1 x2 x3 x4 => Sys2Proof.Machine.execAtomAdd x1 x2 x3 x4 s
  | .atomMin x1 x2 x3 x4 => Sys2Proof.Machine.execAtomMin x1 x2 x3 x4 s
  | .atomMax x1 x2 x3 x4 => Sys2Proof.Machine.execAtomMax x1 x2 x3 x4 s
  | .atomAnd x1 x2 x3 x4 => Sys2Proof.Machine.execAtomAnd x1 x2 x3 x4 s
  | .atomOr x1 x2 x3 x4 => Sys2Proof.Machine.execAtomOr x1 x2 x3 x4 s
  | .atomXor x1 x2 x3 x4 => Sys2Proof.Machine.execAtomXor x1 x2 x3 x4 s
  | .atomXchg x1 x2 x3 x4 => Sys2Proof.Machine.execAtomXchg x1 x2 x3 x4 s
  | .atomCas x1 x2 x3 x4 => Sys2Proof.Machine.execAtomCas x1 x2 x3 x4 s
  | .redAdd x1 x2 x3 x4 => Sys2Proof.Machine.execRedAdd x1 x2 x3 x4 s
  | .redMin x1 x2 x3 x4 => Sys2Proof.Machine.execRedMin x1 x2 x3 x4 s
  | .redMax x1 x2 x3 x4 => Sys2Proof.Machine.execRedMax x1 x2 x3 x4 s
  | .bankMx x1 x2 x3 x4 => Sys2Proof.Machine.execBankMx x1 x2 x3 x4 s
  | .bankSup x1 x2 x3 x4 => Sys2Proof.Machine.execBankSup x1 x2 x3 x4 s
  | .bankVadd x1 x2 x3 x4 => Sys2Proof.Machine.execBankVadd x1 x2 x3 x4 s
  | .chunk x1 x2 x3 x4 => Sys2Proof.Machine.execChunk x1 x2 x3 x4 s
  | .bankOperationPerform x1 x2 x3 => Sys2Proof.Machine.execBankOperationPerform x1 x2 x3 s
  | .recLd x1 x2 => Sys2Proof.Machine.execRecLd x1 x2 s
  | .recSt x1 x2 => Sys2Proof.Machine.execRecSt x1 x2 s
  | .recInv x1 x2 => Sys2Proof.Machine.execRecInv x1 x2 s
  | .recSet x1 x2 x3 => Sys2Proof.Machine.execRecSet x1 x2 x3 s
  | .recGet x1 x2 x3 => Sys2Proof.Machine.execRecGet x1 x2 x3 s
  | .cbld x1 => Sys2Proof.Machine.execCbld x1 s
  | .tld x1 x2 x3 => Sys2Proof.Machine.execTld x1 x2 x3 s
  | .tldf x1 x2 x3 => Sys2Proof.Machine.execTldf x1 x2 x3 s
  | .tst x1 x2 x3 => Sys2Proof.Machine.execTst x1 x2 x3 s
  | .tstf x1 x2 x3 => Sys2Proof.Machine.execTstf x1 x2 x3 s
  | .tmm x1 x2 x3 => Sys2Proof.Machine.execTmm x1 x2 x3 s
  | .tmms x1 x2 x3 => Sys2Proof.Machine.execTmms x1 x2 x3 s
  | .tadd x1 x2 x3 => Sys2Proof.Machine.execTadd x1 x2 x3 s
  | .tsub x1 x2 x3 => Sys2Proof.Machine.execTsub x1 x2 x3 s
  | .tz x1 x2 => Sys2Proof.Machine.execTz x1 x2 s
  | .tcp x1 x2 => Sys2Proof.Machine.execTcp x1 x2 s
  | .tscl x1 x2 x3 => Sys2Proof.Machine.execTscl x1 x2 x3 s
  | .ttr x1 x2 => Sys2Proof.Machine.execTtr x1 x2 s
  | .trnd x1 => Sys2Proof.Machine.execTrnd x1 s
  | .tlr x1 => Sys2Proof.Machine.execTlr x1 s
  | .tden x1 => Sys2Proof.Machine.execTden x1 s
  | .tlu x1 x2 => Sys2Proof.Machine.execTlu x1 x2 s
  | .ttrsmL x1 x2 x3 => Sys2Proof.Machine.execTtrsmL x1 x2 x3 s
  | .ttrsmU x1 x2 => Sys2Proof.Machine.execTtrsmU x1 x2 s
  | .tchol x1 => Sys2Proof.Machine.execTchol x1 s
  | .tmmM x1 x2 x3 => Sys2Proof.Machine.execTmmM x1 x2 x3 s
  | .tv x1 x2 x3 => Sys2Proof.Machine.execTv x1 x2 x3 s
  | .vt x1 x2 x3 => Sys2Proof.Machine.execVt x1 x2 x3 s
  | .tsal x1 x2 => Sys2Proof.Machine.execTsal x1 x2 s
  | .tsalNw x1 x2 => Sys2Proof.Machine.execTsalNw x1 x2 s
  | .tsfr x1 x2 => Sys2Proof.Machine.execTsfr x1 x2 s
  | .tinfo x1 x2 => Sys2Proof.Machine.execTinfo x1 x2 s
  | .tls x1 => Sys2Proof.Machine.execTls x1 s
  | .tsalGrant x1 x2 => Sys2Proof.Machine.execTsalGrant x1 x2 s
  | .tsalRefusal x1 x2 => Sys2Proof.Machine.execTsalRefusal x1 x2 s
  | .tileRetirement x1 x2 x3 => Sys2Proof.Machine.execTileRetirement x1 x2 x3 s
  | .madd x1 x2 x3 x4 x5 => Sys2Proof.Machine.execMadd x1 x2 x3 x4 x5 s
  | .msub x1 x2 x3 x4 x5 => Sys2Proof.Machine.execMsub x1 x2 x3 x4 x5 s
  | .mmul x1 x2 x3 x4 x5 => Sys2Proof.Machine.execMmul x1 x2 x3 x4 x5 s
  | .mfma x1 x2 x3 x4 x5 => Sys2Proof.Machine.execMfma x1 x2 x3 x4 x5 s
  | .mscl x1 x2 x3 x4 x5 => Sys2Proof.Machine.execMscl x1 x2 x3 x4 x5 s
  | .mexp x1 x2 x3 => Sys2Proof.Machine.execMexp x1 x2 x3 s
  | .mrelu x1 x2 x3 => Sys2Proof.Machine.execMrelu x1 x2 x3 s
  | .msig x1 x2 x3 => Sys2Proof.Machine.execMsig x1 x2 x3 s
  | .mset x1 x2 x3 => Sys2Proof.Machine.execMset x1 x2 x3 s
  | .mcol x1 x2 x3 => Sys2Proof.Machine.execMcol x1 x2 x3 s
  | .mvar x1 x2 x3 => Sys2Proof.Machine.execMvar x1 x2 x3 s
  | .mld x1 x2 x3 x4 => Sys2Proof.Machine.execMld x1 x2 x3 x4 s
  | .mst x1 x2 x3 x4 => Sys2Proof.Machine.execMst x1 x2 x3 x4 s
  | .launch x1 x2 => Sys2Proof.Machine.execLaunch x1 x2 s
  | .qpush x1 x2 x3 => Sys2Proof.Machine.execQpush x1 x2 x3 s
  | .qpop x1 x2 => Sys2Proof.Machine.execQpop x1 x2 s
  | .qpopClaim x1 x2 => Sys2Proof.Machine.execQpopClaim x1 x2 s
  | .qflush x1 => Sys2Proof.Machine.execQflush x1 s
  | .done x1 => Sys2Proof.Machine.execDone x1 s
  | .pmtGet x1 x2 x3 => Sys2Proof.Machine.execPmtGet x1 x2 x3 s
  | .pmtRet x1 x2 => Sys2Proof.Machine.execPmtRet x1 x2 s
  | .trap x1 => Sys2Proof.Machine.execTrap x1 s
  | .rte => Sys2Proof.Machine.execRte s
  | .rqN x1 => Sys2Proof.Machine.execRqN x1 s
  | .rqRd x1 x2 => Sys2Proof.Machine.execRqRd x1 x2 s
  | .rqWr x1 x2 => Sys2Proof.Machine.execRqWr x1 x2 s
  | .rqDrop x1 => Sys2Proof.Machine.execRqDrop x1 s
  | .elog x1 => Sys2Proof.Machine.execElog x1 s
  | .brk => Sys2Proof.Machine.execBrk s
  | .trapEntry x1 => Sys2Proof.Machine.execTrapEntry x1 s
  | .wpSet x1 x2 x3 => Sys2Proof.Machine.execWpSet x1 x2 x3 s
  | .wpClr x1 => Sys2Proof.Machine.execWpClr x1 s
  | .wpClrAll => Sys2Proof.Machine.execWpClrAll s
  | .wpSt x1 x2 => Sys2Proof.Machine.execWpSt x1 x2 s
  | .wpStLog x1 => Sys2Proof.Machine.execWpStLog x1 s
  | .dbgHalt x1 x2 x3 => Sys2Proof.Machine.execDbgHalt x1 x2 x3 s
  | .dbgGo x1 x2 x3 => Sys2Proof.Machine.execDbgGo x1 x2 x3 s
  | .dbgStep x1 x2 => Sys2Proof.Machine.execDbgStep x1 x2 s
  | .dbgRd x1 x2 x3 => Sys2Proof.Machine.execDbgRd x1 x2 x3 s
  | .dbgWr x1 x2 x3 => Sys2Proof.Machine.execDbgWr x1 x2 x3 s
  | .dbgWrF x1 x2 x3 => Sys2Proof.Machine.execDbgWrF x1 x2 x3 s
  | .dbgLs x1 x2 => Sys2Proof.Machine.execDbgLs x1 x2 s
  | .trMark x1 x2 => Sys2Proof.Machine.execTrMark x1 x2 s
  | .watchLoadValueEvaluation x1 => Sys2Proof.Machine.execWatchLoadValueEvaluation x1 s
  | .producerCompletion x1 x2 x3 => Sys2Proof.Machine.execProducerCompletion x1 x2 x3 s
  | .storePerform x1 x2 x3 => Sys2Proof.Machine.execStorePerform x1 x2 x3 s
  | .copyLanding x1 x2 x3 x4 => Sys2Proof.Machine.execCopyLanding x1 x2 x3 x4 s
  | .gatherEntryLanding x1 x2 x3 => Sys2Proof.Machine.execGatherEntryLanding x1 x2 x3 s
  | .splitPromotion x1 x2 => Sys2Proof.Machine.execSplitPromotion x1 x2 s
  | .groupMoveOut x1 => Sys2Proof.Machine.execGroupMoveOut x1 s
  | .groupMoveIn x1 => Sys2Proof.Machine.execGroupMoveIn x1 s
  | .groupRetirement x1 => Sys2Proof.Machine.execGroupRetirement x1 s
  | .launchCompletion x1 x2 => Sys2Proof.Machine.execLaunchCompletion x1 x2 s
  | .launchAcceptance x1 x2 => Sys2Proof.Machine.execLaunchAcceptance x1 x2 s
  | .gangAdmission x1 x2 x3 => Sys2Proof.Machine.execGangAdmission x1 x2 x3 s
  | .bandAdmission x1 x2 x3 x4 x5 x6 => Sys2Proof.Machine.execBandAdmission x1 x2 x3 x4 x5 x6 s
  | .candidateReservation x1 => Sys2Proof.Machine.execCandidateReservation x1 s
  | .gangEviction x1 => Sys2Proof.Machine.execGangEviction x1 s
  | .gangWake x1 => Sys2Proof.Machine.execGangWake x1 s
  | .triggerDecision x1 x2 => Sys2Proof.Machine.execTriggerDecision x1 x2 s
  | .flushTimerExpiry x1 x2 => Sys2Proof.Machine.execFlushTimerExpiry x1 x2 s
  | .migrateOnTouchService x1 x2 x3 => Sys2Proof.Machine.execMigrateOnTouchService x1 x2 x3 s
  | .faultBufferRetry x1 x2 => Sys2Proof.Machine.execFaultBufferRetry x1 x2 s
  | .remoteAccess x1 => Sys2Proof.Machine.execRemoteAccess x1 s
  | .remoteQpush x1 x2 => Sys2Proof.Machine.execRemoteQpush x1 x2 s
  | .remotePermit x1 x2 => Sys2Proof.Machine.execRemotePermit x1 x2 s
  | .remotePermitReturn x1 x2 => Sys2Proof.Machine.execRemotePermitReturn x1 x2 s
  | .fabricDown x1 => Sys2Proof.Machine.execFabricDown x1 s
  | .timeAlignment x1 => Sys2Proof.Machine.execTimeAlignment x1 s
  | .hostCxlMemAccess x1 x2 x3 x4 => Sys2Proof.Machine.execHostCxlMemAccess x1 x2 x3 x4 s
  | .traceTs x1 => Sys2Proof.Machine.execTraceTs x1 s
  | .sample x1 x2 x3 => Sys2Proof.Machine.execSample x1 x2 x3 s
  | .lqtail x1 x2 => Sys2Proof.Machine.execLqtail x1 x2 s
  | .ctxctlReset x1 x2 => Sys2Proof.Machine.execCtxctlReset x1 x2 s
  | .cbimg x1 x2 => Sys2Proof.Machine.execCbimg x1 x2 s
  | .registerWrite x1 x2 => Sys2Proof.Machine.execRegisterWrite x1 x2 s
  | .fqhead x1 x2 => Sys2Proof.Machine.execFqhead x1 x2 s
  | .frespResume x1 x2 x3 => Sys2Proof.Machine.execFrespResume x1 x2 x3 s
  | .frespRefuse x1 x2 x3 => Sys2Proof.Machine.execFrespRefuse x1 x2 x3 s
  | .invalPage x1 x2 => Sys2Proof.Machine.execInvalPage x1 x2 s
  | .invalAll x1 => Sys2Proof.Machine.execInvalAll x1 s
  | .capture x1 => Sys2Proof.Machine.execCapture x1 s
  | .restore x1 x2 => Sys2Proof.Machine.execRestore x1 x2 s
  | .resume x1 => Sys2Proof.Machine.execResume x1 s
  | .discard x1 => Sys2Proof.Machine.execDiscard x1 s
  | .logon x1 => Sys2Proof.Machine.execLogon x1 s
  | .logoff x1 => Sys2Proof.Machine.execLogoff x1 s
  | .dmHalt x1 x2 => Sys2Proof.Machine.execDmHalt x1 x2 s
  | .dmGo x1 x2 => Sys2Proof.Machine.execDmGo x1 x2 s
  | .dmStep x1 => Sys2Proof.Machine.execDmStep x1 s
  | .dmRd x1 x2 => Sys2Proof.Machine.execDmRd x1 x2 s
  | .dmWr x1 x2 => Sys2Proof.Machine.execDmWr x1 x2 s
  | .dmWrF x1 x2 => Sys2Proof.Machine.execDmWrF x1 x2 s
  | .coreRetirement x1 x2 => Sys2Proof.Machine.execCoreRetirement x1 x2 s
  | .softErrorReexecution x1 x2 => Sys2Proof.Machine.execSoftErrorReexecution x1 x2 s
  | .powerOn x1 => Sys2Proof.Machine.execPowerOn x1 s
  | .perst => Sys2Proof.Machine.execPerst s
  | .moduleReset => Sys2Proof.Machine.execModuleReset s
  | .obsfrzN => Sys2Proof.Machine.execObsfrzN s
  | .freeze => Sys2Proof.Machine.execFreeze s
  | .freezeReadout => Sys2Proof.Machine.execFreezeReadout s
  | .undervoltagePowerOff => Sys2Proof.Machine.execUndervoltagePowerOff s
  | .thermalTrip => Sys2Proof.Machine.execThermalTrip s
  | .thermalThrottle x1 => Sys2Proof.Machine.execThermalThrottle x1 s
  | .powerCapThrottle => Sys2Proof.Machine.execPowerCapThrottle s
  | .powerCapSet x1 => Sys2Proof.Machine.execPowerCapSet x1 s
  | .sensorRead x1 => Sys2Proof.Machine.execSensorRead x1 s
  | .firmwareUpdate x1 x2 => Sys2Proof.Machine.execFirmwareUpdate x1 x2 s
  | .firmwareActivation => Sys2Proof.Machine.execFirmwareActivation s
  | .deviceNumberSet x1 => Sys2Proof.Machine.execDeviceNumberSet x1 s
  | .spdmRequest x1 => Sys2Proof.Machine.execSpdmRequest x1 s
  | .keyInstall x1 x2 x3 x4 => Sys2Proof.Machine.execKeyInstall x1 x2 x3 x4 s
  | .hbmRowRemap x1 x2 x3 => Sys2Proof.Machine.execHbmRowRemap x1 x2 x3 s
  | .channelRetrain x1 x2 x3 => Sys2Proof.Machine.execChannelRetrain x1 x2 x3 s
  | .fabricLaneRetrain x1 x2 x3 => Sys2Proof.Machine.execFabricLaneRetrain x1 x2 x3 s
  | .contextDestruction x1 => Sys2Proof.Machine.execContextDestruction x1 s
  | .bankRegionReservation x1 x2 x3 => Sys2Proof.Machine.execBankRegionReservation x1 x2 x3 s

end Sys2Proof.Machine
end

