-- ==== Sys2Proof/Machine/Settle.lean ====
section
/-!
DEFINITION. Sys2Proof/Machine/Settle.lean: what holds of every state between two moves: which splits are ready, since when gangs are
wholly blocked, and which evicted gangs are woken (14 R242 to R244, 18 R283).
-/

namespace Sys2Proof.Machine

/-- A split of the group in focus, with what keeps it from being ready as a try of its next instruction on a copy of the machine shows
it: a running split whose instruction would block is blocked by the same, and one that would wait for a held access is parked. -/
def State.retestSplit (s : State) (k : BitVec 2) (x : Split) : Split :=
  if x.isFree || x.held || x.st != .running then x
  else
    let t := { s with k := k, stepping := none, grp := { s.grp with inActive := true } }
    if !t.canIssue then { x with blk := .other }
    else if !t.grp.due.isEmpty then { x with blk := .no }
    else match t.fetch with
      | .stop _ => { x with blk := .no }
      | .word w u =>
        match exec (instrOf w) u with
        | .next v =>
          let y := v.grp.splits.get k
          if v.self != s.self || y.pc != x.pc || y.issued != x.issued then { x with blk := .no }
          else match y.st with
            | .running => { x with blk := y.blk }
            | .parked va false => { x with st := .parked va false, blk := .no }
            | _ => { x with blk := .no }
        | _ => { x with blk := .no }

/-- A split that is not ready has no age and is not promoted (14 R242). -/
def Split.ageless (x : Split) : Split := { x with age := 0, promoted := none }

/-- The splits of a group that are not ready, those of its stack and frame among them, without age; a group with a ready split begins to
count anew the cycles without one (14 R241, R242). -/
def Group.noteReady (g : Group) : Group :=
  let f (x : Split) : Split := if g.inActive && g.alive && x.ready then x else x.ageless
  { g with
    splits := g.splits.map f, overflow := g.overflow.map Split.ageless
    frame := { g.frame with splits := g.frame.splits.map Split.ageless, stack := g.frame.stack.map Split.ageless }
    idle := if g.ready.isEmpty then g.idle else 0, wasReady := g.wasReady || !g.ready.isEmpty }

/-- The group in focus so. -/
def State.retestGroup (s : State) : Group :=
  let g := s.grp
  Group.noteReady { g with splits :=
      { e0 := s.retestSplit 0 g.splits.e0, e1 := s.retestSplit 1 g.splits.e1, e2 := s.retestSplit 2 g.splits.e2
        e3 := s.retestSplit 3 g.splits.e3 } }

/-- A group of a gang, as `retestGroup` makes it. -/
def State.retestIn (s : State) (r : Gang) (g : Group) : Group :=
  match s.focus { gang := r.ref, group := g.idx } with
  | some t => t.retestGroup
  | none => g

/-- Every resident group so. -/
def State.retest (s : State) : State :=
  { s with
    grp := s.retestGroup, peers := s.peers.map (s.retestIn s.gang)
    others := s.others.map fun (r : Resident) => { r with groups := r.groups.map (s.retestIn r.gang) } }

/-- A state as a move leaves it. -/
def State.settle (s : State) : State := s.retest.noteBlocked.noteWakes

/-- An outcome with its state settled. -/
def settled : Host.Outcome State Fault Refusal → Host.Outcome State Fault Refusal
  | .next s => .next s.settle
  | o => o

/-- A debug step's instruction, tried again after each shared record that the core had to fetch for it. -/
def stepInstr (i : Instr) : Nat → State → Host.Outcome State Fault Refusal
  | 0, s => .next s
  | n + 1, s =>
    match exec i s with
    | .next v => if v.stepping = some 15 then stepInstr i n { v with stepping := some 0 } else .next v
    | o => o

/-- What a step of a split that is not running does at once, with its status: a sleep that has ended, or what a split waited for while
it was held, is written and the split goes on (22 R343, R336). -/
def State.stepWaiting (s : State) : Option (State × W64) :=
  match s.sp.st with
  | .running => none
  | .asleep _ _ _ =>
    match s.sp.woke with
    | some v => some (s.wake s.k v, 0)
    | none => some (s, 1)
  | .passed d v =>
    let s1 := match d with | some r => s.writeS r v | none => s
    some (s1.updSp Split.goOn, 0)
  | .waiting _ _ | .atBarrier _ _ => some (s, 2)
  | _ => some (s, 1)

end Sys2Proof.Machine
end

