-- ==== Sys2Proof/Machine/Step.lean ====
section
/-!
DEFINITION. Sys2Proof/Machine/Step.lean: one step of the machine: the next move, and for a split the fetch, decoding and
execution of its next instruction.
-/

namespace Sys2Proof.Machine

/-- The split in focus issues: a trap that is due is taken first; else its word is fetched, decoded and executed. -/
def issueMove (s : State) : Host.Outcome State Fault Refusal :=
  if !s.canIssue then .next s
  else if !s.grp.due.isEmpty then .next s.takeDue
  else match s.fetch with
    | .stop s1 => .next s1
    | .word w s1 => exec (instrOf w) s1

/-- A debug step of the lane's held split in focus: its instruction issues alone, and the status is written
(22 R343). -/
def stepMove (g : GroupRef) (lane : BitVec 6) (agent : Option (GroupRef × BitVec 6)) (s : State) :
    Host.Outcome State Fault Refusal :=
  match s.focus g with
  | none => .next (s.stepStatus g agent 5)
  | some t =>
    match t.grp.splitOf lane.toNat with
    | none => .next (t.stepStatus g agent 5)
    | some k =>
      let t := { t with k := k, stepping := some 0 }
      let back (u : State) (status : W64) : Host.Outcome State Fault Refusal :=
        .next (({ u with stepping := none }).stepStatus g agent status)
      if !t.sp.held then back t 3
      else match t.stepWaiting with
        | some (u, status) => back u status
        | none =>
          match t.fetch with
          | .stop u => back u (if u.grp.frame.active || u.grp.killed then 0 else 1)
          | .word w u =>
            if needsOthers (instrOf w) then back t 2
            else if !u.canIssue || !u.grp.due.isEmpty then back t 1
            else match stepInstr (instrOf w) 8 u with
              | .next v => back v ((v.stepping.getD 0).setWidth 64)
              | o => o

/-- One move of the machine. -/
def move (m : Move) (s : State) : Host.Outcome State Fault Refusal :=
  match m with
  | .issue g k => match s.focus g with | none => .next s | some t => issueMove { t with k := k }
  | .stepLane g lane agent => stepMove g lane agent s
  | .event i => if isEvent i then exec i s else .next s
  | .pass ns cycles lost => .next (s.pass ns cycles lost)
  | .dropTlb vf die core va => .next (s.dropTlb vf die core va)
  | .dropDie vf die va => .next (s.dropDie vf die va)
  | .uncorrectable line => .next (s.spoil line)
  | .spoilBank line => .next (s.spoilBank line)
  | .spoilGmem g line => .next (s.spoilGmem g line)
  | .spoilTile g record => .next (s.spoilTile g record)
  | .saveWrite vf offset b => .next (s.saveWrite vf offset b)
  | .repairFile die core active backing => .next (s.repairFile die core active backing)
  | .loadBank vf a b => .next (s.loadBank vf a b)
  | .returned vf device => .next (s.returned vf device)
  | .barRead vf offset => .next (s.reply (.register (s.barWord vf offset)))
  | .regRead r => .next (s.reply (.register (s.regWord r)))
  | .hostStore pa b => .next (s.hostStore pa b)
  | .giveFrame level pa => .next (s.giveFrame level pa)

/-- One step: a move, after which the state is settled. A frozen module makes no move but resets, read-out and what its management
port does, which runs from standby power where the module has none (22 R354, 23 R356, R358, R364). -/
def step (s : State) : Host.Outcome State Fault Refusal :=
  let (m, t) := s.nextMove
  match s.power with
  | .on => settled (move m t)
  | .frozen _ => if actsFrozen m then settled (move m t) else .next t
  | .off => if actsAlways m then settled (move m t) else .next t

/-! ## Placing an instruction where the next step fetches it -/

/-- A gang of one group of 16 lanes with every register declared, its split at address 0x1_0000. -/
def State.startGroup (s : State) : State :=
  let lrec := { LaunchRec.blank with gangs := 1, vregs := 15, mregs := 3, gmem := 65536, code := 0x10000, lfmt := 1 }
  let back := if s.gang.present then [({ gang := s.gang, groups := s.grp :: s.peers } : Resident)] else []
  let sp := { Split.free with pc := 0x10000, mask := 0xFFFF }
  { s with
    gang := { Gang.blank with present := true, vf := 1, seq := 1, lrec := lrec }
    grp := { Group.blank with live := 0xFFFF, splits := { SplitTable.empty with e0 := sp }, inActive := true }
    k := 0, peers := [], others := back ++ s.others }

/-- The state with an instruction word where its next step fetches it: at the PC of the split in focus (a group is started
where none is resident), in a page of its own that a cached translation maps, the split being the next to move. -/
def State.withFetchWord (s : State) (nbits w : Nat) : State :=
  let s := if s.gang.present && !s.sp.isFree then s else s.startGroup
  let pc := s.sp.pc
  let frame : BitVec 52 := 0x100000
  let pte : BitVec 128 := (0x1F0#128 <<< 64) ||| (frame.setWidth 128) ||| 3
  let at_ : BitVec 52 := 0x80000
  let s := s.updCtx s.gang.vf fun c => if c.keys.contains 0 then c else { c with keys := 0 :: c.keys }
  let s := s.writePhys at_ (toBytes 16 pte.toNat)
  let s := s.writePhys (frame + BitVec.ofNat 52 (pc.toNat % 65536)) (toBytes 4 (w % 2 ^ nbits))
  { s with
    tlb := { vf := s.gang.vf, die := s.gang.die, core := s.gang.core, page := pageOf pc, level := 0, pte, pteAddr := at_ } :: s.tlb
    agenda := .issue s.self s.k :: s.agenda }

end Sys2Proof.Machine
end

