-- ==== Sys2Proof/Safety.lean ====
section
/-!
DEFINITION. Sys2Proof/Safety.lean: what counts as a safe run, and the terms claims are stated in: what an instruction leaves
as it was.
-/

namespace Sys2Proof

/-- A run of n steps that neither stops nor leaves the canonical form of memory. -/
def SafeRun (n : Nat) (s : Machine.State) : Prop := ∃ t, core.run n s = .next t ∧ t.memWf = true

namespace Machine

/-! ## What stays as it was -/

/-- Every byte of physical memory, of bank memory and of the gang's memory reads as before. -/
def State.SameBytes (s t : State) : Prop :=
  (∀ a, SMap.get t.mem a = SMap.get s.mem a) ∧ (∀ a, SMap.get t.bank a = SMap.get s.bank a) ∧
    ∀ a, SMap.get t.gang.gmem a = SMap.get s.gang.gmem a

/-- Nothing but registers and splits of the group in focus differs: no flag, special, control or exception register, no
other group, no memory. -/
def State.OnlyRegs (s t : State) : Prop :=
  t = { s with grp := { s.grp with v := t.grp.v, s := t.grp.s, m := t.grp.m, splits := t.grp.splits } }

/-- Nothing but registers, splits and flags of the group in focus, its records that wait for the log, the log of its context, and what a
failing write of that log makes due, differs. -/
def State.OnlyArith (s t : State) : Prop :=
  t = { s with
    grp := { s.grp with v := t.grp.v, s := t.grp.s, m := t.grp.m, splits := t.grp.splits, aef := t.grp.aef, logs := t.grp.logs, due := t.grp.due }
    contexts := t.contexts }

/-- The executing split stands at an address with an instruction issued, else as before, one more instruction counted after each
operation that is still outstanding (22 R334); the other splits as before. -/
def State.StandsAt (s t : State) (pc : W64) : Prop :=
  t.k = s.k ∧
    t.sp = { s.sp with
      pc := pc, issued := s.sp.issued + 1, issuedAt := s.cycles + 1, age := 0, promoted := none, skipPc := none, joined := none,
      blk := .no, skids := t.sp.skids } ∧
    (∀ id n, id < s.grp.nextId → ((id, n + 1) ∈ t.sp.skids ↔ (id, n) ∈ s.sp.skids ∧ t.grp.outstanding.any (fun e => e.id == id) = true)) ∧
    ∀ j, j ≠ s.k → t.grp.splits.get j = s.grp.splits.get j

/-- The scalar registers are as before, but for those named. -/
def State.SameS (s t : State) (but : List (BitVec 6)) : Prop := ∀ r, r ∉ but → t.readS r = s.readS r

/-- The vector registers are as before, but for those named. -/
def State.SameV (s t : State) (but : List Nat) : Prop :=
  ∀ r l, l < 64 → r ∉ but → t.grp.vreg r l = s.grp.vreg r l

/-- The moment registers are as before, but for those named. -/
def State.SameM (s t : State) (but : List Nat) : Prop :=
  ∀ r l, l < 64 → r ∉ but → t.grp.mreg r l = s.grp.mreg r l

/-! ## How an instruction of registers completes -/

/-- It goes on at the next instruction; sD, where it is not s0, has the value, and nothing else of the machine changes. -/
def DoneS (s : State) (o : Out) (d : BitVec 6) (v : W64) : Prop :=
  ∃ t, o = .next t ∧ t.readS d = (if d = 0 then 0 else v) ∧ s.SameS t [d] ∧ s.SameV t [] ∧ s.SameM t [] ∧
    s.StandsAt t (s.sp.pc + 4) ∧ s.OnlyRegs t ∧ s.SameBytes t

/-- It goes on at the next instruction; vD has the value of its lane in each active lane and keeps its own in the others,
and nothing else of the machine changes. -/
def DoneV (s : State) (o : Out) (d : Nat) (f : Nat → W32) : Prop :=
  ∃ t, o = .next t ∧ (∀ l, l < 64 → t.grp.vreg d l = if s.active.getLsbD l then f l else s.grp.vreg d l) ∧
    s.SameS t [] ∧ s.SameV t [d] ∧ s.SameM t [] ∧ s.StandsAt t (s.sp.pc + 4) ∧ s.OnlyRegs t ∧ s.SameBytes t

/-- It goes to an address and changes nothing else of the machine. -/
def Goes (s : State) (o : Out) (pc : W64) : Prop :=
  ∃ t, o = .next t ∧ s.SameS t [] ∧ s.SameV t [] ∧ s.SameM t [] ∧ s.StandsAt t pc ∧ s.OnlyRegs t ∧ s.SameBytes t

/-- So for a comparison: sD receives a mask whose bit L says whether lane L is active and its relation holds. -/
def DoneMask (s : State) (o : Out) (d : BitVec 6) (rel : Nat → Bool) : Prop :=
  ∃ v : Mask, (∀ l, l < 64 → v.getLsbD l = (s.active.getLsbD l && rel l)) ∧ DoneS s o d v

/-- A typed vector instruction completes: in each active lane, element j of the destination is what an operation gives for
the operands of lane and element, and the others keep their values; AEF gains the flags of those operations and no other,
nothing is logged where they log nothing, nothing falls due where the save area takes the log, and else nothing of the machine changes (05 R68, R70, R71, 10 R170). -/
def DoneElems (s : State) (o : Out) (d : BitVec 7) (op : Nat → Nat → Res) : Prop :=
  ∃ t, o = .next t ∧
    (∀ l, l < 64 → s.active.getLsbD l = true → ∀ j, j < perReg (typeBits s.ty) →
      elem (typeBits s.ty) (t.lane s.ty d l) j = (op l j).val % 2 ^ typeBits s.ty) ∧
    (∀ l, l < 64 → s.active.getLsbD l = false → t.lane s.ty d l = s.lane s.ty d l) ∧
    s.SameV t (if is64 s.ty then [d.toNat, d.toNat + 1] else [d.toNat]) ∧ s.SameS t [] ∧ s.SameM t [] ∧
    (∀ i, i < 64 → (t.grp.aef.getLsbD i = true ↔ s.grp.aef.getLsbD i = true ∨
      ∃ l j, l < 64 ∧ s.active.getLsbD l = true ∧ j < perReg (typeBits s.ty) ∧ (op l j).rep.fl.getLsbD i = true)) ∧
    ((∀ l j, l < 64 → s.active.getLsbD l = true → j < perReg (typeBits s.ty) → (op l j).rep.lg = 0) →
      t.contexts = s.contexts ∧ t.grp.logs = s.grp.logs ∧ t.grp.due = s.grp.due) ∧
    (s.saveFault .elog = 0 → t.grp.due = s.grp.due) ∧
    s.StandsAt t (s.sp.pc + 4) ∧ s.OnlyArith t ∧ s.SameBytes t

/-- No watch predicate looks at the exception flags of the group in focus (22 R332). -/
def State.FlagsQuiet (s : State) : Prop := s.selected [4] = []

/-- A scalar result of lanes taken together completes as a typed instruction does: sD, where it is not s0, has the value, AEF gains
the flags raised and no other, and nothing falls due where the save area takes the log (05 R71, R101). -/
def DoneSum (s : State) (o : Out) (d : BitVec 6) (v : W64) (raises : Nat → Prop) : Prop :=
  ∃ t, o = .next t ∧ t.readS d = (if d = 0 then 0 else v) ∧ s.SameS t [d] ∧ s.SameV t [] ∧ s.SameM t [] ∧
    (∀ i, i < 64 → (t.grp.aef.getLsbD i = true ↔ s.grp.aef.getLsbD i = true ∨ raises i)) ∧
    (s.saveFault .elog = 0 → t.grp.due = s.grp.due) ∧ s.StandsAt t (s.sp.pc + 4) ∧ s.OnlyArith t ∧ s.SameBytes t

/-! ## Float numbers (10 R163, R164, R168) -/

/-- The magnitude of a code of mb fraction bits in units of the least number of its format; of a code beyond the largest, as if the
exponent went on. -/
def codeUnits (mb c : Nat) : Nat := if c < 2 ^ mb then c else (2 ^ mb + c % 2 ^ mb) * 2 ^ (c / 2 ^ mb - 1)

/-- The number of w bits, mb of them fraction, in units of the least number of its format. -/
def units (w mb x : Nat) : Int :=
  if x / 2 ^ (w - 1) % 2 = 1 then -(codeUnits mb (x % 2 ^ (w - 1)) : Int) else codeUnits mb (x % 2 ^ (w - 1))

/-- The number 1 in units of the least number of the format. -/
def oneUnits (w mb : Nat) : Nat := 2 ^ (2 ^ (w - mb - 2) - 2 + mb)

/-- Bits that stand for a finite number of the format whose largest has the code top. -/
def isFinite (w top x : Nat) : Prop := x < 2 ^ w ∧ x % 2 ^ (w - 1) ≤ top

/-- The direction in which a mode rounds magnitudes: 0 to the nearest, 1 towards zero, 2 away from it. -/
def direction (rm : BitVec 2) (neg : Bool) : Nat :=
  match rm.toNat with | 0 => 0 | 1 => 1 | 2 => if neg then 1 else 2 | _ => if neg then 2 else 1

/-- Z / D units, rounded as if the exponent had no upper bound, exceed the largest finite number. -/
def overflows (mb top : Nat) (rm : BitVec 2) (Z D : Int) : Prop :=
  match direction rm (Z < 0) with
  | 0 => (codeUnits mb top + codeUnits mb (top + 1) : Int) * D < 2 * (Z.natAbs : Int) ∨
      ((codeUnits mb top + codeUnits mb (top + 1) : Int) * D = 2 * (Z.natAbs : Int) ∧ top % 2 = 1)
  | 1 => (codeUnits mb (top + 1) : Int) * D ≤ Z.natAbs
  | _ => (codeUnits mb top : Int) * D < Z.natAbs

/-- Z / D units, rounded as if the exponent had no lower bound, are not zero and less than the least normal number. -/
def isTiny (mb : Nat) (rm : BitVec 2) (Z D : Int) : Prop :=
  Z ≠ 0 ∧ match direction rm (Z < 0) with
  | 0 => 4 * (Z.natAbs : Int) < (4 * (2 : Int) ^ mb - 1) * D
  | 1 => (Z.natAbs : Int) < (2 : Int) ^ mb * D
  | _ => 2 * (Z.natAbs : Int) ≤ (2 * (2 : Int) ^ mb - 1) * D

/-- The finite number v is Z / D units rounded: to the nearest, of two as near to the one of even code; towards zero; up; down. -/
def nearest (w mb top : Nat) (rm : BitVec 2) (v : Nat) (Z D : Int) : Prop :=
  let U (x : Nat) : Int := units w mb x
  isFinite w top v ∧ 0 ≤ U v * Z ∧
  match rm.toNat with
  | 0 => ∀ y, isFinite w top y → (U v * D - Z).natAbs ≤ (U y * D - Z).natAbs ∧
      ((U v * D - Z).natAbs = (U y * D - Z).natAbs → U y ≠ U v → v % 2 = 0)
  | 1 => ((U v).natAbs : Int) * D ≤ Z.natAbs ∧
      ∀ y, isFinite w top y → ((U y).natAbs : Int) * D ≤ Z.natAbs → (U y).natAbs ≤ (U v).natAbs
  | 2 => Z ≤ U v * D ∧ ∀ y, isFinite w top y → Z ≤ U y * D → U v ≤ U y
  | _ => U v * D ≤ Z ∧ ∀ y, isFinite w top y → U y * D ≤ Z → U y ≤ U v

/-- A result that does not overflow: the number rounded, with the flags it raises, and no record. -/
def roundsFinite (w mb top : Nat) (rm : BitVec 2) (r : Res) (Z D : Int) : Prop :=
  nearest w mb top rm r.val Z D ∧ (Z ≠ 0 → (r.val / 2 ^ (w - 1) % 2 = 1 ↔ Z < 0)) ∧ r.rep.lg = 0 ∧
  (units w mb r.val * D = Z → r.rep.fl = 0) ∧
  (units w mb r.val * D ≠ Z → (isTiny mb rm Z D → r.rep.fl = 0b011000) ∧ (¬isTiny mb rm Z D → r.rep.fl = 0b010000))

/-- A result of a type with infinities is the exact Z / D units rounded once: beyond the largest number an infinity or the largest, as
the mode rounds, with OF, NX and a record of OVERFLOW; else the number rounded, with UF and NX, or NX, where it is not the exact one
(05 R70, 10 R168). -/
def roundsOnce (w mb : Nat) (rm : BitVec 2) (r : Res) (Z D : Int) : Prop :=
  let top := 2 ^ (w - 1) - 2 ^ mb - 1
  (¬overflows mb top rm Z D → roundsFinite w mb top rm r Z D) ∧
  (overflows mb top rm Z D →
    r = ⟨(if Z < 0 then 2 ^ (w - 1) else 0) + (if direction rm (Z < 0) = 1 then top else top + 1), ⟨0b010100, 0b00010⟩⟩)

/-- The width, the fraction bits and the code of the largest number of a float type (10 R163, R164). -/
def shape (t : BitVec 5) : Option (Nat × Nat × Nat) :=
  match t.toNat with
  | 8 => some (32, 23, 0x7F7FFFFF)
  | 9 => some (64, 52, 0x7FEFFFFFFFFFFFFF)
  | 10 => some (16, 10, 0x7BFF)
  | 11 => some (16, 7, 0x7F7F)
  | 12 => some (8, 3, 0x7E)
  | 13 => some (8, 2, 0x7B)
  | 14 => some (6, 2, 0x1F)
  | 15 => some (6, 3, 0x1F)
  | 16 => some (4, 1, 0x07)
  | _ => none

/-- The bits are the number Z / D of a type, below zero or minus zero where neg: an integer, a finite float number, or a power of two
of e8m0 (10 R163 to R166). -/
def isNumber (t : BitVec 5) (x : Nat) (neg : Bool) (Z D : Int) : Prop :=
  match shape t with
  | some (w, mb, top) => isFinite w top x ∧ (neg = true ↔ 2 ^ (w - 1) ≤ x) ∧ Z = units w mb x ∧ D = oneUnits w mb
  | none =>
    if t.toNat ≤ 7 then
      x < 2 ^ typeBits t ∧ D = 1 ∧ (neg = true ↔ Z < 0) ∧
        Z = if t.toNat % 2 = 0 ∧ 2 ^ (typeBits t - 1) ≤ x then (x : Int) - (2 : Int) ^ typeBits t else x
    else x < 255 ∧ neg = false ∧ Z = (2 : Int) ^ x ∧ D = (2 : Int) ^ 127

/-- The bits are an infinity of a type that has them. -/
def isInfinite (t : BitVec 5) (x : Nat) (neg : Bool) : Prop :=
  (t.toNat ≤ 11 ∨ t = 13) ∧
    match shape t with
    | some (w, _, top) => x = (if neg then 2 ^ (w - 1) else 0) + top + 1
    | none => False

/-- The bits are a NaN of a type that has them. -/
def isNaN (t : BitVec 5) (x : Nat) : Prop :=
  match shape t with
  | some (w, _, top) => t.toNat ≤ 13 ∧ x < 2 ^ w ∧ (if t = 12 then top else top + 1) < x % 2 ^ (w - 1)
  | none => t = 17 ∧ x = 255

/-- The integral number a mode rounds Z / D to. -/
def integral (rm : BitVec 2) (Z D : Int) : Int :=
  match rm.toNat with
  | 0 => if 2 * (Z % D) < D ∨ (2 * (Z % D) = D ∧ Z / D % 2 = 0) then Z / D else Z / D + 1
  | 1 => Z.tdiv D
  | 2 => -(-Z / D)
  | _ => Z / D

/-- The number v ≥ 0 is √(P / D) units rounded, and the report says whether it is that root. -/
def rootsOnce (w top mb : Nat) (rm : BitVec 2) (r : Res) (P D : Int) : Prop :=
  let R : Int := units w mb r.val
  r.val ≤ top ∧ r.rep = (if R * R * D = P then Rep.none else Rep.inexact) ∧
  ∀ y, y ≤ top →
    let Y : Int := units w mb y
    match rm.toNat with
    | 0 => (R < Y → 4 * P ≤ (R + Y) * (R + Y) * D) ∧ (Y < R → (R + Y) * (R + Y) * D ≤ 4 * P)
    | 2 => P ≤ R * R * D ∧ (P ≤ Y * Y * D → R ≤ Y)
    | _ => R * R * D ≤ P ∧ (Y * Y * D ≤ P → Y ≤ R)

/-! ## Tile arithmetic (10 R179, 11 R185, R199) -/

/-- acc ← RN(±u(t) × v(t) + acc), for t from 0 to n − 1. -/
def rnSum (F : Fmt) (neg : Bool) (u v : Nat → Nat) (acc n : Nat) : Nat :=
  (List.range n).foldl (fun z t => (F.fma 0 false neg false (u t) (v t) z).val) acc

/-- A step of that sum raises flag f; beside an accumulator that is NaN nothing is raised (log 64). -/
def rnRaises (F : Fmt) (neg : Bool) (u v : Nat → Nat) (acc n f : Nat) : Prop :=
  ∃ t, t < n ∧ F.value (rnSum F neg u v acc t) ≠ .nan ∧
    (F.fma 0 false neg false (u t) (v t) (rnSum F neg u v acc t)).rep.fl.getLsbD f = true

/-- Element t of column j. -/
def Cols.elem (m : Cols) (t j : Nat) : Nat := Vec.at (Cols.at m j) t

/-- r columns of n elements. -/
def Cols.sized (m : Cols) (n r : Nat) : Prop := m.size = r ∧ ∀ j, j < r → (Cols.at m j).size = n

/-- The value of a computation, without what its steps raise. -/
def Calc.value (c : Calc α) : α := (c.run Rep.none).1

/-- A result is dense, of the elements given in C's valid region and +0 elsewhere. -/
def TileOut.gives (o : TileOut) (c : Opnd) (x : Nat → Nat → Nat) : Prop :=
  ∃ els, o.val = some (.dense els []) ∧
    ∀ i j, i < 64 → j < 64 → els.get (64 * i + j) = BitVec.ofNat 64 (if c.inside i j then x i j else 0)

/-- A result is low-rank, of r columns of elements U and V. -/
def TileOut.givesCols (o : TileOut) (r : Nat) (u v : Nat → Nat → Nat) : Prop :=
  o.rank = r ∧ ∃ fu fv, o.val = some (.lowRank fu fv) ∧
    ∀ t j, t < 64 → j < r → fu.get (64 * j + t) = BitVec.ofNat 64 (u t j) ∧ fv.get (64 * j + t) = BitVec.ofNat 64 (v t j)

/-- A result raises flag f where the report given has it or, for an element of C's valid region, the condition holds, and else not. -/
def TileOut.raises (o : TileOut) (c : Opnd) (rep : Rep) (p : Nat → Nat → Nat → Prop) : Prop :=
  ∀ f, f < 6 → (o.rep.fl.getLsbD f = true ↔ rep.fl.getLsbD f = true ∨ ∃ i j, c.inside i j = true ∧ p i j f)

/-- A vector of n entries with its entries exchanged by pivot words, in order (12 R219). -/
def exchanged (piv : List Nat) (n : Nat) (x : Nat → Nat) : Nat → Nat :=
  (List.range n).foldl (fun y k =>
    let q := piv.getD k 0 % 64
    fun t => if k < q ∧ q < n ∧ t = k then y q else if k < q ∧ q < n ∧ t = q then y k else y t) x

/-- An order of r columns: by descending norm, of equal norms the lower column first (11 R202). -/
def downwards (σ : Nat → Nat) (r : Nat) (π : List Nat) : Prop :=
  π.Perm (List.range r) ∧ ∀ i j, i < j → j < r →
    σ (π.getD j 0) < σ (π.getD i 0) ∨ (σ (π.getD j 0) = σ (π.getD i 0) ∧ π.getD i 0 < π.getD j 0)

/-- n is what TRUNC keeps of r norms in the order π: by exact sums of their squares where all are finite (11 R201). -/
def truncates (w mb : Nat) (rkm : BitVec 2) (rkt : Nat) (σ : Nat → Nat) (r : Nat) (π : List Nat) (n : Nat) : Prop :=
  let tail (k : Nat) : Nat := ((π.drop k).map fun j => codeUnits mb (σ j) ^ 2).sum
  let bound := if rkm = 0 then tail 0 else oneUnits w mb ^ 2
  n ≤ r ∧ (rkm = 2 → n = min r rkt) ∧
  (rkm ≠ 2 → (∀ j, j < r → σ j ≤ 2 ^ (w - 1) - 2 ^ mb - 1) → tail n * 4 ^ rkt ≤ bound ∧ ∀ k, k < n → bound < tail k * 4 ^ rkt)

/-! ## How an operation goes to memory -/

/-- The context of the group in focus has no watch predicate armed (22 R329). -/
def State.Unwatched (s : State) : Prop := (s.ctx s.gang.vf).watch = []

/-- A register that carries a full and empty bit: s0 does not (04 R45). -/
def Reg.real : Reg → Bool
  | .v r => r < 128
  | .s r => r != 0
  | .m r => r < 32

/-- What of an access its instruction decides: lane, space, address, bytes. -/
def Acc.where_ (a : Acc) : Nat × Place × W64 × Nat := (a.lane, a.place, a.addr, a.n)

/-- An operation of the executing split goes in flight with its operands captured, and its split goes on at the next
instruction: it holds the records as they are, the scalars given, the lanes of the registers given, and the accesses given;
its destination is empty from here on; it is counted where a class is given. Of the group nothing else changes but what a
cause at once makes due, of the machine nothing but what translation does to pages, logs and fault records, and no byte of
memory where no access is virtual (04 R45, 06 R111, R123, 18 R281, R291). -/
def Sent (s : State) (o : Out) (op : MemOp) (dest : Dest) (recs : List (BitVec 10)) (scal : List W64) (blks : List (Nat → W32))
    (accs : List Acc) (cls : Option (BitVec 3)) : Prop :=
  ∃ t e, o = .next t ∧ e ∈ t.grp.flight ∧ (∀ x, x ∈ s.grp.flight → x ∈ t.grp.flight) ∧
    (∀ x, x ∈ t.grp.flight → x = e ∨ x ∈ s.grp.flight) ∧
    e.id = s.grp.nextId ∧ e.op = op ∧ e.dest = dest ∧ e.pc = s.sp.pc ∧ e.split = s.k ∧ e.mask = s.sp.mask ∧
    e.active = s.active ∧ e.mode = s.mode ∧ e.done = 0 ∧ e.cancelled = [] ∧ e.landed = [] ∧
    e.recs = recs ∧ e.snaps = recs.map s.record ∧ e.scal = scal ∧ e.blocks.length = blks.length ∧
    (∀ (j l : Nat) (f : Nat → W32), blks[j]? = some f → l < 64 → e.blk j l = f l) ∧
    e.accs.map Acc.where_ = accs.map Acc.where_ ∧
    (∀ r, t.grp.isEmpty r = (s.grp.isEmpty r || (dest.regs.contains r && r.real))) ∧
    t.grp.counters = s.grp.counters ++ (match cls with | some c => [{ cls := c, id := s.grp.nextId, done := false }] | none => []) ∧
    t.grp = { s.grp with
      flight := t.grp.flight, nextId := s.grp.nextId + 1, splits := t.grp.splits, due := t.grp.due
      vEmpty := t.grp.vEmpty, sEmpty := t.grp.sEmpty, mEmpty := t.grp.mEmpty, counters := t.grp.counters } ∧
    (e.err = 0 → t.grp.due = s.grp.due) ∧
    s.StandsAt t (s.sp.pc + 4) ∧ t.gang = s.gang ∧ t.peers = s.peers ∧ t.others = s.others ∧ t.bank = s.bank ∧
    ((∀ a, a ∈ accs → a.place ≠ .virt) → s.SameBytes t ∧ t.contexts = s.contexts ∧ e.err = 0 ∧ e.held = none)

/-- A memory instruction on one record: a check of the record that fails traps precisely, the base named where it is
misaligned; so does a lane whose bytes may not be reached, with its cause and address; else the operation is sent
(06 R107 to R109). -/
def Accesses (s : State) (o : Out) (op : MemOp) (dest : Dest) (r : BitVec 10) (scal : List W64) (blks : List (Nat → W32))
    (chk : Option (BitVec 9)) (accs : Chk (List Acc)) (cls : Option (BitVec 3)) : Prop :=
  match chk with
  | some c => o = .next (s.trapRec c (s.record r))
  | none => match accs with
    | .error f => o = .next (s.trapVa f.1 f.2)
    | .ok l => Sent s o op dest [r] scal blks l cls

/-- The size of an element of record N, in bytes. -/
def State.elemSize (s : State) (r : BitVec 10) : Nat := (esize (bufFmt (s.record r))).getD 1

/-- The accesses of the active lanes to elements of record N at the indexes in a vector register (06 R114). -/
def State.byLane (s : State) (r : BitVec 10) (a : BitVec 7) : Chk (List Acc) :=
  s.laneAccs (s.record r) (s.elemSize r) (s.elemSize r)
    (s.lanes.map fun l => (l, (s.grp.vreg a.toNat l).toNat * s.elemSize r))

/-- The one access of a split to an element of record N (06 R115). -/
def State.bySplit (s : State) (r : BitVec 10) (x : W64) : Chk (List Acc) :=
  s.laneAccs (s.record r) (s.elemSize r) (s.elemSize r) [(lowestBit s.sp.mask, x.toNat * s.elemSize r)]

/-! ## How an operation is performed -/

/-- The bytes of an access as memory holds them. -/
def State.look (s : State) (a : Acc) : List Byte :=
  match a.place with
  | .nowhere => List.replicate a.n 0
  | .gmem => SMap.getRange s.gang.gmem a.addr.toNat a.n
  | .bank => SMap.getRange s.bank a.addr.toNat a.n
  | .virt => SMap.getRange s.mem a.pa.toNat a.n

/-- The lines of n bytes were last written under a key, where one is named, or under none (16 R270). -/
def State.KeyFits (s : State) (key : Option (BitVec 13)) (a n : Nat) : Prop :=
  ∀ (line : BitVec 46) (k : BitVec 13), key = some k → lineMeets line.toNat a n = true →
    s.lineKey line = none ∨ s.lineKey line = some (s.keyBits k)

/-- An access that memory of this module serves: no other module's, no mirrored page, no line under another key, and no
uncorrectable line. -/
def State.Serves (s : State) (a : Acc) : Prop :=
  match a.place with
  | .virt => regionOf a.pa ≠ .fabric ∧ a.via.mirror = false ∧ s.uncorrectable.contains (lineOf a.pa) = false ∧
      a.pa.toNat % 64 + a.n ≤ 64 ∧ s.KeyFits a.via.key a.pa.toNat a.n
  | .bank => a.addr.toNat < 2 ^ 29 ∧ s.badBank = []
  | .gmem => s.gang.badGmem = []
  | .nowhere => True

/-- An operation in flight of the group in focus, none of whose lanes is performed and none of which waits or fails; no predicate of
the watch has looked at it, and no record for the log and no trigger decision of the group waits for another operation. -/
def State.Performable (s : State) (id : Nat) (e : Entry) : Prop :=
  s.gang.present = true ∧ s.captured s.gang.vf = false ∧ s.grp.entry id = some e ∧ e.err = 0 ∧ e.held = none ∧ e.done = 0 ∧
    e.cancelled = [] ∧ e.shut = (0, 0) ∧ e.watch = [] ∧ e.fired = [] ∧ s.grp.logs = [] ∧ s.grp.flushes = [] ∧
    (∀ a, a ∈ e.accs → s.mayPerform e a = true ∧ s.Serves a ∧ a.lane < 64) ∧
    (e.accs.map (·.lane)).Nodup

/-- The group in focus but for its registers, their full and empty bits and an operation that leaves. -/
def State.OnlyLanded (s t : State) (id : Nat) : Prop :=
  t.grp = { s.grp with
      v := t.grp.v, s := t.grp.s, m := t.grp.m, vEmpty := t.grp.vEmpty, sEmpty := t.grp.sEmpty, mEmpty := t.grp.mEmpty
      flight := s.grp.flight.filter fun x => x.id != id } ∧
    t.peers = s.peers ∧ t.others = s.others ∧ t.k = s.k ∧ t.contexts = s.contexts

/-! ## Traps, and what other modules reach -/

/-- The state after a trap is taken by a gang with a handler (18 R289, R290). -/
def State.Entered (s t : State) (cause : BitVec 9) (kind : BitVec 2) (pc : W64) (splits : SplitTable) : Prop :=
  t.grp.frame.active = true ∧ t.grp.frame.cause = cause ∧ t.grp.frame.tkind = kind ∧ t.grp.frame.pc = pc ∧
    t.grp.frame.split = s.k ∧ t.grp.frame.mask = s.sp.mask ∧ t.grp.frame.splits = splits ∧
    t.grp.frame.stack = s.grp.overflow ∧
    (t.grp.splits.get 0).pc = s.gang.tvec ∧ (t.grp.splits.get 0).mask = s.grp.live ∧ (t.grp.splits.get 0).mode = 0 ∧
    (t.grp.splits.get 0).st = .running ∧ (∀ j, j ≠ 0 → (t.grp.splits.get j).isFree = true) ∧ t.grp.overflow = [] ∧
    t.grp.due = s.grp.due.filter (·.kills) ∧ t.grp.frame.first = s.grp.nextId ∧ t.grp.rq.length ≤ 16 ∧ t.grp.live = s.grp.live ∧ s.SameS t [] ∧ s.SameV t [] ∧ s.SameM t [] ∧ s.SameBytes t ∧ t.gang = s.gang ∧
    (∀ e, e ∈ s.grp.flight → e ∈ t.grp.flight ∨ (e ∈ s.stuck ∧ (e ∈ t.grp.rq ∨ e ∈ t.grp.behind))) ∧
    (∀ e, e ∈ t.grp.flight → e ∈ s.grp.flight ∧ e.withCore = false)

/-- Bytes behind a reach. -/
def State.behind (s : State) (r : Reach) (n : Nat) : List Byte :=
  match r with
  | .bank a => SMap.getRange s.bank a.toNat n
  | .phys pa _ => SMap.getRange s.mem pa.toNat n

/-- Nothing but n bytes behind a reach, and the answers, differs. -/
def State.OnlyBehind (s t : State) (r : Reach) (n : Nat) : Prop :=
  t = { s with mem := t.mem, bank := t.bank, replies := t.replies, lineKeys := t.lineKeys } ∧
    match r with
    | .bank a => t.mem = s.mem ∧ t.lineKeys = s.lineKeys ∧ ∀ x, x < a.toNat ∨ a.toNat + n ≤ x → SMap.get t.bank x = SMap.get s.bank x
    | .phys pa _ => t.bank = s.bank ∧ ∀ x, x < pa.toNat ∨ pa.toNat + n ≤ x → SMap.get t.mem x = SMap.get s.mem x

end Machine

end Sys2Proof
end

