-- ==== Sys2Proof/Certificates/Slice0/Obligations.lean ====
section
/-!
DEFINITION. Sys2Proof/Certificates/Slice0/Obligations.lean: what is claimed of the machine.
-/

open Sys2Proof Sys2Proof.Machine

/-! ## Encoding -/

/-- Decoding the word of any instruction, every operand at any value its field holds and the instruction accepts, gives
that instruction (04 R56 to R61). -/
def Obligations.EncodeThenDecode : Prop :=
  ∀ (i : Instr) (w : W32), i.WellFormed → encode i = some w → decode w = some i

/-- A word that decodes is the one word of its instruction, whose operands are all accepted: no two words mean one
instruction, and no field is dropped (04 R58, R61). -/
def Obligations.DecodeThenEncode : Prop :=
  ∀ (w : W32) (i : Instr), decode w = some i → i.WellFormed ∧ encode i = some w

/-- Words written out from the strips of the spec decode to the instructions they stand for, and unused fields that are not
zero make a word illegal (04 R56 to R61). -/
def Obligations.DecodeWords : Prop :=
  decode 0x50080010 = some (.add 2 0 1 0 0) ∧ decode 0x06380003 = some (.brmAny 7 0 3) ∧
  decode 0x0E3BFFFA = some (.brnz 7 0 (-6)) ∧ decode 0x880C1000 = some (.cvt 3 2 0 0) ∧
  decode 0xA00C0200 = some (.ld 3 2 0 0) ∧ decode 0xDC181416 = some (.tmm 12 10 11) ∧
  decode 0xB8200408 = some (.cpA 8 1 2 0) ∧ decode 0xC200A010 = some (.barSync 5 1 0) ∧
  decode 0xF940092C = some (.qpop 40 300) ∧ decode 0xFA000005 = some (.trap 5) ∧
  decode 0xF0100820 = some (.madd 4 1 2 0 0) ∧ decode 0xFC03E000 = some (.wpSet 0 31 0) ∧
  decode 0x391C1852 = none ∧ decode 0x00000001 = none ∧ decode 0xFFFFFFFF = none

/-! ## A step -/

/-- Where the next move is the issue of a split that may issue and has no trap due, step is exec of the instruction its
fetched word decodes to, at the state the fetch leaves, with the state then settled; a word that is no instruction runs as the
permanently illegal one; a split that may not issue changes nothing but in settling. Settling notes what keeps splits and gangs
from going on, the cycles without a ready split, the age of what is not ready, and which evicted gangs are woken: it changes no
register, no byte of memory, no counter and no context (04 R55, R61, 14 R241, R242, 18 R288; which move is next is the model's choice,
log 1). -/
def Obligations.StepRunsDecodedInstruction : Prop :=
  (∀ (s s1 t : State) (g : GroupRef) (k : BitVec 2),
    s.power = .on → s.nextMove = (.issue g k, s1) → s1.focus g = some t →
    (({ t with k := k }).canIssue = false → step s = .next ({ t with k := k }).settle) ∧
    (({ t with k := k }).canIssue = true → t.grp.due = [] → ∀ (w : W32) (u : State),
      ({ t with k := k }).fetch = .word w u →
      (∀ i, decode w = some i → i.WellFormed ∧ step s = settled (exec i u) ∧ ∀ v, exec i u = .next v → step s = .next v.settle) ∧
      (decode w = none → step s = settled (exec (.illegalWord false) u)))) ∧
  ∀ s : State,
    s.SameS s.settle [] ∧ s.SameV s.settle [] ∧ s.SameM s.settle [] ∧ s.SameBytes s.settle ∧ s.settle.k = s.k ∧
    s.settle.contexts = s.contexts ∧ s.settle.time = s.time ∧ s.settle.cycles = s.cycles ∧ s.settle.agenda = s.agenda ∧
    s.settle.grp = { s.grp with
      splits := s.settle.grp.splits, overflow := s.grp.overflow.map Split.ageless
      frame := { s.grp.frame with
        splits := s.grp.frame.splits.map Split.ageless, stack := s.grp.frame.stack.map Split.ageless }
      idle := s.settle.grp.idle, wasReady := s.settle.grp.wasReady } ∧
    ∀ j, (s.settle.grp.splits.get j).pc = (s.grp.splits.get j).pc ∧ (s.settle.grp.splits.get j).mask = (s.grp.splits.get j).mask ∧
      (s.settle.grp.splits.get j).mode = (s.grp.splits.get j).mode ∧ (s.settle.grp.splits.get j).held = (s.grp.splits.get j).held

/-- A fetch whose PC translates to memory of the module with a good line, written last under the key of its page, reads the four
bytes there, the byte at the lowest address least significant (00 R8, 04 R55, 18 R275); one of an unmirrored page whose line cannot
be corrected traps MEM_UNCORR (23 R363; a bad line of a mirrored page, which its copy may mend, and a line under another key, are left
out here); one whose page traps takes that trap at the instruction, with the address, after a SYNC that is due; one whose page must be
filled parks the split and leaves its PC (18 R282, R283, 22 R349).
A module without power makes no move but its power-on and what its management port does from standby power; a frozen module
only its resets, its loss of power, by a thermal trip too, its read-out and what the port does; every other move leaves all but the
model's own place among the moves as it is (22 R354, 23 R356 to R359, R364). -/
def Obligations.FetchAndPower : Prop :=
  (∀ (s t : State),
     (∀ pa m, s.translate s.gang.vf s.coreId s.sp.pc .fetch = (.ok pa m, t) → regionOf pa ≠ .fabric →
       (t.uncorrectable.contains (lineOf pa) = false → pa.toNat % 64 ≤ 60 → t.KeyFits m.key pa.toNat 4 →
         s.fetch = .word (wordOfBytes (t.readPhys pa 4)) t) ∧
       (t.uncorrectable.contains (lineOf pa) = true → m.mirror = false →
         s.fetch = .stop (({ t with replies := t.replies ++ [Reply.uncorrectable (lineOf pa)] }).traceSync.trapVa cMEM_UNCORR s.sp.pc))) ∧
     (∀ c, s.translate s.gang.vf s.coreId s.sp.pc .fetch = (.trap c, t) → s.fetch = .stop (t.traceSync.trapVa c s.sp.pc)) ∧
     (∀ l mot, s.translate s.gang.vf s.coreId s.sp.pc .fetch = (.replay l mot, t) →
       ∃ u, s.fetch = .stop u ∧ u.sp.st = .parked (pageOf s.sp.pc) true ∧ u.sp.pc = s.sp.pc)) ∧
  (∀ (s s1 : State) (m : Move), s.nextMove = (m, s1) →
     s1 = { s with agenda := s.agenda.tail, tick := s.tick + 1 } ∧
     (s.power = .off → actsAlways m = false → step s = .next s1) ∧
     (∀ x, s.power = .off → m = .event (.powerOn x) → ∃ t, step s = .next t ∧ t.power = .on) ∧
     (∀ c, s.power = .frozen c → actsFrozen m = false → step s = .next s1) ∧
     (s.power ≠ .on → ∀ i, m = .event i → actsAlways m = true → step s = settled (exec i s1)) ∧
     (∀ m, actsAlways m = true ↔ (∃ x, m = .event (.sensorRead x)) ∨ (∃ x, m = .event (.powerCapSet x)) ∨
       (∃ x y, m = .event (.firmwareUpdate x y)) ∨ (∃ x, m = .event (.spdmRequest x)) ∨ m = .event .moduleReset ∨
       m = .event .freeze ∨ m = .event .freezeReadout ∨ ∃ x, m = .event (.powerOn x)) ∧
     (∀ m, actsFrozen m = true ↔ actsAlways m = true ∨ m = .event .perst ∨ m = .event .undervoltagePowerOff ∨
       m = .event .thermalTrip))

/-! ## Memory -/

/-- Every step keeps physical and bank memory in their one canonical form: addresses strictly rising, no byte listed that is
zero. The form is the model's own: that a byte which nothing has written reads as zero is log 5's (DESIGN CHOICE); the spec gives the
memories themselves (06 R106, 18 R276). -/
def Obligations.MemoryFormKept : Prop :=
  ∀ (s t : State), s.memWf = true → step s = .next t → t.memWf = true

/-- The memories after reset are in their canonical form and list nothing (an unlisted byte reads as zero: log 5, DESIGN CHOICE).
After a cold reset: 64 contexts, one for each virtual function 1 to 64, with their launch, fault, capture, log and mirror
registers 0 but for the size codes LQSIZE 4, FQSIZE 4 and DLSIZE 10 and LAUNCHSEQ, which starts at 1, with no launch, no log record,
no armed predicate and no key granted; no gang resident, none evicted; TIME and the cycle counters 0; no export entry; the
active command processor on HD0 (16 R258, 18 R292, 19 R301, 22 R345, R353, 23 R358, R359, R360; that the module is on, with no
cached translation, fault record or line in error, is the model's choice, log 6). -/
def Obligations.ResetState : Prop :=
  (State.reset.memWf = true ∧ State.reset.mem = [] ∧ State.reset.bank = []) ∧
  (State.reset.contexts.length = 64 ∧
     (∀ vf : BitVec 7, 1 ≤ vf.toNat → vf.toNat ≤ 64 →
       let c := State.reset.ctx vf
       c.vf = vf ∧ c.lqBase = 0 ∧ c.lqSize = 4 ∧ c.lqTail = 0 ∧ c.lqHead = 0 ∧ c.ptRoot = 0 ∧ c.rtBase = 0 ∧ c.cirq = false ∧
       c.resetDone = false ∧ c.lwImg = 0 ∧ c.cbImg = 0 ∧ c.ctxErr = 0 ∧ c.errPc = 0 ∧ c.errLaunch = 0 ∧ c.fqBase = 0 ∧
       c.fqSize = 4 ∧ c.fqTail = 0 ∧ c.fqHead = 0 ∧ c.csBase = 0 ∧ c.csSize = 0 ∧ c.csStat = 0 ∧ c.dlBase = 0 ∧ c.dlSize = 10 ∧
       c.dlTail = 0 ∧ c.dlHead = 0 ∧ c.dlOvf = false ∧ c.dlOn = false ∧ c.dbgMask = 0 ∧ c.dmt0 = 0 ∧ c.dmt1 = 0 ∧ c.dmData = 0 ∧
       c.dmStat = 0 ∧ c.nextSeq = 1 ∧ c.launches = [] ∧ c.elog = [] ∧ c.elogOvf = 0 ∧ c.wlog = [] ∧ c.wlogOvf = 0 ∧
       c.watch = [] ∧ c.codebook = [] ∧ c.keys = [] ∧ c.regions = [] ∧ c.stopped = false) ∧
     State.reset.gang.present = false ∧ State.reset.residents = [] ∧ State.reset.evicted = [] ∧ State.reset.bands = [] ∧
     State.reset.time = 0 ∧ State.reset.cycles = 0 ∧ State.reset.coreStart = [] ∧ State.reset.exports = [] ∧
     State.reset.remoteHolders = [] ∧ State.reset.device = 0 ∧ State.reset.power = .on ∧ State.reset.onHd1 = false ∧
     State.reset.inactive = some State.reset.firmware ∧ State.reset.uncorrectable = [] ∧ State.reset.tlb = [] ∧
     State.reset.faults = [] ∧
     (∀ die : BitVec 3, sinkAt State.reset.sinks die = Sink.reset ∧ sinkAt State.reset.sampleSinks die = Sink.reset))

/-- Bytes stored read back, in physical and in bank memory, and every byte outside them reads as before; the byte at the
lowest address of a stored number is its least significant one (00 R8).
Two memories in the canonical form that read the same at every address are the same. -/
def Obligations.MemoryReads : Prop :=
  (∀ (s : State) (b : List Byte),
     (∀ pa : BitVec 52, (s.writePhys pa b).readPhys pa b.length = b ∧
       (∀ j, j < pa.toNat ∨ pa.toNat + b.length ≤ j → SMap.get (s.writePhys pa b).mem j = SMap.get s.mem j) ∧
       (s.writePhys pa b).bank = s.bank) ∧
     (∀ a : BitVec 29, (s.writeBank a b).readBank a b.length = b ∧
       (∀ j, j < a.toNat ∨ a.toNat + b.length ≤ j → SMap.get (s.writeBank a b).bank j = SMap.get s.bank j) ∧
       (s.writeBank a b).mem = s.mem) ∧
     ∀ (pa : BitVec 52) (n x i : Nat), i < n →
       SMap.get (s.writePhys pa (toBytes n x)).mem (pa.toNat + i) = BitVec.ofNat 8 (x / 2 ^ (8 * i))) ∧
  (∀ (m n : Memory), Memory.wf m = true → Memory.wf n = true → (∀ a, SMap.get m a = SMap.get n a) → m = n)

/-! ## Translation -/

/-- A leaf that is used: an access it permits, whose key the context holds, on a page that does not migrate on touch,
reaches the leaf's address plus the offset in the page, under the leaf's key and mirror bit, and sets A in a valid leaf where it
lies, and D for a write, where the copy used does not carry them (stated with the dirty log off, whose buffer could lie over the
leaf), and changes no byte where it does; a denied read, write or fetch traps with its own cause, then the key, then
migrate-on-touch is tested, and none of these changes the machine (18 R278, R279, R282).
An address above the 57 bits of the space traps ADDR_RANGE; with no cached translation, an invalid entry traps
PAGE_INVALID, a malformed one WALK_ERROR, one in a line that cannot be corrected MEM_UNCORR, which is reported, and one the host
may fill is replayable, with the level of the walk; none of these else changes the machine. A leaf of the walk is used as said
of useLeaf. A walk starts at the root of the context where no table is cached for the address (18 R275, R277, R280, R282,
23 R363). -/
def Obligations.Translation : Prop :=
  (∀ (s : State) (vf : BitVec 7) (core : CoreId) (va : W64) (acc : Access) (l : Nat) (e : BitVec 128) (at_ : BitVec 52),
     let reads := acc = .read ∨ acc = .both
     let writes := acc = .write ∨ acc = .both
     (reads → pteR e = false → s.useLeaf vf core va acc l e at_ = (.trap cPAGE_READ, s)) ∧
     (writes → (reads → pteR e = true) → pteW e = false → s.useLeaf vf core va acc l e at_ = (.trap cPAGE_WRITE, s)) ∧
     (acc = .fetch → pteX e = false → s.useLeaf vf core va acc l e at_ = (.trap cPAGE_EXEC, s)) ∧
     ((reads → pteR e = true) → (writes → pteW e = true) → (acc = .fetch → pteX e = true) →
       (pteKey e ∉ (s.ctx vf).keys → s.useLeaf vf core va acc l e at_ = (.trap cKEY_DENIED, s)) ∧
       (pteKey e ∈ (s.ctx vf).keys → pteMOT e = true →
         s.useLeaf vf core va acc l e at_ = (.replay (BitVec.ofNat 3 l) true, s)) ∧
       (pteKey e ∈ (s.ctx vf).keys → pteMOT e = false →
         let lies := BitVec.ofNat 128 (ofBytes (s.readPhys at_ 16))
         ∃ t, s.useLeaf vf core va acc l e at_ =
             (.ok (pteAddr e + BitVec.ofNat 52 (va.toNat % 2 ^ pageBits l)) { mirror := pteMirror e, key := some (pteKey e) }, t) ∧
           t.grp = s.grp ∧ t.gang = s.gang ∧ t.bank = s.bank ∧
           ((pteA e = true ∧ (writes → pteD e = true)) ∨ pteV lies = false ∨ pteLeaf lies = false → t.mem = s.mem) ∧
           ((s.ctx vf).dlOn = false → pteV lies = true → pteLeaf lies = true → pteA e = false ∨ (writes ∧ pteD e = false) →
             pteA (BitVec.ofNat 128 (ofBytes (t.readPhys at_ 16))) = true ∧
             (writes → pteD (BitVec.ofNat 128 (ofBytes (t.readPhys at_ 16))) = true) ∧
             ∀ a, a < at_.toNat ∨ at_.toNat + 16 ≤ a → SMap.get t.mem a = SMap.get s.mem a)))) ∧
  (∀ (s : State) (vf : BitVec 7) (core : CoreId) (va : W64) (acc : Access),
     (2 ^ 57 ≤ va.toNat → s.translate vf core va acc = (.trap cADDR_RANGE, s)) ∧
     ((∀ t, t ∈ s.tables → t.covers vf va = false) → s.walkVa vf core va = walk s.mem s.uncorrectable va 4 (s.ctx vf).root) ∧
     (va.toNat < 2 ^ 57 → s.tlbFind vf core va = none →
       (s.walkVa vf core va = .invalid → s.translate vf core va acc = (.trap cPAGE_INVALID, s)) ∧
       (s.walkVa vf core va = .error → s.translate vf core va acc = (.trap cWALK_ERROR, s)) ∧
       (∀ line, s.walkVa vf core va = .uncorrectable line →
         s.translate vf core va acc = (.trap cMEM_UNCORR, { s with replies := s.replies ++ [.uncorrectable line] })) ∧
       (∀ l, s.walkVa vf core va = .fill l → s.translate vf core va acc = (.replay (BitVec.ofNat 3 l) false, s)) ∧
       ∀ l e at_, s.walkVa vf core va = .leaf l e at_ →
         l ≤ 2 ∧ (pteAddr e).toNat % 2 ^ pageBits l = 0 ∧
           ∃ t : State, t = { s with tables := t.tables } ∧ s.translate vf core va acc = t.useLeaf vf core va acc l e at_))

/-! ## Issue -/

/-- The shared issue that every meaning goes through, for any needs and any effect: an instruction that names a register the launch
does not declare, or an ill-formed range, kills its group with REG_RANGE and has no other effect, guarded off or not; one whose guard,
sources without a wait bit and destinations are full, and that reads an empty register with its wait bit set, traps REG_EMPTY
precisely; one that reads an empty register without it, whose destination or guard is empty, or that must wait for something else,
blocks: it changes nothing but the note of what it waits for, no register and no byte; one that needs nothing more has its effect
(04 R42, R46, R47, 14 R242; that it blocks while it waits for one register and reads another empty one with the wait bit is log 22's).
So for a vector add, whose odd pair under a 64-bit type is ill-formed. -/
def Obligations.IssueOutcomes : Prop :=
  ∀ (s : State), s.canIssue = true → s.grp.due = [] → (s.tracing && s.grp.syncDue) = false → s.pcQuiet = true →
    let blocked (t : State) : Prop := t.sp.pc = s.sp.pc ∧ t.sp.mask = s.sp.mask ∧ t.sp.mode = s.sp.mode ∧
      t.k = s.k ∧ (∀ j, j ≠ s.k → t.grp.splits.get j = s.grp.splits.get j) ∧ s.SameS t [] ∧ s.SameV t [] ∧ s.SameM t [] ∧
      s.OnlyRegs t ∧ s.SameBytes t
    (∀ (u : Use) (f : State → State),
      let declared (r : Reg) : Prop := match r with
        | .v i => i < s.gang.lrec.nv
        | .s _ => True
        | .m i => i < s.gang.lrec.nm
      let named := u.writes ++ u.reads.map (·.1)
      let waits := s.grp.isEmpty (.s (modeG s.mode)) = true ∨ (∃ r, (r, false) ∈ u.reads ∧ s.grp.isEmpty r = true) ∨
        ∃ r, r ∈ u.writes ∧ s.grp.isEmpty r = true
      let early := ∃ r, (r, true) ∈ u.reads ∧ s.grp.isEmpty r = true
      (u.ok = false ∨ (∃ r, r ∈ named ∧ ¬declared r) → s.issue u f = s.killGroup cREG_RANGE s.sp.pc) ∧
      (u.ok = true → (∀ r, r ∈ named → declared r) →
        (¬waits → early → s.issue u f = s.trap cREG_EMPTY) ∧
        (waits ∨ (u.ready = false ∧ ¬early) → s.stepping = none → blocked (s.issue u f)) ∧
        (¬waits → ¬early → u.ready = true → s.uncached u = none → s.issue u f = f s))) ∧
    ∀ (d a b : BitVec 7) (x y : BitVec 1),
    let odd := is64 s.ty = true ∧ (d.toNat % 2 = 1 ∨ a.toNat % 2 = 1 ∨ b.toNat % 2 = 1)
    let top (r : BitVec 7) := r.toNat + (if is64 s.ty then 1 else 0)
    let beyond := s.gang.lrec.nv ≤ top d ∨ s.gang.lrec.nv ≤ top a ∨ s.gang.lrec.nv ≤ top b
    let empty (r : BitVec 7) := s.grp.isEmpty (.v r.toNat) = true ∨ (is64 s.ty = true ∧ s.grp.isEmpty (.v (r.toNat + 1)) = true)
    let waits := (empty a ∧ x = 0) ∨ (empty b ∧ y = 0) ∨ empty d
    (odd ∨ beyond → exec (.add d a b x y) s = .next (s.killGroup cREG_RANGE s.sp.pc)) ∧
    (¬odd → ¬beyond → s.grp.isEmpty (.s (modeG s.mode)) = false →
      (¬waits → (empty a ∧ x = 1) ∨ (empty b ∧ y = 1) → exec (.add d a b x y) s = .next (s.trap cREG_EMPTY)) ∧
      (waits → s.stepping = none → ∃ t, exec (.add d a b x y) s = .next t ∧ blocked t))

/-- Killing a group: no lane lives, its splits, overflow entries, replay queue, due traps and frame are discarded, its
launch ends with error, and CTXERR, where it holds no error, records the cause, the group and the place, else only MULTI;
its registers and memory stay, and so does each other group of the machine: its registers, lanes, operations and handler, and the
place, lanes and waits of its splits, but of those that waited at a barrier that the group's end completes, or sleep until one
does (stated with the trace off, and bank memory for a gang without band, whose barriers lie there) (04 R62, R63).
The permanently illegal word, and every word that is no instruction, kills its group with ILLEGAL where it would issue,
and one that names registers its launch lacks with REG_RANGE, whatever lanes the guard leaves: the next state is the killed
group's (04 R42, R61, R62, R64). -/
def Obligations.KilledGroup : Prop :=
  (∀ (s : State) (cause : BitVec 9) (pc : W64), s.grp.tracectl = 0 → (s.contexts.any fun c => c.vf == s.gang.vf) = true →
     let t := s.killGroup cause pc
     let stays (g h : Group) : Prop := h = { g with splits := h.splits, overflow := h.overflow, frame := h.frame } ∧
       ∀ j, (g.splits.get j).mask = (h.splits.get j).mask ∧ (g.splits.get j).mode = (h.splits.get j).mode ∧
         (g.splits.get j).held = (h.splits.get j).held ∧
         ((∀ band b, (g.splits.get j).st ≠ .atBarrier band b) →
           (h.splits.get j).st = (g.splits.get j).st ∧ (h.splits.get j).pc = (g.splits.get j).pc)
     t.grp.killed = true ∧ t.grp.live = 0 ∧ t.grp.splits = SplitTable.empty ∧ t.grp.overflow = [] ∧ t.grp.rq = [] ∧
     t.grp.behind = [] ∧ t.grp.due = [] ∧ t.grp.frame.active = false ∧ s.SameS t [] ∧ s.SameV t [] ∧ s.SameM t [] ∧
     t.peers.length = s.peers.length ∧ t.others.length = s.others.length ∧
     (∀ (i : Nat) (g h : Group), s.peers[i]? = some g → t.peers[i]? = some h → stays g h) ∧
     (∀ (i : Nat) (q r : Resident), s.others[i]? = some q → t.others[i]? = some r →
       r.gang = q.gang ∧ r.groups.length = q.groups.length ∧
       ∀ (j : Nat) (g h : Group), q.groups[j]? = some g → r.groups[j]? = some h → stays g h) ∧
     (s.gang.barriers = [] → s.myBand = none → t.peers = s.peers ∧ t.others = s.others ∧ t.gang = s.gang) ∧
     t.mem = s.mem ∧ t.gang.gmem = s.gang.gmem ∧ (s.myBand = none → t.bank = s.bank) ∧
     (∀ l, l ∈ (t.ctx s.gang.vf).launches → l.seq = s.gang.seq → l.killed = true) ∧
     ((s.ctx s.gang.vf).ctxErr.getLsbD 63 = false →
       (t.ctx s.gang.vf).ctxErr.getLsbD 63 = true ∧ (t.ctx s.gang.vf).ctxErr.getLsbD 62 = false ∧
       field (t.ctx s.gang.vf).ctxErr 53 9 = cause ∧ field (t.ctx s.gang.vf).ctxErr 48 5 = s.grp.idx ∧
       field (t.ctx s.gang.vf).ctxErr 30 18 =
         (if s.gang.idx.toNat < 2 ^ 18 then s.gang.idx.setWidth 18 else BitVec.allOnes 18) ∧
       field (t.ctx s.gang.vf).ctxErr 0 30 =
         (if s.gang.lrec.code.toNat ≤ pc.toNat ∧ (pc.toNat - s.gang.lrec.code.toNat) / 4 < 2 ^ 30 then
           BitVec.ofNat 30 ((pc.toNat - s.gang.lrec.code.toNat) / 4) else BitVec.allOnes 30) ∧
       (t.ctx s.gang.vf).errPc = pc ∧ (t.ctx s.gang.vf).errLaunch = s.gang.launch) ∧
     ((s.ctx s.gang.vf).ctxErr.getLsbD 63 = true →
       (t.ctx s.gang.vf).ctxErr = (s.ctx s.gang.vf).ctxErr ||| (1#64 <<< 62) ∧
       (t.ctx s.gang.vf).errPc = (s.ctx s.gang.vf).errPc)) ∧
  (∀ (s : State), s.canIssue = true → s.grp.due = [] → (s.tracing && s.grp.syncDue) = false → s.pcQuiet = true →
     (∀ x, exec (.illegalWord x) s = .next (s.killGroup (if x then cREG_RANGE else cILLEGAL) s.sp.pc) ∧
       ∃ t, exec (.illegalWord x) s = .next t ∧ t.grp.killed = true ∧ t.grp.live = 0 ∧ s.SameS t [] ∧ s.SameV t [] ∧
         s.SameM t [] ∧ (s.grp.tracectl = 0 → t.mem = s.mem)) ∧
     ∀ w, decode w = none → exec (instrOf w) s = .next (s.killGroup cILLEGAL s.sp.pc))

/-! ## Traps -/

/-- A precise trap of a gang with a handler: the frame holds the cause, the PC of the instruction, its split and mask, the
split table and its overflow entries (that the stack is held with the frame, and that the handler runs with no other split, promoted
or not, is log 7, DEDUCED); the handler starts at TVEC in entry 0 with every live lane, MODE 0 and no other split;
operations still with the core go to the replay queue, which holds 16, and beyond it (log 79), the others stay in flight; registers and
memory stay (stated with the trace off, and where the save area takes what is written to it) (18 R288 to R290).
A trap of a gang without a handler, or taken inside a handler, kills the group with the trap's cause; one whose frame, or whose
first replay entry, cannot be written to the save area kills it with the cause of that write (18 R289, 19 R302; that the area is
written piece by piece, the frame first, is log 21).
TRAP ENTRY takes the oldest trap that is due of a group in the gang in focus, at its boundary, with the cause, kind,
place, detail and address recorded when it fell due (18 R288, R289); so does the next issue of any split of the group. A write to the
save area that failed kills the group before any of them (19 R302, log 21). -/
def Obligations.Traps : Prop :=
  (∀ (s : State) (cause : BitVec 9), s.gang.tvec ≠ 0 → s.grp.frame.active = false → s.grp.tracectl = 0 →
     (∀ p, s.saveFault p = 0) → s.Entered (s.trap cause) cause 0 s.sp.pc s.grp.splits) ∧
  (∀ (s : State) (d : Due),
     (s.gang.tvec = 0 ∨ s.grp.frame.active = true → s.takeTrap d = s.killGroup d.cause d.pc) ∧
     (s.gang.tvec ≠ 0 → s.grp.frame.active = false → s.saveFault .frame ≠ 0 →
       s.takeTrap d = s.killGroup (s.saveFault .frame) d.pc) ∧
     (s.gang.tvec ≠ 0 → s.grp.frame.active = false → s.saveFault .frame = 0 → s.stuck ≠ [] → s.grp.rq = [] →
       s.saveFault (.replay 0) ≠ 0 → s.takeTrap d = s.killGroup (s.saveFault (.replay 0)) d.pc) ∧
     ((s.ctx s.gang.vf).csBase = 0 → ∀ p, s.saveFault p = 0)) ∧
  (∀ (s : State) (d : Due), s.gang.present = true → s.captured s.gang.vf = false → s.grp.alive = true →
     oldestDue s.grp.due = some d → s.grp.tracectl = 0 →
     (d.kills = true → exec (.trapEntry s.self) s = .next (s.killGroup d.cause d.pc)) ∧
     (d.kills = false → s.gang.tvec ≠ 0 → s.grp.frame.active = false → (∀ p, s.saveFault p = 0) →
       (∃ t, exec (.trapEntry s.self) s = .next t ∧ t.grp.frame.active = true ∧ t.grp.frame.cause = d.cause ∧
       t.grp.frame.tkind = d.tkind ∧ t.grp.frame.pc = d.pc ∧ t.grp.frame.split = d.split ∧ t.grp.frame.detail = d.detail ∧
       t.grp.frame.va = d.va ∧ (t.grp.splits.get 0).pc = s.gang.tvec ∧ (t.grp.splits.get 0).mask = s.grp.live ∧
       t.grp.due = [] ∧ (∀ x, x ∈ t.grp.frame.later → x ∈ s.grp.due ∧ x.queued = false) ∧
       s.SameS t [] ∧ s.SameV t [] ∧ s.SameM t [] ∧ s.SameBytes t) ∧
     (∀ x, x ∈ s.grp.due → x.kills = false ∧ d.id ≤ x.id)) ∧
     (s.canIssue = true → exec .nop s = exec (.trapEntry s.self) s))

/-- trap #c and brk take a software trap with cause SW0 + c or BRK at their own address: the split saved in the frame stands
after the instruction, so that a return goes on there (18 R288, R290, R295, R299).
The instructions of a handler trap RTE_STATE outside one, which has no other effect than the entry; rte by a split
that does not hold every live lane does too, inside a handler, and so kills the group (18 R295, R296).
Inside a handler: rq.n writes the number of replay entries; rq.rd writes the doubleword the selector names, of the frame
for entry 16 and 0 for an entry that is not there; rq.wr changes that doubleword alone, and nothing of an entry that is not
there; rq.drop takes the entry out of the queue and marks its destination full; all go on at the next instruction. elog
writes the oldest record of the error log into a pair and removes it, or V = 0 and the count of dropped ones (18 R291, R295,
R298). -/
def Obligations.HandlerInstructions : Prop :=
  (∀ (s : State), s.Ready {} → s.gang.tvec ≠ 0 → s.grp.frame.active = false → s.grp.tracectl = 0 → (∀ p, s.saveFault p = 0) →
     (∀ c : BitVec 5, ∃ t, exec (.trap c) s = .next t ∧
       s.Entered t (0x1E0 + c.setWidth 9) 2 s.sp.pc s.advance.grp.splits ∧
       (t.grp.frame.splits.get s.k).pc = s.sp.pc + 4) ∧
     ∃ t, exec .brk s = .next t ∧ s.Entered t 0x007 2 s.sp.pc s.advance.grp.splits ∧
       (t.grp.frame.splits.get s.k).pc = s.sp.pc + 4) ∧
  (∀ (s : State) (d a : BitVec 6),
     (s.grp.frame.active = false →
       (s.Ready {} → exec .rte s = .next (s.trap cRTE_STATE)) ∧
       (s.Ready { writes := [.s d] } → exec (.rqN d) s = .next (s.trap cRTE_STATE)) ∧
       (s.Ready { reads := [(.s a, false)], writes := [.s d] } → exec (.rqRd d a) s = .next (s.trap cRTE_STATE)) ∧
       (s.Ready { reads := [(.s a, false), (.s d, false)] } → exec (.rqWr d a) s = .next (s.trap cRTE_STATE)) ∧
       (s.Ready { reads := [(.s a, false)] } → exec (.rqDrop a) s = .next (s.trap cRTE_STATE))) ∧
     (s.grp.frame.active = true → s.sp.mask ≠ s.grp.live → s.Ready {} →
       exec .rte s = .next (s.killGroup cRTE_STATE s.sp.pc))) ∧
  (∀ (s : State) (d a : BitVec 6),
     (s.grp.frame.active = true →
       (s.Ready { writes := [.s d] } → DoneS s (exec (.rqN d) s) d (BitVec.ofNat 64 s.grp.rq.length)) ∧
       (s.Ready { reads := [(.s a, false)], writes := [.s d] } →
         DoneS s (exec (.rqRd d a) s) d
           (if selEntry (s.readS a) = 16 then s.grp.frameWord (selWord (s.readS a))
            else if selEntry (s.readS a) < 16 then
              ((s.grp.rq[selEntry (s.readS a)]?).map fun e => e.word_ (selWord (s.readS a))).getD 0
            else 0)) ∧
       (s.Ready { reads := [(.s a, false), (.s d, false)] } →
         ∃ t, exec (.rqWr d a) s = .next t ∧ t.grp.rq.length = s.grp.rq.length ∧
           (selEntry (s.readS a) = 16 → t.grp.frame = s.grp.frame.setWord (selWord (s.readS a)) (s.readS d) ∧ t.grp.rq = s.grp.rq) ∧
           (selEntry (s.readS a) ≠ 16 → t.grp.frame = s.grp.frame ∧
             ∀ i, t.grp.rq[i]? = (s.grp.rq[i]?).map fun e =>
               if i = selEntry (s.readS a) ∧ i < 16 then e.setWord (selWord (s.readS a)) (s.readS d) else e) ∧
           s.StandsAt t (s.sp.pc + 4) ∧ s.SameS t [] ∧ s.SameV t [] ∧ s.SameM t [] ∧ s.SameBytes t) ∧
       (s.Ready { reads := [(.s a, false)] } → ∀ e, selEntry (s.readS a) < 16 → s.grp.rq[selEntry (s.readS a)]? = some e →
         ∃ t, exec (.rqDrop a) s = .next t ∧ t.grp.rq = s.grp.rq.eraseIdx (selEntry (s.readS a)) ∧
           (∀ r, r ∈ e.dest.regs → t.grp.isEmpty r = false) ∧ t.sp.pc = s.sp.pc + 4 ∧
           s.SameS t [] ∧ s.SameV t [] ∧ s.SameM t [] ∧ s.SameBytes t)) ∧
     (s.Ready { ok := 2 ≤ d.toNat && d.toNat ≤ 62, writes := [.s d, .s (d + 1)] } →
       (s.contexts.any fun c => c.vf == s.gang.vf) = true →
       ∃ t, exec (.elog d) s = .next t ∧ s.SameS t [d, d + 1] ∧ s.SameV t [] ∧ s.SameM t [] ∧ s.SameBytes t ∧
         s.StandsAt t (s.sp.pc + 4) ∧
         (∀ h rest, (s.ctx s.gang.vf).elog = h :: rest →
           t.readS d = field h 0 64 ∧ t.readS (d + 1) = field h 64 64 ∧ (t.ctx s.gang.vf).elog = rest) ∧
         ((s.ctx s.gang.vf).elog = [] → t.readS d = 0 ∧ t.readS (d + 1) = ((s.ctx s.gang.vf).elogOvf).setWidth 64 ∧
           (t.ctx s.gang.vf).elogOvf = 0)))

/-- rte by a split that holds every live lane returns. Each split that the frame holds is back in its entry without the lanes that
have exited, each overflow entry on the stack or, while the table has a free entry, in the table, and the group runs outside a
handler; traps that were due beside the one taken are due again; the replay entries are injected again, oldest first: an
operation goes in flight again with its destination empty, one that holds a cause raises it, and a word that is none kills the
group at its address; registers and memory stay, but for what translation marks in leaves (18 R296; stated with the trace
off, where no saved split waits at a join, where the save area takes what is written to it, and for the first replay entry; that what
did not fit into the queue returns with it is log 79). -/
def Obligations.ReturnFromTrap : Prop :=
  ∀ (s : State), s.Ready {} → s.grp.frame.active = true → s.sp.mask = s.grp.live → s.grp.tracectl = 0 →
    (∀ j, (s.grp.frame.splits.get j).waits = false) → (∀ x, x ∈ s.grp.frame.stack → x.waits = false) →
    let kept (x : Split) : Split := { x with mask := x.mask &&& s.grp.live }
    let lives (x : Split) : Prop := x.mask &&& s.grp.live ≠ 0
    let regs (t : State) : Prop := s.SameS t [] ∧ s.SameV t [] ∧ s.SameM t [] ∧ t.bank = s.bank
    let back (t : State) : Prop := t.grp.frame.active = false ∧ t.grp.live = s.grp.live ∧
      (∀ j, lives (s.grp.frame.splits.get j) → t.grp.splits.get j = kept (s.grp.frame.splits.get j)) ∧
      (∀ x, x ∈ s.grp.frame.stack → lives x → (∃ j, t.grp.splits.get j = kept x) ∨ kept x ∈ t.grp.overflow) ∧
      (∀ x, x ∈ t.grp.overflow → ∃ y, y ∈ s.grp.frame.stack ∧ lives y ∧ x = kept y) ∧
      (∀ j, (t.grp.splits.get j).isFree = true → t.grp.overflow = []) ∧
      ∀ j, (t.grp.splits.get j).isFree = false → lives (s.grp.frame.splits.get j) ∨
        ∃ y, y ∈ s.grp.frame.stack ∧ lives y ∧ t.grp.splits.get j = kept y
    (s.grp.rq ++ s.grp.behind = [] → ∃ t, exec .rte s = .next t ∧ back t ∧ t.grp.due = s.grp.frame.later ∧ t.grp.rq = [] ∧
      t.grp.flight = s.grp.flight ∧ regs t ∧ s.SameBytes t) ∧
    ∀ (e : Entry) (rest : List Entry), s.grp.rq ++ s.grp.behind = e :: rest →
      (decode e.word = none → ∃ t, exec .rte s = .next t ∧ t.grp.killed = true ∧ t.grp.live = 0 ∧ t.grp.rq = [] ∧
        t.grp.behind = [] ∧ s.SameS t [] ∧ s.SameV t [] ∧ s.SameM t [] ∧ t.mem = s.mem ∧
        ((s.contexts.any fun c => c.vf == s.gang.vf) = true → (s.ctx s.gang.vf).ctxErr.getLsbD 63 = false →
          field (t.ctx s.gang.vf).ctxErr 53 9 = cILLEGAL ∧ (t.ctx s.gang.vf).errPc = e.pc)) ∧
      (decode e.word ≠ none → e.err ≠ 0 → s.gang.tvec ≠ 0 → (∀ p, s.saveFault p = 0) → ∃ t, exec .rte s = .next t ∧
        t.grp.frame.active = true ∧ t.grp.frame.cause = e.err ∧ t.grp.frame.tkind = 1 ∧ t.grp.frame.pc = e.pc ∧
        t.grp.frame.split = e.split ∧ (t.grp.splits.get 0).pc = s.gang.tvec ∧ (t.grp.splits.get 0).mask = s.grp.live ∧
        { e with err := 0, failed := e.op.isTile } ∈ t.grp.rq ++ t.grp.behind ∧
        (∀ x, x ∈ rest → x ∈ t.grp.rq ++ t.grp.behind) ∧ t.grp.rq.length ≤ 16 ∧ regs t ∧ s.SameBytes t) ∧
      (decode e.word ≠ none → e.err = 0 → e.op.whole = false → rest = [] → ∃ t, exec .rte s = .next t ∧ back t ∧
        t.grp.rq = [] ∧ t.grp.behind = [] ∧
        (∃ x, x ∈ t.grp.flight ∧ x.id = e.id ∧ x.op = e.op ∧ x.dest = e.dest ∧ x.active = e.active) ∧
        (∀ x, x ∈ s.grp.flight → x ∈ t.grp.flight) ∧
        (∀ r, r ∈ e.dest.regs → r.real = true → t.grp.isEmpty r = true) ∧ regs t)

/-! ## Scalar instructions -/

/-- The scalar functions of two sources: each reads both registers before it writes sD (s0 reads as zero and discards the
write), goes on at the next instruction and changes nothing else (04 R41, 05 R81).
The scalar functions of one source: the number of set bits, of leading zeros (64 for 0), and the index of the lowest set
bit (64 for 0), with the frame of every scalar instruction (05 R81).
The immediate scalar forms: saddi adds the immediate sign-extended from 13 bits; sli writes IMM18 sign-extended to 64
bits; sli.hi writes sD shifted left by 18, or IMM18 taken unsigned (05 R82). -/
def Obligations.ScalarResults : Prop :=
  (∀ (s : State) (d a b : BitVec 6) (x y : BitVec 1), s.Ready (suse d [(a, x), (b, y)]) →
     let p := s.readS a
     let q := s.readS b
     DoneS s (exec (.sadd d a b x y) s) d (p + q) ∧
     DoneS s (exec (.ssub d a b x y) s) d (p - q) ∧
     DoneS s (exec (.smul d a b x y) s) d (p * q) ∧
     DoneS s (exec (.smulh d a b x y) s) d (field (p.signExtend 128 * q.signExtend 128) 64 64) ∧
     DoneS s (exec (.sand d a b x y) s) d (p &&& q) ∧
     DoneS s (exec (.sor d a b x y) s) d (p ||| q) ∧
     DoneS s (exec (.sxor d a b x y) s) d (p ^^^ q) ∧
     DoneS s (exec (.sshl d a b x y) s) d (p <<< (q.toNat % 64)) ∧
     DoneS s (exec (.sshr d a b x y) s) d (p >>> (q.toNat % 64)) ∧
     DoneS s (exec (.ssra d a b x y) s) d (p.sshiftRight (q.toNat % 64)) ∧
     DoneS s (exec (.smin d a b x y) s) d (if p.toInt ≤ q.toInt then p else q) ∧
     DoneS s (exec (.smax d a b x y) s) d (if p.toInt ≤ q.toInt then q else p) ∧
     DoneS s (exec (.sslt d a b x y) s) d (if p.toInt < q.toInt then 1 else 0) ∧
     DoneS s (exec (.sseq d a b x y) s) d (if p = q then 1 else 0)) ∧
  (∀ (s : State) (d a : BitVec 6) (x : BitVec 1), s.Ready (suse d [(a, x)]) →
     let p := s.readS a
     (∃ n : Nat, n = ((List.range 64).filter fun i => p.getLsbD i).length ∧
       DoneS s (exec (.spop d a x) s) d (BitVec.ofNat 64 n)) ∧
     (∃ n : Nat, (p = 0 → n = 64) ∧ (p ≠ 0 → 2 ^ (63 - n) ≤ p.toNat ∧ p.toNat < 2 ^ (64 - n) ∧ n ≤ 63) ∧
       DoneS s (exec (.sclz d a x) s) d (BitVec.ofNat 64 n)) ∧
     (∃ n : Nat, (p = 0 → n = 64) ∧ (p ≠ 0 → p.getLsbD n = true ∧ ∀ j, j < n → p.getLsbD j = false) ∧
       DoneS s (exec (.sffs d a x) s) d (BitVec.ofNat 64 n))) ∧
  (∀ (s : State) (d a : BitVec 6) (i : BitVec 13) (j : BitVec 18),
     (s.Ready (suse d [(a, 0)]) → DoneS s (exec (.saddi d a i) s) d (s.readS a + i.signExtend 64)) ∧
     (s.Ready (suse d []) → DoneS s (exec (.sli d j) s) d (j.signExtend 64)) ∧
     (s.Ready (suse d [(d, 0)]) → DoneS s (exec (.sliHi d j) s) d ((s.readS d <<< 18) ||| j.setWidth 64)))

/-! ## Special registers -/

/-- rdsr writes the value of a special register, zero-extended, into sD; rdsr vD, LANE writes its lane index in each active
lane (04 R53, R54). The cycle counter counts the cycles since the core's last reset that occurred, those that throttling withheld from
its die left out (23 R357).
wrsr writes a special register and goes on: TSF, AEF and TRACECTL keep only the bits they have, TVEC is written without
its low two bits, CTXERR is cleared whatever is written, and every other special register, every register, flag and byte of
memory stays; reading the register back gives what was kept. A write of TRACECTL that turns EN on starts a SYNC
(04 R53, R54, 10 R170, 11 R191, 22 R347, R349).
setm replaces the executing split's MODE and goes on, or, where the value has a reserved type code, COV or NVM 3 or a bit
of [63:29] set, traps MODE_VALUE with MODE unchanged; other splits keep theirs; getm reads it (04 R51, 05 R78). -/
def Obligations.SpecialRegisters : Prop :=
  (∀ (s : State) (d : BitVec 6), s.Ready (suse d []) →
     DoneS s (exec (.rdsr d 1) s) d (s.grp.idx.setWidth 64) ∧
     DoneS s (exec (.rdsr d 2) s) d (s.k.setWidth 64) ∧
     DoneS s (exec (.rdsr d 3) s) d (s.gang.idx.setWidth 64) ∧
     DoneS s (exec (.rdsr d 4) s) d ((s.gang.band.getD (BitVec.allOnes 32)).setWidth 64) ∧
     DoneS s (exec (.rdsr d 5) s) d (s.gang.launch.setWidth 64) ∧
     DoneS s (exec (.rdsr d 6) s) d s.gang.seq ∧
     DoneS s (exec (.rdsr d 7) s) d (BitVec.ofNat 64 (16 * 2 ^ s.gang.lrec.width.toNat)) ∧
     DoneS s (exec (.rdsr d 8) s) d s.grp.live ∧
     DoneS s (exec (.rdsr d 9) s) d (s.gang.core.setWidth 64) ∧
     DoneS s (exec (.rdsr d 10) s) d (s.gang.die.setWidth 64) ∧
     DoneS s (exec (.rdsr d 11) s) d (s.device.setWidth 64) ∧
     DoneS s (exec (.rdsr d 12) s) d s.time ∧
     DoneS s (exec (.rdsr d 13) s) d (s.cycles - s.lost.get s.gang.die.toNat -
       s.coreStart.get (128 * s.gang.die.toNat + s.gang.core.toNat)) ∧
     DoneS s (exec (.rdsr d 14) s) d s.grp.tsf ∧
     DoneS s (exec (.rdsr d 15) s) d s.grp.aef ∧
     DoneS s (exec (.rdsr d 16) s) d (s.ctx s.gang.vf).ctxErr ∧
     DoneS s (exec (.rdsr d 17) s) d s.gang.tvec ∧
     DoneS s (exec (.rdsr d 18) s) d s.grp.tracectl ∧
     ∀ v : BitVec 7, s.Ready { writes := [.v v.toNat] } →
       DoneV s (exec (.rdsrLane v) s) v.toNat fun l => BitVec.ofNat 32 l) ∧
  (∀ (s : State) (a : BitVec 6), s.Ready { reads := [(.s a, false)] } → s.grp.tracectl = 0 →
     (s.contexts.any fun c => c.vf == s.gang.vf) = true →
     ∀ n : BitVec 5, 14 ≤ n.toNat → n.toNat ≤ 18 →
       ∃ t, exec (.wrsr a n) s = .next t ∧ s.StandsAt t (s.sp.pc + 4) ∧ s.SameS t [] ∧ s.SameV t [] ∧ s.SameM t [] ∧
         s.SameBytes t ∧ (∀ m : BitVec 5, m ≠ n → t.special m = s.special m) ∧
         t.special n =
           (match n.toNat with
            | 14 => s.readS a &&& 3
            | 15 => s.readS a &&& 0x3F
            | 16 => 0
            | 17 => s.readS a &&& ~~~3
            | _ => s.readS a &&& 0xFF0F) ∧
         (t.grp.syncDue = true ↔ s.grp.syncDue = true ∨ (n = 18 ∧ (s.readS a).getLsbD 0 = true)) ∧
         t.grp.live = s.grp.live ∧ t.grp.frame = s.grp.frame ∧ t.grp.flight = s.grp.flight) ∧
  (∀ (s : State) (a : BitVec 6),
     (s.Ready { reads := [(.s a, false)] } →
       let m := s.readS a
       let bad := 21 ≤ (field m 6 5).toNat ∨ field m 15 2 = 3 ∨ field m 17 2 = 3 ∨ m >>> 29 ≠ 0
       (bad → exec (.setm a) s = .next (s.trap 0x004)) ∧
       (¬bad → ∃ t, exec (.setm a) s = .next t ∧ t.sp.mode = m ∧ t.sp.pc = s.sp.pc + 4 ∧ t.sp.mask = s.sp.mask ∧
         t.sp.st = s.sp.st ∧ t.k = s.k ∧ (∀ j, j ≠ s.k → t.grp.splits.get j = s.grp.splits.get j) ∧ s.SameS t [] ∧
         s.SameV t [] ∧ s.SameM t [] ∧ s.OnlyRegs t ∧ s.SameBytes t)) ∧
     (s.Ready { writes := [.s a] } → DoneS s (exec (.getm a) s) a s.sp.mode))

/-! ## Control -/

/-- nop goes on at the next instruction; bra, brm.all, brm.none, brz and brnz move the whole split to PC + 4 × DISP18 or
to PC + 4 by their tests, the mask tests over the split's own lanes; call writes the address of the next instruction into its
register (discarded for s0) and goes to the target; ret and jmp go to a register, jmp with four times its offset
(05 R74, R75, R76; stated with the trace off).
brm.any that takes some lanes and not others divides its split: the lanes not taken go on as the executing split, the
lanes taken go to the target with the same MODE in the free entry of lowest index, or on top of the overflow stack where
there is none; with the stack full it traps SPLIT_OVERFLOW and has no other effect; where the stack cannot be written to the save
area the group is killed with the cause. No lane is in both, and none is lost (03 R22, R23, 05 R75, 19 R302; stated with the
trace off).
exit marks the active lanes exited: they leave LIVE and their split; the lanes the guard cleared go on at the next
instruction; a split that keeps no lane is freed. Registers and memory stay (05 R74, 03 R16, R24; stated for a group whose
other splits neither wait at a join nor stand on the stack, with the trace off).
join with a mask that, of the live lanes, holds exactly the split's own passes at once; one whose mask leaves out a lane
of the split traps MASK_OUTSIDE; the first to arrive of several waits at its address, remembering the mask, as long as
another split runs; the last one merges with those that wait there: one split of all their lanes goes on behind the join, in
the table entry of lowest index among them (03 R25, R26, 05 R77; stated with the trace off, nothing on the stack, and no two
other splits waiting at one address, which R26 excludes). -/
def Obligations.ControlFlow : Prop :=
  (∀ (s : State) (r : BitVec 6) (w : BitVec 1) (d : BitVec 18), s.grp.tracectl = 0 →
     let T := s.sp.pc + 4 * d.signExtend 64
     let N := s.sp.pc + 4
     let M := s.sp.mask
     let S := s.readS r
     (s.Ready {} → Goes s (exec .nop s) N ∧ Goes s (exec (.bra d) s) T) ∧
     (s.Ready { reads := [(.s r, w == 1)] } →
       Goes s (exec (.brmAll r w d) s) (if M &&& ~~~S = 0 then T else N) ∧
       Goes s (exec (.brmNone r w d) s) (if M &&& S = 0 then T else N) ∧
       Goes s (exec (.brz r w d) s) (if S = 0 then T else N) ∧
       Goes s (exec (.brnz r w d) s) (if S ≠ 0 then T else N) ∧
       (M &&& S = 0 → Goes s (exec (.brmAny r w d) s) N) ∧
       (M &&& S ≠ 0 → M &&& ~~~S = 0 → Goes s (exec (.brmAny r w d) s) T)) ∧
     (s.Ready { writes := [.s r] } →
       ∃ t, exec (.call r d) s = .next t ∧ t.readS r = (if r = 0 then 0 else N) ∧ s.SameS t [r] ∧ s.SameV t [] ∧
         s.SameM t [] ∧ s.StandsAt t T ∧ s.OnlyRegs t ∧ s.SameBytes t) ∧
     (s.Ready { reads := [(.s r, false)] } → ∀ k : BitVec 13,
       (S &&& 3 = 0 → Goes s (exec (.ret r) s) S ∧ Goes s (exec (.jmp r k) s) (S + 4 * k.signExtend 64)) ∧
       (S &&& 3 ≠ 0 → exec (.ret r) s = .next (s.trap cPC_ALIGN) ∧ exec (.jmp r k) s = .next (s.trap cPC_ALIGN)))) ∧
  (∀ (s : State) (r : BitVec 6) (w : BitVec 1) (d : BitVec 18), s.grp.tracectl = 0 → s.Ready { reads := [(.s r, w == 1)] } →
     let taken := s.sp.mask &&& s.readS r
     let rest := s.sp.mask &&& ~~~(s.readS r)
     taken ≠ 0 → rest ≠ 0 →
     (s.grp.splits.firstFree = none → 16 ≤ s.grp.overflow.length → exec (.brmAny r w d) s = .next (s.trap cSPLIT_OVERFLOW)) ∧
     (s.grp.splits.firstFree = none → s.grp.overflow.length < 16 → s.saveFault .stack ≠ 0 →
       exec (.brmAny r w d) s = .next (s.killGroup (s.saveFault .stack) s.sp.pc)) ∧
     (s.grp.splits.firstFree ≠ none ∨ (s.grp.overflow.length < 16 ∧ s.saveFault .stack = 0) →
       ∃ t, exec (.brmAny r w d) s = .next t ∧ t.k = s.k ∧ t.sp.mask = rest ∧ t.sp.pc = s.sp.pc + 4 ∧ t.sp.mode = s.sp.mode ∧
         t.sp.st = .running ∧
         (∃ y : Split, y.mask = taken ∧ y.pc = s.sp.pc + 4 * d.signExtend 64 ∧ y.mode = s.sp.mode ∧ y.st = .running ∧
           (∀ j, s.grp.splits.firstFree = some j → t.grp.splits.get j = y ∧ t.grp.overflow = s.grp.overflow ∧
             ∀ i, i ≠ j → i ≠ s.k → t.grp.splits.get i = s.grp.splits.get i) ∧
           (s.grp.splits.firstFree = none → t.grp.overflow = y :: s.grp.overflow ∧
             ∀ i, i ≠ s.k → t.grp.splits.get i = s.grp.splits.get i)) ∧
         s.SameS t [] ∧ s.SameV t [] ∧ s.SameM t [] ∧ s.SameBytes t)) ∧
  (∀ (s : State), s.grp.tracectl = 0 → s.Ready {} → s.grp.overflow = [] → s.grp.splits.list.all (fun q => !q.2.waits) = true →
     s.grp.splits.list.all (fun q => q.1 == s.k || q.2.mask &&& s.sp.mask == 0) = true →
     ∃ t, exec .exit s = .next t ∧ t.grp.live = s.grp.live &&& ~~~s.active ∧ t.k = s.k ∧
       t.sp.mask = s.sp.mask &&& ~~~s.active ∧
       (s.sp.mask &&& ~~~s.active ≠ 0 → t.sp.pc = s.sp.pc + 4 ∧ t.sp.mode = s.sp.mode ∧ t.sp.st = .running) ∧
       (∀ j, j ≠ s.k → (s.grp.splits.get j).isFree = false → t.grp.splits.get j = s.grp.splits.get j) ∧
       (∀ j, (s.grp.splits.get j).isFree = true → (t.grp.splits.get j).isFree = true) ∧
       s.SameS t [] ∧ s.SameV t [] ∧ s.SameM t [] ∧ s.SameBytes t) ∧
  (∀ (s : State) (a : BitVec 6), s.grp.tracectl = 0 → s.Ready { reads := [(.s a, false)] } → s.grp.overflow = [] →
     (∀ i j, i ≠ j → i ≠ s.k → j ≠ s.k → (s.grp.splits.get i).waits = true → (s.grp.splits.get j).waits = true →
       (s.grp.splits.get i).pc ≠ (s.grp.splits.get j).pc) →
     let X := s.readS a &&& widthMask s.width
     let others := s.grp.splits.list.filter fun q => q.1 != s.k
     (s.sp.mask &&& ~~~X ≠ 0 → exec (.join a) s = .next (s.trap cMASK_OUTSIDE)) ∧
     (s.sp.mask &&& ~~~X = 0 → others.all (fun q => !q.2.waitsAt s.sp.pc) = true →
       (s.sp.mask = X &&& s.grp.live → Goes s (exec (.join a) s) (s.sp.pc + 4)) ∧
       (s.sp.mask ≠ X &&& s.grp.live → others.any (fun q => !q.2.isFree && !q.2.waits) = true →
         (X &&& s.grp.live &&& ~~~s.sp.mask ≠ 0) →
         ∃ t, exec (.join a) s = .next t ∧ t.sp.st = .waiting X true ∧ t.sp.pc = s.sp.pc ∧ t.sp.mask = s.sp.mask ∧
           (∀ j, j ≠ s.k → t.grp.splits.get j = s.grp.splits.get j) ∧ s.SameS t [] ∧ s.SameV t [] ∧ s.SameM t [] ∧
           s.SameBytes t)) ∧
     ∀ (j : BitVec 2), j ≠ s.k → (s.grp.splits.get j).waitsAt s.sp.pc = true → (s.grp.splits.get j).rejoin = X →
       (s.grp.splits.get j).advances = true → (s.grp.splits.get j).mode = s.sp.mode → s.sp.mask &&& ~~~X = 0 →
       s.sp.mask ≠ X &&& s.grp.live → s.sp.held = false →
       others.all (fun q => q.1 == j || !q.2.waitsAt s.sp.pc) = true →
       X &&& s.grp.live &&& ~~~(s.sp.mask ||| (s.grp.splits.get j).mask) = 0 →
       ∃ t, exec (.join a) s = .next t ∧
         (let i := if s.k.toNat < j.toNat then s.k else j
          (t.grp.splits.get i).mask = s.sp.mask ||| (s.grp.splits.get j).mask ∧ (t.grp.splits.get i).pc = s.sp.pc + 4 ∧
          (t.grp.splits.get i).mode = s.sp.mode ∧ (t.grp.splits.get i).st = .running ∧
          (t.grp.splits.get (if s.k.toNat < j.toNat then j else s.k)).isFree = true ∧ t.k = i) ∧
         (∀ i, i ≠ j → i ≠ s.k → (s.grp.splits.get i).isFree = false → t.grp.splits.get i = s.grp.splits.get i) ∧
         s.SameS t [] ∧ s.SameV t [] ∧ s.SameM t [] ∧ s.SameBytes t)

/-- yield goes on at the next instruction and leaves the split not ready; YIELD EXPIRY makes it ready again once 64 cycles have
passed since, or every other split of the quadrant that was ready then has issued or is ready no longer, and not before. sleep
with a time of 0 writes status 0 and goes on; else the split sleeps until its deadline in TIME or the first of its events,
keeping its place and registers. SLEEP TIMEOUT ends a sleep whose deadline TIME has reached with status 0, SLEEP EVENT-WAKE one
whose event came first with that event's status, each at the next instruction; a sleep whose deadline has not come goes on
(05 R79, R80; stated outside a debug step and for a group in focus). -/
def Obligations.YieldAndSleep : Prop :=
  ∀ (s : State) (d a : BitVec 6) (e : BitVec 3), s.stepping = none →
    (s.Ready {} → ∃ t others, exec .yield s = .next t ∧ t.sp.pc = s.sp.pc + 4 ∧ t.sp.st = .yielded s.cycles others ∧
      t.sp.mask = s.sp.mask ∧ s.SameS t [] ∧ s.SameV t [] ∧ s.SameM t [] ∧ s.OnlyRegs t ∧ s.SameBytes t) ∧
    (s.Ready { reads := [(.s a, false)], writes := [.s d] } →
      (s.readS a = 0 → DoneS s (exec (.sleep d a e) s) d 0) ∧
      (s.readS a ≠ 0 → ∃ t, exec (.sleep d a e) s = .next t ∧
        t.sp.st = .asleep d (if s.time.toNat + (s.readS a).toNat < 2 ^ 64 then s.time + s.readS a else BitVec.allOnes 64) e ∧
        t.sp.woke = none ∧ t.sp.pc = s.sp.pc ∧ t.sp.mask = s.sp.mask ∧ s.SameS t [] ∧ s.SameV t [] ∧ s.SameM t [] ∧
        s.OnlyRegs t ∧ s.SameBytes t)) ∧
    (s.gang.present = true → s.captured s.gang.vf = false → ∀ (k : BitVec 2),
      (∀ since others, (s.grp.splits.get k).st = .yielded since others →
        (64 ≤ (s.cycles - since).toNat ∨ (∀ x, x ∈ others → x ∉ s.quadReady) →
          ∃ t, exec (.yieldExpiry s.self k) s = .next t ∧
            t.grp.splits.get k = { s.grp.splits.get k with st := .running } ∧
            (∀ j, j ≠ k → t.grp.splits.get j = s.grp.splits.get j) ∧ s.SameS t [] ∧ s.SameV t [] ∧ s.SameM t [] ∧ s.SameBytes t) ∧
        ((s.cycles - since).toNat < 64 → (∃ x, x ∈ others ∧ x ∈ s.quadReady) → exec (.yieldExpiry s.self k) s = .next s)) ∧
      ∀ (r : BitVec 6) (u : W64) (ev : BitVec 3), (s.grp.splits.get k).st = .asleep r u ev →
        (s.grp.splits.get k).held = false → s.grp.isEmpty (.s r) = false →
        let wakes (o : Out) (v : W64) := ∃ t, o = .next t ∧ (t.grp.splits.get k).st = .running ∧
          (t.grp.splits.get k).pc = (s.grp.splits.get k).pc + 4 ∧ t.readS r = (if r = 0 then 0 else v) ∧ s.SameS t [r] ∧
          s.SameV t [] ∧ s.SameM t [] ∧ s.SameBytes t ∧ (∀ j, j ≠ k → t.grp.splits.get j = s.grp.splits.get j)
        ((s.grp.splits.get k).woke = none → u.toNat ≤ s.time.toNat → wakes (exec (.sleepTimeout s.self k) s) 0) ∧
        ((s.grp.splits.get k).woke = none → s.time.toNat < u.toNat → exec (.sleepTimeout s.self k) s = .next s) ∧
        (∀ v, v ≠ 0 → (s.grp.splits.get k).woke = some v → wakes (exec (.sleepEventWake s.self k) s) v))

/-! ## Masks and comparisons -/

/-- The mask instructions write whole scalar registers, the bits at and above the width as zero, whatever the guard; mexpand
writes all ones or zero into the active lanes (05 R84, 04 R41).
A comparison under an accepted type writes, for each lane, whether it is active and the relation holds, and changes
nothing else, no flag among it. Integers compare signed for i types and unsigned for n types; a NaN is unordered with
everything: eq, lt and le are then 0, ne and un 1 (05 R83). -/
def Obligations.MasksAndComparisons : Prop :=
  (∀ (s : State) (d a b : BitVec 6) (x y : BitVec 1) (v : BitVec 7),
     let p := s.readS a
     let q := s.readS b
     let W := widthMask s.width
     (s.Ready (suse d [(a, x), (b, y)]) →
       DoneS s (exec (.mand d a b x y) s) d (p &&& q &&& W) ∧ DoneS s (exec (.mor d a b x y) s) d ((p ||| q) &&& W) ∧
       DoneS s (exec (.mxor d a b x y) s) d ((p ^^^ q) &&& W)) ∧
     (s.Ready (suse d [(a, x)]) → DoneS s (exec (.mnot d a x) s) d (~~~p &&& W)) ∧
     (s.Ready (suse d []) → DoneS s (exec (.mlive d) s) d (s.grp.live &&& W)) ∧
     (s.Ready { reads := [(.s a, x == 1)], writes := [.v v.toNat] } →
       DoneV s (exec (.mexpand v a x) s) v.toNat fun l => if p.getLsbD l then 0xFFFFFFFF else 0)) ∧
  (∀ (s : State) (d : BitVec 6) (a b : BitVec 7) (x y : BitVec 1), s.Ready (cmpUse s.ty d a b x y) →
     s.ty.toNat ≤ 3 ∨ s.ty = 8 ∨ s.ty = 9 →
     let p (l : Nat) := s.lane s.ty a l
     let q (l : Nat) := s.lane s.ty b l
     let o (l : Nat) := cmpElem s.ty s.ftz (p l) (q l)
     DoneMask s (exec (.vcmpEq d a b x y) s) d (fun l => o l == some .eq) ∧
     DoneMask s (exec (.vcmpNe d a b x y) s) d (fun l => o l != some .eq) ∧
     DoneMask s (exec (.vcmpLt d a b x y) s) d (fun l => o l == some .lt) ∧
     DoneMask s (exec (.vcmpLe d a b x y) s) d (fun l => o l == some .lt || o l == some .eq) ∧
     DoneMask s (exec (.vcmpUn d a b x y) s) d (fun l => o l == none) ∧
     ∀ l, l < 64 →
       (s.ty = 0 → o l = some (compare (BitVec.ofNat 32 (p l)).toInt (BitVec.ofNat 32 (q l)).toInt)) ∧
       (s.ty = 2 → o l = some (compare (BitVec.ofNat 64 (p l)).toInt (BitVec.ofNat 64 (q l)).toInt)) ∧
       (s.ty = 1 ∨ s.ty = 3 → o l = some (compare (p l) (q l))) ∧
       (s.ty = 8 → (o l = none ↔ 0x7F800000 < p l % 2 ^ 31 ∨ 0x7F800000 < q l % 2 ^ 31)) ∧
       (s.ty = 9 → (o l = none ↔ 0x7FF0000000000000 < p l % 2 ^ 63 ∨ 0x7FF0000000000000 < q l % 2 ^ 63)) ∧
       (s.ty = 8 ∨ s.ty = 9 → p l % 2 ^ (typeBits s.ty - 1) = 0 → q l % 2 ^ (typeBits s.ty - 1) = 0 → o l = some .eq))

/-! ## The vector ALU -/

/-- Under every type it accepts, a typed vector instruction applies its function element by element in each active lane to
the elements of its sources, all read before any write (a destination that is also a source is read as it was), and D where
it is read (05 R67, R68, R85, R86 to R90). What the functions give is stated by ElementFunctions.
The immediate forms compute as the register forms do, with IMM10 sign-extended to the element width in place of element
b (an 8-bit element holds its low 8 bits). add and mul give the exact sum and product of the element, signed for i types and unsigned
for n types, and the immediate's number: with SAT = 0 modulo 2^w, with SAT = 1 clamped to the range of the type, so that #-1 counts as negative on an n type too
(05 R69, R91; that it does so under SAT is the model's reading, log 19). -/
def Obligations.VectorResults : Prop :=
  (∀ (s : State) (d a b : BitVec 7) (x y : BitVec 1), s.FlagsQuiet →
     let m := s.alu
     let w := typeBits s.ty
     let A (l j : Nat) := elem w (s.lane s.ty a l) j
     let B (l j : Nat) := elem w (s.lane s.ty b l) j
     let D (l j : Nat) := elem w (s.lane s.ty d l) j
     (s.Ready (vuse s.ty d [(a, x), (b, y)] false) →
       (s.ty.toNat ≤ 11 →
         DoneElems s (exec (.add d a b x y) s) d (fun l j => m.add [A l j, B l j]) ∧
         DoneElems s (exec (.sub d a b x y) s) d (fun l j => m.sub [A l j, B l j]) ∧
         DoneElems s (exec (.mul d a b x y) s) d (fun l j => m.mul [A l j, B l j]) ∧
         DoneElems s (exec (.min d a b x y) s) d (fun l j => m.minmax false [A l j, B l j]) ∧
         DoneElems s (exec (.max d a b x y) s) d (fun l j => m.minmax true [A l j, B l j])) ∧
       (s.ty.toNat ≤ 3 ∨ s.ty = 8 ∨ s.ty = 9 → DoneElems s (exec (.div d a b x y) s) d (fun l j => m.div [A l j, B l j])) ∧
       (s.ty.toNat ≤ 3 →
         DoneElems s (exec (.rem d a b x y) s) d (fun l j => m.rem [A l j, B l j]) ∧
         DoneElems s (exec (.bfe d a b x y) s) d (fun l j => m.bfe [A l j, B l j])) ∧
       (s.ty.toNat ≤ 7 →
         DoneElems s (exec (.mulh d a b x y) s) d (fun l j => m.mulh [A l j, B l j]) ∧
         DoneElems s (exec (.and d a b x y) s) d (fun l j => m.and [A l j, B l j]) ∧
         DoneElems s (exec (.or d a b x y) s) d (fun l j => m.or [A l j, B l j]) ∧
         DoneElems s (exec (.xor d a b x y) s) d (fun l j => m.xor [A l j, B l j]) ∧
         DoneElems s (exec (.shl d a b x y) s) d (fun l j => m.shl [A l j, B l j]) ∧
         DoneElems s (exec (.shr d a b x y) s) d (fun l j => m.shr [A l j, B l j]) ∧
         DoneElems s (exec (.sra d a b x y) s) d (fun l j => m.sra [A l j, B l j]) ∧
         DoneElems s (exec (.rol d a b x y) s) d (fun l j => m.rol [A l j, B l j]))) ∧
     (s.Ready (vuse s.ty d [(a, x), (b, y)] true) →
       (s.ty.toNat ≤ 11 →
         DoneElems s (exec (.fma d a b x y) s) d (fun l j => m.fma false false [A l j, B l j, D l j]) ∧
         DoneElems s (exec (.fms d a b x y) s) d (fun l j => m.fma false true [A l j, B l j, D l j]) ∧
         DoneElems s (exec (.fnma d a b x y) s) d (fun l j => m.fma true false [A l j, B l j, D l j])) ∧
       (s.ty.toNat ≤ 3 → DoneElems s (exec (.bfi d a b x y) s) d (fun l j => m.bfi [A l j, B l j, D l j]))) ∧
     (s.Ready (vuse s.ty d [(a, x)] false) →
       (s.ty.toNat ≤ 11 →
         DoneElems s (exec (.abs d a x) s) d (fun l j => m.abs [A l j]) ∧
         DoneElems s (exec (.neg d a x) s) d (fun l j => m.neg [A l j]) ∧
         DoneElems s (exec (.rnd d a x) s) d (fun l j => m.rnd [A l j])) ∧
       (s.ty.toNat ≤ 7 →
         DoneElems s (exec (.not d a x) s) d (fun l j => m.not [A l j]) ∧
         DoneElems s (exec (.popc d a x) s) d (fun l j => m.popc [A l j]) ∧
         DoneElems s (exec (.clz d a x) s) d (fun l j => m.clz [A l j]) ∧
         DoneElems s (exec (.brev d a x) s) d (fun l j => m.brev [A l j])))) ∧
  (∀ (s : State) (d a : BitVec 7) (w : BitVec 1) (i : BitVec 10), s.FlagsQuiet → s.Ready (vuse s.ty d [(a, w)] false) →
     s.ty.toNat ≤ 7 →
     let m := s.alu
     let n := typeBits s.ty
     let A (l j : Nat) := elem n (s.lane s.ty a l) j
     let I : Nat := (i.toInt % (2 : Int) ^ n).toNat
     let signed := s.ty.toNat % 2 = 0
     -- the immediate's number, in an element of the width
     let J : Int := if (if signed then 2 ^ (n - 1) ≤ I else i.toInt < 0) then (I : Int) - (2 : Int) ^ n else I
     let v (x : Nat) : Int := if signed ∧ 2 ^ (n - 1) ≤ x then (x : Int) - (2 : Int) ^ n else x
     let lo : Int := if signed then -(2 : Int) ^ (n - 1) else 0
     let hi : Int := if signed then (2 : Int) ^ (n - 1) - 1 else (2 : Int) ^ n - 1
     let gives (o : Out) (z : Nat → Nat → Int) : Prop := ∃ op : Nat → Nat → Res, DoneElems s o d op ∧
       ∀ l j, (op l j).rep = Rep.none ∧ (op l j).val < 2 ^ n ∧ (s.sat = false → ((op l j).val : Int) = z l j % (2 : Int) ^ n) ∧
         (s.sat = true → v (op l j).val = max lo (min hi (z l j)))
     gives (exec (.addI d a w i) s) (fun l j => v (A l j) + J) ∧
     gives (exec (.mulI d a w i) s) (fun l j => v (A l j) * J) ∧
     DoneElems s (exec (.andI d a w i) s) d (fun l j => m.and [A l j, I]) ∧
     DoneElems s (exec (.orI d a w i) s) d (fun l j => m.or [A l j, I]) ∧
     DoneElems s (exec (.xorI d a w i) s) d (fun l j => m.xor [A l j, I]) ∧
     DoneElems s (exec (.shlI d a w i) s) d (fun l j => m.shl [A l j, I]) ∧
     DoneElems s (exec (.shrI d a w i) s) d (fun l j => m.shr [A l j, I]) ∧
     DoneElems s (exec (.sraI d a w i) s) d (fun l j => m.sra [A l j, I]))

/-- The integer functions of the vector ALU, for elements of 8, 16, 32 and 64 bits: with SAT = 0 results are taken modulo
2^w, with SAT = 1 the exact result is clamped to the range of the type; division truncates toward zero, gives all ones and
the flag DZ for a divisor of 0, and rem has the sign of a; mulh is the upper half of the exact product; shifts and rotations
count modulo w, sra of the signed number whatever the type; popc and clz count set and leading zero bits, brev reverses the
bits; bfe takes the field of the offset and length in b, cut at the width, extended by its sign in the signed types, bfi puts the
low bits of a into that field of d (05 R69, R86 to R90).
Float results of the vector ALU at their special cases, in f32, f64, f16 and bf16: a NaN operand gives the canonical NaN and
raises nothing; ∞ − ∞, 0 × ∞, 0/0 and ∞/∞ give it with the invalid flag and log NAN_PROD, a fused 0 × ∞ whatever is added; a finite
number other than zero divided by zero gives an infinity with the division-by-zero flag and logs DIV_ZERO; an infinity plus or
times a finite number is an infinity, a finite number divided by one a zero; abs and neg touch the sign bit only; min and max
return the operand that is no NaN (05 R70, R86 to R88).
A typed instruction under a MODE.T it does not accept traps TYPE_UNSUPPORTED before any effect, whatever lanes are
active (05 R67, R83, R85, R93, R96). -/
def Obligations.ElementFunctions : Prop :=
  (∀ (m : Alu) (a b d : Nat), m.t.toNat ≤ 7 →
     let w := typeBits m.t
     a < 2 ^ w → b < 2 ^ w → d < 2 ^ w →
     let signed := m.t.toNat % 2 = 0
     let sv (x : Nat) : Int := if 2 ^ (w - 1) ≤ x then (x : Int) - (2 : Int) ^ w else x
     let v (x : Nat) : Int := if signed then sv x else x
     let lo : Int := if signed then -(2 : Int) ^ (w - 1) else 0
     let hi : Int := if signed then (2 : Int) ^ (w - 1) - 1 else (2 : Int) ^ w - 1
     -- a result r of the exact value z
     let gives (r : Res) (z : Int) := r.rep = Rep.none ∧ r.val < 2 ^ w ∧
       (m.sat = false → (r.val : Int) = z % (2 : Int) ^ w) ∧ (m.sat = true → v r.val = max lo (min hi z))
     -- a field of bits
     let from_ := b % 256
     let count := if from_ < w then min (b / 256 % 256) (w - from_) else 0
     let part := a / 2 ^ from_ % 2 ^ count
     gives (m.add [a, b]) (v a + v b) ∧ gives (m.sub [a, b]) (v a - v b) ∧ gives (m.mul [a, b]) (v a * v b) ∧
     gives (m.fma false false [a, b, d]) (v d + v a * v b) ∧ gives (m.fma false true [a, b, d]) (v a * v b - v d) ∧
     gives (m.fma true false [a, b, d]) (v d - v a * v b) ∧ gives (m.neg [a]) (-(v a)) ∧ gives (m.abs [a]) (v a).natAbs ∧
     (b ≠ 0 → gives (m.div [a, b]) ((v a).tdiv (v b)) ∧
       v (m.rem [a, b]).val = (v a).tmod (v b) ∧ (m.rem [a, b]).rep = Rep.none) ∧
     (b = 0 → (m.div [a, b]).val = 2 ^ w - 1 ∧ (m.rem [a, b]).val = a ∧ (m.div [a, b]).rep = Rep.divZero ∧
       (m.rem [a, b]).rep = Rep.divZero) ∧
     v (m.minmax false [a, b]).val = min (v a) (v b) ∧ v (m.minmax true [a, b]).val = max (v a) (v b) ∧
     (m.rnd [a]).val = a ∧
     ((m.mulh [a, b]).val : Int) = (v a * v b) / (2 : Int) ^ w % (2 : Int) ^ w ∧
     (m.shl [a, b]).val = a * 2 ^ (b % w) % 2 ^ w ∧ (m.shr [a, b]).val = a / 2 ^ (b % w) ∧
     sv (m.sra [a, b]).val = sv a / (2 : Int) ^ (b % w) ∧ (m.sra [a, b]).val < 2 ^ w ∧
     (m.rol [a, b]).val = (a * 2 ^ (b % w) + a / 2 ^ (w - b % w)) % 2 ^ w ∧
     (m.not [a]).val = 2 ^ w - 1 - a ∧
     (m.and [a, b]).val = a &&& b ∧ (m.or [a, b]).val = a ||| b ∧ (m.xor [a, b]).val = a ^^^ b ∧
     (m.popc [a]).val = ((List.range w).filter fun i => a.testBit i).length ∧
     (m.clz [a]).val = (if a = 0 then w else w - 1 - a.log2) ∧
     (m.brev [a]).val < 2 ^ w ∧ (∀ i, i < w → (m.brev [a]).val.testBit i = a.testBit (w - 1 - i)) ∧
     (m.bfe [a, b]).val < 2 ^ w ∧
     v (m.bfe [a, b]).val = (if signed ∧ 0 < count ∧ 2 ^ (count - 1) ≤ part then (part : Int) - (2 : Int) ^ count else part) ∧
     (m.bfi [a, b, d]).val < 2 ^ w ∧
     ∀ i, i < w → (m.bfi [a, b, d]).val.testBit i =
       if from_ ≤ i ∧ i < from_ + count then a.testBit (i - from_) else d.testBit i) ∧
  (∀ (m : Alu) (a b d w mb : Nat),
     (m.t = 8 ∧ w = 32 ∧ mb = 23) ∨ (m.t = 9 ∧ w = 64 ∧ mb = 52) ∨ (m.t = 10 ∧ w = 16 ∧ mb = 10) ∨ (m.t = 11 ∧ w = 16 ∧ mb = 7) →
     a < 2 ^ w → b < 2 ^ w → d < 2 ^ w →
     let S := 2 ^ (w - 1)
     let I := 2 ^ (w - 1) - 2 ^ mb
     let nan (x : Nat) := I < x % S
     let inf (x : Nat) := x % S = I
     let zero (x : Nat) := x % S = 0
     let same := a / S = b / S
     let qnan : Res := ⟨I + 2 ^ (mb - 1), Rep.none⟩
     let invalid : Res := ⟨I + 2 ^ (mb - 1), Rep.invalid⟩
     let signed (x : Nat) : Res := ⟨(if same then 0 else S) + x, Rep.none⟩
     (nan a ∨ nan b → m.add [a, b] = qnan ∧ m.sub [a, b] = qnan ∧ m.mul [a, b] = qnan ∧ m.div [a, b] = qnan) ∧
     (inf a → inf b → (¬same → m.add [a, b] = invalid) ∧ (same → m.sub [a, b] = invalid) ∧ m.div [a, b] = invalid) ∧
     (inf a → zero b → m.mul [a, b] = invalid ∧ ∀ p q, m.fma p q [a, b, d] = invalid) ∧
     (zero a → inf b → m.mul [a, b] = invalid ∧ ∀ p q, m.fma p q [a, b, d] = invalid) ∧
     (zero a → zero b → m.div [a, b] = invalid) ∧
     (m.ftz = false → ¬nan a → ¬inf a → ¬zero a → zero b → m.div [a, b] = ⟨(if same then 0 else S) + I, Rep.divZero⟩) ∧
     (inf a → ¬nan b → ¬inf b → m.add [a, b] = ⟨a, Rep.none⟩ ∧ m.sub [a, b] = ⟨a, Rep.none⟩ ∧ m.div [a, b] = signed I ∧
       (m.ftz = false → ¬zero b → m.mul [a, b] = signed I)) ∧
     (¬nan a → ¬inf a → inf b → m.add [a, b] = ⟨b, Rep.none⟩ ∧ m.div [a, b] = signed 0) ∧
     m.abs [a] = ⟨a % S, Rep.none⟩ ∧ m.neg [a] = ⟨(a + S) % 2 ^ w, Rep.none⟩ ∧
     (nan a → nan b → m.minmax false [a, b] = qnan ∧ m.minmax true [a, b] = qnan) ∧
     (m.ftz = false → ¬nan a → nan b → m.minmax false [a, b] = ⟨a, Rep.none⟩ ∧ m.minmax true [a, b] = ⟨a, Rep.none⟩) ∧
     (m.ftz = false → nan a → ¬nan b → m.minmax false [a, b] = ⟨b, Rep.none⟩ ∧ m.minmax true [a, b] = ⟨b, Rep.none⟩)) ∧
  (∀ (s : State) (d a b : BitVec 7) (x y : BitVec 1) (w : BitVec 1) (i : BitVec 10) (c : BitVec 6) (t : BitVec 5),
     let refused (i : Instr) := exec i s = .next (s.trap 0x003)
     (s.Ready (vuse s.ty d [(a, x), (b, y)] false) →
       (12 ≤ s.ty.toNat → refused (.add d a b x y) ∧ refused (.sub d a b x y) ∧ refused (.mul d a b x y) ∧
         refused (.min d a b x y) ∧ refused (.max d a b x y)) ∧
       (8 ≤ s.ty.toNat → refused (.mulh d a b x y) ∧ refused (.and d a b x y) ∧ refused (.or d a b x y) ∧
         refused (.xor d a b x y) ∧ refused (.shl d a b x y) ∧ refused (.shr d a b x y) ∧ refused (.sra d a b x y) ∧
         refused (.rol d a b x y)) ∧
       (4 ≤ s.ty.toNat → refused (.rem d a b x y) ∧ refused (.bfe d a b x y)) ∧
       (4 ≤ s.ty.toNat → s.ty ≠ 8 → s.ty ≠ 9 → refused (.div d a b x y))) ∧
     (s.Ready (vuse s.ty d [(a, x), (b, y)] true) →
       (12 ≤ s.ty.toNat → refused (.fma d a b x y) ∧ refused (.fms d a b x y) ∧ refused (.fnma d a b x y)) ∧
       (4 ≤ s.ty.toNat → refused (.bfi d a b x y))) ∧
     (s.Ready (vuse s.ty d [(a, x)] false) →
       (12 ≤ s.ty.toNat → refused (.abs d a x) ∧ refused (.neg d a x) ∧ refused (.rnd d a x)) ∧
       (8 ≤ s.ty.toNat → refused (.not d a x) ∧ refused (.popc d a x) ∧ refused (.clz d a x) ∧ refused (.brev d a x)) ∧
       (s.ty ≠ 8 → refused (.exp2 d a x) ∧ refused (.exp d a x) ∧ refused (.log2 d a x) ∧ refused (.log d a x) ∧
         refused (.sin2pi d a x) ∧ refused (.cos2pi d a x) ∧ refused (.tanh d a x) ∧ refused (.erf d a x)) ∧
       (s.ty ≠ 8 → s.ty ≠ 9 → refused (.rcp d a x) ∧ refused (.rsq d a x) ∧ refused (.sqrt d a x))) ∧
     (s.Ready (vuse s.ty d [(a, w)] false) → 8 ≤ s.ty.toNat → refused (.addI d a w i) ∧ refused (.mulI d a w i) ∧
       refused (.andI d a w i) ∧ refused (.orI d a w i) ∧ refused (.xorI d a w i) ∧ refused (.shlI d a w i) ∧
       refused (.shrI d a w i) ∧ refused (.sraI d a w i)) ∧
     (s.Ready (cmpUse s.ty c a b x y) → 4 ≤ s.ty.toNat → s.ty ≠ 8 → s.ty ≠ 9 → refused (.vcmpEq c a b x y) ∧
       refused (.vcmpNe c a b x y) ∧ refused (.vcmpLt c a b x y) ∧ refused (.vcmpLe c a b x y) ∧ refused (.vcmpUn c a b x y)) ∧
     (s.Ready { ok := pairOk t a && pairOk s.ty d, reads := (vregs t a).map fun r => (r, w == 1), writes := vregs s.ty d } →
       18 ≤ s.ty.toNat → refused (.cvt d a w t)))

/-- Finite float results, in f32, f64, f16 and bf16, are the exact result rounded once: under RM 0 to the nearest number of the
format, of two as near to the one with an even code; under RM 1 towards zero; under RM 2 and 3 to the next number up or down. Beyond
the largest number, where the result rounded without a bound lies beyond it, an infinity, or the largest number where the mode rounds
towards zero, with OF and NX set and OVERFLOW logged; else NX is set where the result is not the exact one, with UF where it is tiny as
rounded without a bound below; no other flag, and nothing is logged (05 R70, R86, R87, 10 R168). A sum of zero is −0 where both
terms are negative zeros, and, of terms of different sign, under RM 3; a zero product or quotient has the sign of its operands. rnd
gives the integral number the mode chooses, with the operand's sign and no flag; min and max give the lesser and the greater
operand, −0 below +0 (05 R86, R88; stated with FTZ off). An exact result is written Z / D in units of the format's least number. -/
def Obligations.FloatRounding : Prop :=
  ∀ (m : Alu) (a b d w mb : Nat),
    (m.t = 8 ∧ w = 32 ∧ mb = 23) ∨ (m.t = 9 ∧ w = 64 ∧ mb = 52) ∨ (m.t = 10 ∧ w = 16 ∧ mb = 10) ∨ (m.t = 11 ∧ w = 16 ∧ mb = 7) →
    m.ftz = false →
    let top := 2 ^ (w - 1) - 2 ^ mb - 1
    let V (x : Nat) : Int := units w mb x
    let K : Int := oneUnits w mb
    let rounds (r : Res) (Z D : Int) : Prop := roundsOnce w mb m.rm r Z D
    let sgn (x : Nat) : Nat := x / 2 ^ (w - 1) % 2
    -- the bits of a zero of a sign; the sign of a sum of zero
    let zero (g : Nat) : Nat := 2 ^ (w - 1) * g
    let cancels (g h : Nat) : Nat := if g = h then g else if m.rm = 3 then 1 else 0
    isFinite w top a → isFinite w top b →
      rounds (m.add [a, b]) (V a + V b) 1 ∧ rounds (m.sub [a, b]) (V a - V b) 1 ∧ rounds (m.mul [a, b]) (V a * V b) K ∧
      (V b ≠ 0 → rounds (m.div [a, b]) (if 0 < V b then V a * K else -(V a * K)) (V b).natAbs) ∧
      (V a + V b = 0 → (m.add [a, b]).val = zero (cancels (sgn a) (sgn b))) ∧
      (V a - V b = 0 → (m.sub [a, b]).val = zero (cancels (sgn a) (1 - sgn b))) ∧
      (V a * V b = 0 → (m.mul [a, b]).val = zero ((sgn a + sgn b) % 2)) ∧
      (V a = 0 → V b ≠ 0 → (m.div [a, b]).val = zero ((sgn a + sgn b) % 2)) ∧
      ((m.rnd [a]).rep = Rep.none ∧ (m.rnd [a]).val < 2 ^ w ∧ sgn (m.rnd [a]).val = sgn a ∧ V (m.rnd [a]).val = integral m.rm (V a) K * K) ∧
      (∀ big, ((m.minmax big [a, b]).val = a ∨ (m.minmax big [a, b]).val = b) ∧ (m.minmax big [a, b]).rep = Rep.none ∧
        V (m.minmax big [a, b]).val = (if big then max (V a) (V b) else min (V a) (V b)) ∧
        (V a = 0 → V b = 0 → sgn (m.minmax big [a, b]).val = if big then min (sgn a) (sgn b) else max (sgn a) (sgn b))) ∧
      (isFinite w top d →
        rounds (m.fma false false [a, b, d]) (V a * V b + K * V d) K ∧ rounds (m.fma false true [a, b, d]) (V a * V b - K * V d) K ∧
        rounds (m.fma true false [a, b, d]) (K * V d - V a * V b) K ∧
        (V a * V b + K * V d = 0 → (m.fma false false [a, b, d]).val = zero (cancels ((sgn a + sgn b) % 2) (sgn d))) ∧
        (V a * V b - K * V d = 0 → (m.fma false true [a, b, d]).val = zero (cancels ((sgn a + sgn b) % 2) (1 - sgn d))) ∧
        (K * V d - V a * V b = 0 → (m.fma true false [a, b, d]).val = zero (cancels (1 - (sgn a + sgn b) % 2) (sgn d))))

/-- The untyped moves in each active lane: sel where its bit of sB is set, mov and movs one register, or the pair under the
64-bit types, li the immediate, lid the lane index; nothing else changes (05 R92).
cvt from one of the types 0 to 17 to another: each active lane's element in the low bits of the source register or pair is
converted into the low bits of the destination with zeros above, AEF gains what the conversions raise and no other flag. To the same
type a number is copied. Between integers the value is the source modulo 2^w, with SAT clamped to the range of the destination's type. A
number of a float type or of e8m0 goes to an integer by the rounding mode, to the nearest bound beyond the range, and a NaN to 0, both
with IV, logged, where SAT = 0. To a float type any number is rounded once; beyond the largest OF and NX are set, and SAT = 0 logs it
and gives what the mode rounds to, in e4m3 the NaN 0x7F, in e3m2, e2m3 and e2m1 the largest, where SAT = 1 gives the largest in all and
logs nothing; an infinity stays one or is such an overflow, a NaN gives the canonical one, and +0 where the type has none. To e8m0 goes
the exponent of the magnitude, clamped to −127 to 127, with NX where that is not the number, and 0xFF for infinities and NaNs, invalid
(05 R93, R94; values stated with FTZ off; that NX alone is set below the least exponent is the model's reading, log 61).
The packing instructions, in each active lane, every source read before any write: pk8 and pk4 put the low 8 or 4 bits of 4
or 8 registers into one, upk8 and upk4 take them out with zeros above; pk6 puts the low 6 bits of 21 registers into a
quadruple with its top two bits 0, and upk6 takes them out (05 R66, R95). Lanes that are not active keep their values. -/
def Obligations.MovesAndConversions : Prop :=
  (∀ (s : State) (d a : BitVec 7) (b : BitVec 6) (x y : BitVec 1) (i : BitVec 18), s.FlagsQuiet →
     let pair (o : Out) (f : Nat → W64) := ∃ t, o = .next t ∧
       (∀ l, l < 64 → t.grp.vpair d.toNat l = if s.active.getLsbD l then f l else s.grp.vpair d.toNat l) ∧
       s.SameV t [d.toNat, d.toNat + 1] ∧ s.SameS t [] ∧ s.SameM t [] ∧ s.StandsAt t (s.sp.pc + 4) ∧ s.OnlyRegs t ∧ s.SameBytes t
     (s.Ready { reads := [(.v a.toNat, x == 1), (.s b, y == 1)], writes := [.v d.toNat] } →
       DoneV s (exec (.sel d a b x y) s) d.toNat fun l =>
         if (s.readS b).getLsbD l then s.grp.vreg a.toNat l else s.grp.vreg d.toNat l) ∧
     (s.Ready (vuse s.ty d [(a, x)] false) →
       (is64 s.ty = false → DoneV s (exec (.mov d a x) s) d.toNat fun l => s.grp.vreg a.toNat l) ∧
       (is64 s.ty = true → pair (exec (.mov d a x) s) fun l => s.grp.vpair a.toNat l)) ∧
     (s.Ready { ok := pairOk s.ty d, reads := [(.s b, x == 1)], writes := vregs s.ty d } →
       (is64 s.ty = false → DoneV s (exec (.movs d b x) s) d.toNat fun _ => field (s.readS b) 0 32) ∧
       (is64 s.ty = true → pair (exec (.movs d b x) s) fun _ => s.readS b)) ∧
     (s.Ready { writes := [.v d.toNat] } →
       DoneV s (exec (.lid d) s) d.toNat (fun l => BitVec.ofNat 32 l) ∧
       DoneV s (exec (.li d i) s) d.toNat (fun _ => i.signExtend 32))) ∧
  (∀ (s : State) (d a : BitVec 7) (w : BitVec 1) (t : BitVec 5), s.FlagsQuiet → t.toNat ≤ 17 → s.ty.toNat ≤ 17 →
     (s.Ready { ok := pairOk t a && pairOk s.ty d, reads := (vregs t a).map fun r => (r, w == 1), writes := vregs s.ty d } →
       let src (l : Nat) := s.lane t a l % 2 ^ typeBits t
       ∃ u, exec (.cvt d a w t) s = .next u ∧
         (∀ l, l < 64 → u.lane s.ty d l = if s.active.getLsbD l then (convert s.alu t (src l)).val % 2 ^ (if is64 s.ty then 64 else 32)
           else s.lane s.ty d l) ∧
         (∀ i, i < 64 → (u.grp.aef.getLsbD i = true ↔ s.grp.aef.getLsbD i = true ∨
           ∃ l, l < 64 ∧ s.active.getLsbD l = true ∧ (convert s.alu t (src l)).rep.fl.getLsbD i = true)) ∧
         s.SameV u (if is64 s.ty then [d.toNat, d.toNat + 1] else [d.toNat]) ∧ s.SameS u [] ∧ s.SameM u [] ∧
         s.StandsAt u (s.sp.pc + 4) ∧ s.OnlyArith u ∧ s.SameBytes u) ∧
     ∀ (m : Alu) (x : Nat) (neg : Bool), m.t.toNat ≤ 17 → x < 2 ^ typeBits t →
       let r := convert m t x
       (t = m.t → ¬isNaN t x → r = ⟨x, Rep.none⟩) ∧
       -- to an integer
       (m.t.toNat ≤ 7 →
         let wide := typeBits m.t
         let signed := m.t.toNat % 2 = 0
         let lo : Int := if signed then -(2 : Int) ^ (wide - 1) else 0
         let hi : Int := if signed then (2 : Int) ^ (wide - 1) - 1 else (2 : Int) ^ wide - 1
         let bits (z : Int) : Prop := (r.val : Int) = z % (2 : Int) ^ wide
         let bad (z : Int) : Prop := bits z ∧ r.rep = if m.sat then Rep.none else Rep.cvtInvalid
         (t.toNat ≤ 7 → ∀ Z, isNumber t x neg Z 1 →
           r.rep = Rep.none ∧ (m.sat = false → bits Z) ∧ (m.sat = true → bits (max lo (min hi Z)))) ∧
         (7 < t.toNat → (isNaN t x → bad 0) ∧ (isInfinite t x neg → bad (if neg then lo else hi)) ∧
           (m.ftz = false → ∀ Z D, isNumber t x neg Z D →
             let z := integral m.rm Z D
             (z < lo → bad lo) ∧ (hi < z → bad hi) ∧
             (lo ≤ z → z ≤ hi → bits z ∧ r.rep = if Z % D = 0 then Rep.none else Rep.inexact)))) ∧
       -- to a float type
       (t ≠ m.t → ∀ w' mb top, shape m.t = some (w', mb, top) →
         let S : Nat := if neg then 2 ^ (w' - 1) else 0
         let K : Int := oneUnits w' mb
         let beyond : Res := if m.sat then ⟨S + top, Rep.quietOverflow⟩ else ⟨if m.t = 12 then 0x7F else S + top, Rep.overflow⟩
         (isNaN t x → r = if m.t.toNat ≤ 13 then ⟨if m.t = 12 then 0x7F else top + 1 + 2 ^ (mb - 1), Rep.none⟩
           else ⟨0, if m.sat then Rep.none else Rep.cvtInvalid⟩) ∧
         (isInfinite t x neg → r = if m.t.toNat ≤ 11 ∨ m.t = 13 then ⟨S + top + 1, Rep.none⟩ else beyond) ∧
         (m.ftz = false → ∀ Z D, isNumber t x neg Z D →
           (Z = 0 → r = ⟨S, Rep.none⟩) ∧
           (¬overflows mb top m.rm (Z * K) D → roundsFinite w' mb top m.rm r (Z * K) D) ∧
           (overflows mb top m.rm (Z * K) D → if m.sat = false ∧ (m.t.toNat ≤ 11 ∨ m.t = 13) then roundsOnce w' mb m.rm r (Z * K) D
             else r = beyond))) ∧
       -- to e8m0
       (m.t = 17 → t ≠ 17 → (isNaN t x ∨ isInfinite t x neg → r = ⟨255, Rep.cvtInvalid⟩) ∧
         (m.ftz = false → ∀ Z D, isNumber t x neg Z D →
           let M : Int := Z.natAbs * (2 : Int) ^ 127
           r.val ≤ 254 ∧ (r.val = 0 ∨ D * (2 : Int) ^ r.val ≤ M) ∧ (r.val = 254 ∨ M < D * (2 : Int) ^ (r.val + 1)) ∧
           r.rep = if Z * (2 : Int) ^ 127 = D * (2 : Int) ^ r.val then Rep.none else Rep.inexact))) ∧
  (∀ (s : State) (d a : BitVec 7) (x : BitVec 1),
     let done (o : Out) (n : Nat) (p : State → Nat → Prop) := ∃ t, o = .next t ∧
       (∀ l, l < 64 → s.active.getLsbD l = true → p t l) ∧
       (∀ l r, l < 64 → s.active.getLsbD l = false → t.grp.vreg r l = s.grp.vreg r l) ∧
       s.SameV t ((List.range n).map (d.toNat + ·)) ∧ s.SameS t [] ∧ s.SameM t [] ∧ s.StandsAt t (s.sp.pc + 4) ∧ s.OnlyRegs t ∧
       s.SameBytes t
     let V (t : State) (r l : Nat) := (t.grp.vreg r l).toNat
     -- bits lo to lo + n - 1 of the 128 bits of a quadruple
     let quad (t : State) (r l : Nat) := V t r l + 2 ^ 32 * V t (r + 1) l + 2 ^ 64 * V t (r + 2) l + 2 ^ 96 * V t (r + 3) l
     (s.Ready { reads := (vrange a.toNat 4).map fun r => (r, x == 1), writes := vrange d.toNat 1 } →
       done (exec (.pk8 d a x) s) 1 fun t l => ∀ j, j < 4 → V t d.toNat l / 2 ^ (8 * j) % 256 = V s (a.toNat + j) l % 256) ∧
     (s.Ready { reads := (vrange a.toNat 1).map fun r => (r, x == 1), writes := vrange d.toNat 4 } →
       done (exec (.upk8 d a x) s) 4 fun t l => ∀ j, j < 4 → V t (d.toNat + j) l = V s a.toNat l / 2 ^ (8 * j) % 256) ∧
     (s.Ready { reads := (vrange a.toNat 8).map fun r => (r, x == 1), writes := vrange d.toNat 1 } →
       done (exec (.pk4 d a x) s) 1 fun t l => ∀ j, j < 8 → V t d.toNat l / 2 ^ (4 * j) % 16 = V s (a.toNat + j) l % 16) ∧
     (s.Ready { reads := (vrange a.toNat 1).map fun r => (r, x == 1), writes := vrange d.toNat 8 } →
       done (exec (.upk4 d a x) s) 8 fun t l => ∀ j, j < 8 → V t (d.toNat + j) l = V s a.toNat l / 2 ^ (4 * j) % 16) ∧
     (s.Ready { ok := d.toNat % 4 == 0, reads := (vrange a.toNat 21).map fun r => (r, x == 1), writes := vrange d.toNat 4 } →
       done (exec (.pk6 d a x) s) 4 fun t l => quad t d.toNat l < 2 ^ 126 ∧
         ∀ j, j < 21 → quad t d.toNat l / 2 ^ (6 * j) % 64 = V s (a.toNat + j) l % 64) ∧
     (s.Ready { ok := a.toNat % 4 == 0, reads := (vrange a.toNat 4).map fun r => (r, x == 1), writes := vrange d.toNat 21 } →
       done (exec (.upk6 d a x) s) 21 fun t l => ∀ j, j < 21 → V t (d.toNat + j) l = quad s a.toNat l / 2 ^ (6 * j) % 64))

/-! ## Conversion, packing, special functions -/

/-- The special functions apply their function to each active lane's value, under f32, and rcp, rsq and sqrt under f64 as well. A NaN gives
the canonical NaN and raises nothing. rcp is 1/x, sqrt and rsq are √x and 1/√x rounded once; of a zero rcp and rsq give the infinity of
its sign with the division-by-zero flag and sqrt that zero, of ∞ rcp and rsq give a zero and sqrt ∞, and below zero rsq and sqrt are
invalid. In f32: exp2 and exp of a zero are 1, of −∞ +0, of +∞ +∞, and from 256 on they overflow and from −256 on underflow; exp2 of an
integer is exact; log2 and log of 1 are +0, of a power of two log2 is exact, of a zero −∞ with the division-by-zero flag, of +∞ +∞, below
zero invalid; sin2pi and cos2pi are exact at multiples of 1/4, a zero of the sign of x, or +0, and of ±∞ invalid; tanh and erf of a zero
are that zero and of an infinity ±1 (05 R96, R97, R98, R70; values stated with FTZ off; the rounding of the transcendental values is
not stated here, log 10). -/
def Obligations.SpecialFunctions : Prop :=
  (∀ (s : State) (d a : BitVec 7) (x : BitVec 1), s.FlagsQuiet → s.Ready (vuse s.ty d [(a, x)] false) →
    let f := fmtOf s.ty
    let A (l j : Nat) := f.read s.ftz (elem (typeBits s.ty) (s.lane s.ty a l) j)
    (s.ty = 8 ∨ s.ty = 9 →
      DoneElems s (exec (.rcp d a x) s) d (fun l j => rcpV f s.rm s.ftz (A l j)) ∧
      DoneElems s (exec (.rsq d a x) s) d (fun l j => f.rsqV s.rm s.ftz (A l j)) ∧
      DoneElems s (exec (.sqrt d a x) s) d (fun l j => f.sqrtV s.rm s.ftz (A l j))) ∧
    (s.ty = 8 →
      DoneElems s (exec (.exp2 d a x) s) d (fun l j => expV true f s.rm s.ftz (A l j)) ∧
      DoneElems s (exec (.exp d a x) s) d (fun l j => expV false f s.rm s.ftz (A l j)) ∧
      DoneElems s (exec (.log2 d a x) s) d (fun l j => logV true f s.rm s.ftz (A l j)) ∧
      DoneElems s (exec (.log d a x) s) d (fun l j => logV false f s.rm s.ftz (A l j)) ∧
      DoneElems s (exec (.sin2pi d a x) s) d (fun l j => turnV false f s.rm s.ftz (A l j)) ∧
      DoneElems s (exec (.cos2pi d a x) s) d (fun l j => turnV true f s.rm s.ftz (A l j)) ∧
      DoneElems s (exec (.tanh d a x) s) d (fun l j => sigmoidV false f s.rm s.ftz (A l j)) ∧
      DoneElems s (exec (.erf d a x) s) d (fun l j => sigmoidV true f s.rm s.ftz (A l j)))) ∧
  (∀ (t : BitVec 5) (w mb top x : Nat) (rm : BitVec 2) (neg : Bool), t = 8 ∨ t = 9 → shape t = some (w, mb, top) → x < 2 ^ w →
    let f := fmtOf t
    let v := f.read false x
    let S : Nat := if neg then 2 ^ (w - 1) else 0
    let K : Int := oneUnits w mb
    let X : Int := units w mb x
    let qnan := top + 1 + 2 ^ (mb - 1)
    (isNaN t x → rcpV f rm false v = ⟨qnan, Rep.none⟩ ∧ f.rsqV rm false v = ⟨qnan, Rep.none⟩ ∧ f.sqrtV rm false v = ⟨qnan, Rep.none⟩) ∧
    (x = S → rcpV f rm false v = ⟨S + top + 1, Rep.divZero⟩ ∧ f.rsqV rm false v = ⟨S + top + 1, Rep.divZero⟩ ∧
      f.sqrtV rm false v = ⟨S, Rep.none⟩) ∧
    (isInfinite t x neg → rcpV f rm false v = ⟨S, Rep.none⟩ ∧
      (neg = false → f.rsqV rm false v = ⟨0, Rep.none⟩ ∧ f.sqrtV rm false v = ⟨x, Rep.none⟩)) ∧
    (2 ^ (w - 1) < x → ¬isNaN t x → f.rsqV rm false v = ⟨qnan, Rep.invalid⟩ ∧ f.sqrtV rm false v = ⟨qnan, Rep.invalid⟩) ∧
    (isFinite w top x → X ≠ 0 → roundsOnce w mb rm (rcpV f rm false v) (if X < 0 then -(K * K) else K * K) X.natAbs) ∧
    (0 < x → x ≤ top → rootsOnce w top mb rm (f.sqrtV rm false v) (X * K) 1 ∧ rootsOnce w top mb rm (f.rsqV rm false v) (K * K * K) X)) ∧
  ∀ (x : Nat) (rm : BitVec 2) (neg : Bool), x < 2 ^ 32 →
    let f := fmtOf 8
    let v := f.read false x
    let S : Nat := if neg then 2 ^ 31 else 0
    let X : Int := units 32 23 x
    let K : Int := (2 : Int) ^ 149
    let one (n : Bool) : Res := ⟨(if n then 2 ^ 31 else 0) + 0x3F800000, Rep.none⟩
    let nan (r : Res) := r = ⟨0x7FC00000, Rep.none⟩
    let invalid (r : Res) := r = ⟨0x7FC00000, Rep.invalid⟩
    (isNaN 8 x → nan (expV true f rm false v) ∧ nan (expV false f rm false v) ∧ nan (logV true f rm false v) ∧
      nan (logV false f rm false v) ∧ nan (turnV false f rm false v) ∧ nan (turnV true f rm false v) ∧
      nan (sigmoidV false f rm false v) ∧ nan (sigmoidV true f rm false v)) ∧
    (x = S →
      (∀ b, expV b f rm false v = one false ∧ logV b f rm false v = ⟨0xFF800000, Rep.divZero⟩ ∧ sigmoidV b f rm false v = ⟨S, Rep.none⟩)) ∧
    (x = 0x3F800000 → ∀ b, logV b f rm false v = ⟨0, Rep.none⟩) ∧
    (x = S + 0x7F800000 → ∀ b, expV b f rm false v = ⟨if neg then 0 else x, Rep.none⟩ ∧ sigmoidV b f rm false v = one neg ∧
      invalid (turnV b f rm false v) ∧ (neg = false → logV b f rm false v = ⟨x, Rep.none⟩)) ∧
    (2 ^ 31 < x → ¬isNaN 8 x → ∀ b, invalid (logV b f rm false v)) ∧
    (isFinite 32 0x7F7FFFFF x →
      (∀ b, (256 * K ≤ X → expV b f rm false v = ⟨if rm = 0 ∨ rm = 2 then 0x7F800000 else 0x7F7FFFFF, Rep.overflow⟩) ∧
        (X ≤ -256 * K → expV b f rm false v = ⟨if rm = 2 then 1 else 0, Rep.underflow⟩)) ∧
      (∀ n : Nat, n ≤ 276 → X = ((n : Int) - 149) * K →
        (expV true f rm false v).rep = Rep.none ∧ units 32 23 (expV true f rm false v).val = (2 : Int) ^ n ∧
          (expV true f rm false v).val < 2 ^ 31) ∧
      (∀ n : Nat, X = (2 : Int) ^ n →
        (logV true f rm false v).rep = Rep.none ∧ units 32 23 (logV true f rm false v).val = ((n : Int) - 149) * K ∧
          (logV true f rm false v).val < 2 ^ 32) ∧
      ∀ j : Int, 4 * X = j * K →
        turnV false f rm false v = (if j % 2 = 0 then ⟨x / 2 ^ 31 * 2 ^ 31, Rep.none⟩ else one (j % 4 == 3)) ∧
        turnV true f rm false v = if j % 2 = 1 then ⟨0, Rep.none⟩ else one (j % 4 == 2))

/-! ## Cross-lane instructions -/

/-- The cross-lane instructions of a split that alone holds their whole live membership K, that of sB or the one with which it has
joined others already. perm.z and perm.s give each active lane the value of the lane its vD names, a pair under the 64-bit types, where
that is a member, else zero or its own; bcast gives the value of the lowest member. redu combines, under i32, n32, i64, n64, f32 and f64,
the values of the members that the guard leaves in a fixed butterfly by lane index, an absent value on either side adding nothing, and
gives sD the value extended, or the identity where there is none; scan.add combines them in ascending lane order and gives each active
lane the result up to and with its own; AEF gains the flags of those steps. With n32 and SAT = 0 that is the sum modulo 2^32, the least
and the greatest of the values (05 R99 to R102; what add, min and max give for two values is stated by IntegerFunctions, FloatRounding
and FloatSpecialCases; stated with the trace off). -/
def Obligations.CrossLane : Prop :=
  ∀ (s : State) (d a : BitVec 7) (c b : BitVec 6) (x y : BitVec 1), s.FlagsQuiet → s.grp.tracectl = 0 →
    let K := s.sp.joined.getD (s.readS b) &&& widthMask s.width &&& s.grp.live
    let member : List (Reg × Bool) := if s.sp.joined.isSome then [] else [(.s b, y == 1)]
    s.sp.mask = K → s.grp.splits.list.all (fun q => q.1 == s.k || !q.2.waitsAt s.sp.pc) = true → s.grp.overflow = [] →
    let A (l : Nat) := s.lane s.ty a l
    let I (l : Nat) := (s.grp.vreg d.toNat l).toNat
    let into := if is64 s.ty then [d.toNat, d.toNat + 1] else [d.toNat]
    let moves (o : Out) (f : Nat → Nat) : Prop := ∃ t, o = .next t ∧
      (∀ l, l < 64 → t.lane s.ty d l = if s.active.getLsbD l then f l else s.lane s.ty d l) ∧
      s.SameS t [] ∧ s.SameV t into ∧ s.SameM t [] ∧ s.StandsAt t (s.sp.pc + 4) ∧ s.OnlyRegs t ∧ s.SameBytes t
    (s.Ready (permUse s.ty d a x member true) →
      moves (exec (.permZ d a b x y) s) (fun l => if I l < s.width ∧ K.getLsbD (I l) = true then A (I l) else 0) ∧
      moves (exec (.permS d a b x y) s) (fun l => if I l < s.width ∧ K.getLsbD (I l) = true then A (I l) else A l)) ∧
    (s.Ready (permUse s.ty d a x member false) → ∀ l0, K.getLsbD l0 = true → (∀ j, j < l0 → K.getLsbD j = false) →
      moves (exec (.bcast d a b x y) s) (fun _ => A l0)) ∧
    (s.ty.toNat ≤ 3 ∨ s.ty = 8 ∨ s.ty = 9 →
      -- what lane i contributes; two values combined by an operation, absent where both are
      let C (i : Nat) : Option Nat := if i < s.width ∧ K.getLsbD i = true ∧ s.guard.getLsbD i = true then some (A i) else none
      let two (op : List Nat → Res) (p q : Option Nat) : Option Nat × BitVec 6 := match p, q with
        | some p, some q => ((op [p, q]).val, (op [p, q]).rep.fl)
        | some p, none => (some p, 0)
        | none, q => (q, 0)
      let full (v : Nat) : W64 := if s.ty = 0 then (BitVec.ofNat 32 v).signExtend 64 else BitVec.ofNat 64 v
      let folds (o : Out) (op : List Nat → Res) (identity : Nat) : Prop :=
        ∃ X : Nat → Nat → Option Nat, (∀ i, X 0 i = C i) ∧ (∀ n i, X (n + 1) i = (two op (X n i) (X n (i + 2 ^ n))).1) ∧
          DoneSum s o c (full ((X 6 0).getD identity)) fun f =>
            ∃ n i, n < 6 ∧ i % 2 ^ (n + 1) = 0 ∧ i < 64 ∧ (two op (X n i) (X n (i + 2 ^ n))).2.getLsbD f = true
      (s.Ready (reduUse s.ty [.s c] a x member true) →
        folds (exec (.reduAdd c a b x y) s) s.alu.add 0 ∧
        folds (exec (.reduMin c a b x y) s) (s.alu.minmax false) (match s.ty.toNat with
          | 0 => 2 ^ 31 - 1 | 1 => 2 ^ 32 - 1 | 2 => 2 ^ 63 - 1 | 3 => 2 ^ 64 - 1 | 8 => 0x7F800000 | _ => 0x7FF0000000000000) ∧
        folds (exec (.reduMax c a b x y) s) (s.alu.minmax true) (match s.ty.toNat with
          | 0 => 2 ^ 31 | 2 => 2 ^ 63 | 8 => 0xFF800000 | 9 => 0xFFF0000000000000 | _ => 0)) ∧
      (s.Ready (reduUse s.ty (vregs s.ty d) a x member (pairOk s.ty d)) →
        ∃ Y : Nat → Option Nat, Y 0 = none ∧ (∀ i, Y (i + 1) = (two s.alu.add (Y i) (C i)).1) ∧
        ∃ t, exec (.scanAdd d a b x y) s = .next t ∧
          (∀ l, l < 64 → t.lane s.ty d l = if s.active.getLsbD l then (Y (l + 1)).getD 0 else s.lane s.ty d l) ∧
          (∀ f, f < 64 → (t.grp.aef.getLsbD f = true ↔ s.grp.aef.getLsbD f = true ∨
            ∃ i, i < 64 ∧ (two s.alu.add (Y i) (C i)).2.getLsbD f = true)) ∧
          (s.saveFault .elog = 0 → t.grp.due = s.grp.due) ∧
          s.SameS t [] ∧ s.SameV t into ∧ s.SameM t [] ∧ s.StandsAt t (s.sp.pc + 4) ∧ s.OnlyArith t ∧ s.SameBytes t)) ∧
    (s.ty = 1 → s.sat = false →
      let who := (List.range s.width).filter fun l => K.getLsbD l && s.guard.getLsbD l
      (s.Ready (reduUse s.ty [.s c] a x member true) →
        DoneS s (exec (.reduAdd c a b x y) s) c (BitVec.ofNat 64 ((who.map A).sum % 2 ^ 32)) ∧
        DoneS s (exec (.reduMin c a b x y) s) c (BitVec.ofNat 64 ((who.map A).foldl Nat.min (2 ^ 32 - 1))) ∧
        DoneS s (exec (.reduMax c a b x y) s) c (BitVec.ofNat 64 ((who.map A).foldl Nat.max 0))) ∧
      (s.Ready (reduUse s.ty (vregs s.ty d) a x member (pairOk s.ty d)) →
        DoneV s (exec (.scanAdd d a b x y) s) d.toNat (fun l =>
          BitVec.ofNat 32 ((((List.range (l + 1)).filter fun i => i ∈ who).map A).sum))))

/-! ## Memory instructions -/

/-- Where an access of n bytes at offset b of a record lands: at b within EXTENT and the allocation; beyond, by BOUNDS: a
trap, nowhere, the largest element that fits, or unchecked but for the allocation; and its space: gang memory, bank memory
inside a held region, or a virtual address. Lanes are placed in order, the first that may not be reached decides (06 R106,
R107). -/
def Obligations.BoundsRule : Prop :=
  ∀ (s : State) (r : W256) (es n b lane : Nat), 0 < es →
    let avail := s.alloc - (bufBase r).toNat
    let gmem := bufSpace r = 1
    let limit := if bufSpace r = 1 then min (bufExtent r).toNat avail else (bufExtent r).toNat
    (b + n ≤ limit → resolve s.alloc r es n b = .ok (some b)) ∧
    (limit < b + n →
      (bufBounds r = 0 → resolve s.alloc r es n b = .error cBOUNDS) ∧
      (bufBounds r = 1 → resolve s.alloc r es n b = .ok none) ∧
      (bufBounds r = 2 →
        (∀ m, es ∣ m → m + n ≤ limit → (∀ m', es ∣ m' → m' + n ≤ limit → m' ≤ m) →
          resolve s.alloc r es n b = .ok (some m)) ∧
        (limit < n → resolve s.alloc r es n b = .ok none)) ∧
      (bufBounds r = 3 →
        (gmem → avail < b + n → resolve s.alloc r es n b = .error cGMEM_RANGE) ∧
        (¬gmem ∨ b + n ≤ avail → resolve s.alloc r es n b = .ok (some b)))) ∧
    (let a := bufBase r + BitVec.ofNat 64 b
     (∃ x, s.accessAt r lane n b none = .ok x ∧ x.where_ = (lane, .nowhere, a, n)) ∧
     (gmem → ∃ x, s.accessAt r lane n b (some b) = .ok x ∧ x.where_ = (lane, .gmem, a, n)) ∧
     (bufSpace r = 2 →
      ((bufBase r).toNat < 2 ^ 29 → a.toNat < 2 ^ 29 → s.bankHeld s.gang.vf a.toNat n = true →
        ∃ x, s.accessAt r lane n b (some b) = .ok x ∧ x.where_ = (lane, .bank, a, n)) ∧
      (2 ^ 29 ≤ (bufBase r).toNat ∨ 2 ^ 29 ≤ a.toNat ∨ s.bankHeld s.gang.vf a.toNat n = false →
        s.accessAt r lane n b (some b) = .error (cBANK_RANGE, a))) ∧
     (bufSpace r = 0 ∨ bufSpace r = 3 →
      ∃ x, s.accessAt r lane n b (some b) = .ok x ∧ x.where_ = (lane, .virt, a, n))) ∧
    ∀ l : List (Nat × Nat),
      let one (p : Nat × Nat) : Chk Acc := match resolve s.alloc r es n p.2 with
        | .error c => .error (c, bufBase r + BitVec.ofNat 64 p.2)
        | .ok x => s.accessAt r p.1 n p.2 x
      match s.laneAccs r es n l with
      | .ok accs => accs.length = l.length ∧ ∀ (i : Nat) (p : Nat × Nat), l[i]? = some p → ∃ a, accs[i]? = some a ∧ one p = .ok a
      | .error f => ∃ (i : Nat) (p : Nat × Nat), l[i]? = some p ∧ one p = .error f ∧
          ∀ (j : Nat) (q : Nat × Nat), j < i → l[j]? = some q → ∃ a, one q = .ok a

/-- The loads: each checks its record and its lanes before any is performed, and goes in flight with its destination empty.
ld takes elements of 1, 2 or 4 bytes of any space, ld.acq a scope besides, ld.c and ld.k gang memory only, ld.w elements of 8
bytes into a pair, ld.s one element of any size for the split (06 R108, R109, R111, R114 to R117, R121).
The stores: each checks its record, which must be writable, and its lanes before any is performed, and goes to the store
queue with its data captured. st.rel reads a scope, st.f takes gang memory only, st.w a pair of 8 bytes, st.s one element for
the split (06 R108, R109, R111, R114 to R117, R121). -/
def Obligations.LoadsAndStoresIssue : Prop :=
  (∀ (s : State) (d a : BitVec 7) (sd sa : BitVec 6) (r : BitVec 10) (w : BitVec 1), s.Unwatched →
     let rec_ := s.record r
     let vec (i : Instr) (k : LdKind) (n : Nat) (sizes : List Nat) (space : BitVec 3 → Bool) (scope : Bool) : Prop :=
       s.Ready { ldUse d n a w with recs := [r], ready := s.stepServed (s.loadOf i k d n r a) } →
         Accesses s (exec i s) (.ld k) (Dest.vec d.toNat n) r [] [s.grp.vreg a.toNat]
           (checkMem rec_ (sizeIn sizes) space scope false 0) (s.byLane r a) none
     vec (.ld d r a w) .plain 1 [1, 2, 4] anySpace false ∧ vec (.ldAcq d r a w) .acquire 1 [1, 2, 4] anySpace true ∧
     vec (.ldC d r a w) .clear 1 [1, 2, 4] gmemSpace false ∧ vec (.ldK d r a w) .keep 1 [1, 2, 4] gmemSpace false ∧
     vec (.ldW d r a w) .wide 2 [8] anySpace false ∧
     (s.Ready { reads := [(.s sa, w == 1)], writes := [.s sd], recs := [r] } →
       Accesses s (exec (.ldS sd r sa w) s) (.ld .scalar) (Dest.scal sd.toNat 1) r [s.readS sa] []
         (checkMem rec_ (sizeIn [1, 2, 4, 8]) anySpace false false 0) (s.bySplit r (s.readS sa)) none)) ∧
  (∀ (s : State) (d a : BitVec 7) (sd sa : BitVec 6) (r : BitVec 10) (w : BitVec 1), s.Unwatched →
     let rec_ := s.record r
     let vec (i : Instr) (k : StKind) (n : Nat) (sizes : List Nat) (space : BitVec 3 → Bool) (scope : Bool) : Prop :=
       s.Ready { stUse s.grp d n a w with recs := [r] } →
         Accesses s (exec i s) (.st k) Dest.none r [] (s.grp.vreg a.toNat :: (List.range n).map fun j => s.grp.vreg (d.toNat + j))
           (checkMem rec_ (sizeIn sizes) space scope true 0) (s.byLane r a) none
     vec (.st d r a w) .plain 1 [1, 2, 4] anySpace false ∧ vec (.stRel d r a w) .release 1 [1, 2, 4] anySpace true ∧
     vec (.stF d r a w) .full 1 [1, 2, 4] gmemSpace false ∧ vec (.stW d r a w) .wide 2 [8] anySpace false ∧
     (s.Ready { reads := [(.s sa, w == 1), (.s sd, false)], ready := s.grp.heldStore.isNone, park := s.grp.heldStore,
                recs := [r] } →
       Accesses s (exec (.stS sd r sa w) s) (.st .scalar) Dest.none r [s.readS sa, s.readS sd] []
         (checkMem rec_ (sizeIn [1, 2, 4, 8]) anySpace false true 0) (s.bySplit r (s.readS sa)) none))

/-- A load whose lanes may all be performed is performed: each lane of its destination that is still live receives its element as memory holds
it, the bytes of the group's earlier queued stores over it, sign-extended for the i codes; other lanes and registers keep
their values (03 R16); its destination is full and it is in flight no longer; no byte of memory changes; `ld.c` leaves the granules
it names empty, no other load changes one (04 R44, R45, 06 R114 to R116, R118, R121).
A store whose lanes may all be performed, those that write one line of memory under one key, is performed: each element holds the low bytes of its lane's datum, of lanes
that write one element the highest; every byte outside the elements stored to keeps its value, and so does every register; it
is in flight no longer. st.f makes the granules it writes full once all its bytes are stored, no other store changes one
(06 R114 to R118, R121, 08 R154, 16 R270). -/
def Obligations.LoadsAndStoresPerform : Prop :=
  (∀ (s : State) (id : Nat) (e : Entry) (k : LdKind) (d : BitVec 7), s.Performable id e → e.op = .ld k →
     (e.op.waitsFull = true → ∀ a, a ∈ e.accs → s.gang.served a = true) →
     (k = .wide → d.toNat < 127) →
     e.dest = (match k with
       | .scalar => Dest.scal (d.toNat % 64) 1 | .moment => Dest.mom (d.toNat % 32) | .wide => Dest.vec d.toNat 2
       | _ => Dest.vec d.toNat 1) →
     ∃ t, exec (.producerCompletion s.self id (BitVec.allOnes 64)) s = .next t ∧ s.OnlyLanded t id ∧ s.SameBytes t ∧
       (∀ r, r ∈ e.dest.regs → t.grp.isEmpty r = false) ∧ (∀ r, r ∉ e.dest.regs → t.grp.isEmpty r = s.grp.isEmpty r) ∧
       (t.gang = { s.gang with granules := t.gang.granules }) ∧
       (∀ i, t.gang.full i = (s.gang.full i && !(k == .clear && e.accs.any fun a => a.place == .gmem && a.granule == i))) ∧
       (let raw (a : Acc) : Nat := ofBytes (s.grp.forward e a (s.look a))
        let f := bufFmt (e.snap 0)
        match k with
        | .scalar => (∀ a, e.accs = [a] → t.readS (BitVec.ofNat 6 d.toNat) =
             if BitVec.ofNat 6 d.toNat = 0 then 0 else widen 64 f (raw a)) ∧
           s.SameS t [BitVec.ofNat 6 d.toNat] ∧ s.SameV t [] ∧ s.SameM t []
        | .moment => (∀ a, a ∈ e.accs → t.grp.mreg (d.toNat % 32) a.lane =
             if s.grp.live.getLsbD a.lane = false then s.grp.mreg (d.toNat % 32) a.lane
             else if f = 19 then BitVec.ofNat 64 (raw a)
             else BitVec.ofNat 16 (raw a / 2 ^ 16) ++ (0 : BitVec 16) ++ (BitVec.ofNat 16 (raw a) ++ (0 : BitVec 16))) ∧
           (∀ l, l < 64 → l ∉ e.accs.map (·.lane) → t.grp.mreg (d.toNat % 32) l = s.grp.mreg (d.toNat % 32) l) ∧
           s.SameS t [] ∧ s.SameV t [] ∧ s.SameM t [d.toNat % 32]
        | .wide => (∀ a, a ∈ e.accs → t.grp.vpair d.toNat a.lane =
             if s.grp.live.getLsbD a.lane then BitVec.ofNat 64 (raw a) else s.grp.vpair d.toNat a.lane) ∧
           (∀ l, l < 64 → l ∉ e.accs.map (·.lane) → t.grp.vpair d.toNat l = s.grp.vpair d.toNat l) ∧
           s.SameS t [] ∧ s.SameV t [d.toNat, d.toNat + 1] ∧ s.SameM t []
        | _ => (∀ a, a ∈ e.accs → t.grp.vreg d.toNat a.lane =
             if s.grp.live.getLsbD a.lane then widen 32 f (raw a) else s.grp.vreg d.toNat a.lane) ∧
           (∀ l, l < 64 → l ∉ e.accs.map (·.lane) → t.grp.vreg d.toNat l = s.grp.vreg d.toNat l) ∧
           s.SameS t [] ∧ s.SameV t [d.toNat] ∧ s.SameM t [])) ∧
  (∀ (s : State) (id : Nat) (e : Entry) (k : StKind), s.Performable id e → e.op = .st k → s.grp.fabricErr = 0 →
     (∀ a b, a ∈ e.accs → b ∈ e.accs → a.place = b.place → a.key < b.key → a.key + a.n ≤ b.key) →
     (∀ a b, a ∈ e.accs → b ∈ e.accs → a.place = .virt → b.place = .virt → lineOf a.pa = lineOf b.pa → a.via = b.via) →
     ∃ t, exec (.storePerform s.self id (BitVec.allOnes 64)) s = .next t ∧
       (∀ x, x ∈ t.grp.flight → x.id ≠ id) ∧ s.SameS t [] ∧ s.SameV t [] ∧ s.SameM t [] ∧ t.contexts = s.contexts ∧
       (∀ a, a ∈ e.accs → a.place ≠ .nowhere →
         (∀ b, b ∈ e.accs → b.place = a.place → b.key = a.key → b.lane ≤ a.lane) →
         t.look a = toBytes a.n (e.datum a.lane)) ∧
       (let outside (p : Place) (x : Nat) : Prop := ∀ a, a ∈ e.accs → a.place = p → x < a.key ∨ a.key + a.n ≤ x
        (∀ x, outside .gmem x → SMap.get t.gang.gmem x = SMap.get s.gang.gmem x) ∧
        (∀ x, outside .bank x → SMap.get t.bank x = SMap.get s.bank x) ∧
        (∀ x, outside .virt x → SMap.get t.mem x = SMap.get s.mem x)) ∧
       (∀ i, t.gang.full i = (s.gang.full i || (k == .full && e.accs.any fun a => a.place == .gmem && a.granule == i))))

/-! ## Atomics and bank operations -/

/-- The atomics and bank operations: each checks its record, which must be writable and of an accepted format and space, and
its lanes before any step, and goes in flight; a returning form empties its destination, one that returns nothing counts on
the bank class (06 R108, R109, R123, R132 to R135).
What one step makes of a location: integers add modulo 2^n and compare as signed for the i codes; floats add rounded to the nearest,
a NaN being the canonical one, and compare as min and max do; and, or, xor, exchange; compare and swap writes the new value where the
bits are equal and leaves them else; the operand is a register, or a pair for 8 bytes, and of compare and swap the one after the value
compared; `bank.mx` keeps the better of two packed words by score, then lower index, a NaN losing to every number; `bank.sup` empties
the word of its index; `bank.vadd` adds to element L mod 16 of its granule of 64 bytes alone; `chunk` hands out ⌈left / 2P⌉ of a range,
no less than CMIN and no more than CMAX, and no more than is left (06 R132, R133, R134, R135). -/
def Obligations.AtomicsIssue : Prop :=
  (∀ (s : State) (d a : BitVec 7) (sd sa : BitVec 6) (r : BitVec 8) (w : BitVec 1), s.Unwatched →
     let n10 : BitVec 10 := r.setWidth 10
     let rec_ := s.record n10
     let regs (n : Nat) : List (Nat → W32) := s.grp.vreg a.toNat :: (List.range n).map fun j => s.grp.vreg (d.toNat + j)
     let atom (i : Instr) (fn : AtomFn) (fmt : BitVec 8 → Bool) : Prop :=
       let n := atomRegs fn fmt rec_
       let m := if fn = .cas then max 1 (n / 2) else n
       s.Ready (atomUse s.grp d n m a w true) →
         Accesses s (exec i s) (.atom fn) (Dest.vec d.toNat m) n10 [] (regs n)
           (checkMem rec_ fmt anySpace false true 0) (s.byLane n10 a) none
     let upd (i : Instr) (op : MemOp) (n : Nat) (fmt : BitVec 8 → Bool) (space : BitVec 3 → Bool) (align : Nat)
         (accs : Chk (List Acc)) : Prop :=
       s.Ready { atomUse s.grp d n 0 a w (s.grp.room 6) with writes := [] } →
         Accesses s (exec i s) op Dest.none n10 [] (regs n) (checkMem rec_ fmt space false true align) accs (some 6)
     atom (.atomAdd d r a w) .add fmtArith ∧ atom (.atomMin d r a w) .min fmtArith ∧ atom (.atomMax d r a w) .max fmtArith ∧
     atom (.atomAnd d r a w) .and fmtBits ∧ atom (.atomOr d r a w) .or fmtBits ∧ atom (.atomXor d r a w) .xor fmtBits ∧
     atom (.atomXchg d r a w) .xchg fmtAny48 ∧ atom (.atomCas d r a w) .cas fmtAny48 ∧
     upd (.redAdd d r a w) (.red .add) (atomRegs .add fmtArith rec_) fmtArith anySpace 0 (s.byLane n10 a) ∧
     upd (.redMin d r a w) (.red .min) (atomRegs .min fmtArith rec_) fmtArith anySpace 0 (s.byLane n10 a) ∧
     upd (.redMax d r a w) (.red .max) (atomRegs .max fmtArith rec_) fmtArith anySpace 0 (s.byLane n10 a) ∧
     upd (.bankMx d r a w) .bankMx 2 fmtN64 bankSpace 0 (s.byLane n10 a) ∧
     upd (.bankSup d r a w) .bankSup 1 fmtN64 bankSpace 0 (s.byLane n10 a) ∧
     upd (.bankVadd d r a w) .bankVadd 1 fmtVadd bankSpace 64
       (s.laneAccs rec_ 64 64 (s.lanes.map fun l => (l, (s.grp.vreg a.toNat l).toNat * 64))) ∧
     (s.Ready { reads := [(.s sa, w == 1)], writes := [.s sd] } →
       Accesses s (exec (.chunk sd r sa w) s) .chunk (Dest.scal sd.toNat 1) n10 [s.readS sa] []
         (match checkBuf rec_ fmtN64 bankSpace false true with
           | some c => some c
           | none => if !chunkOk rec_ then some cREC_VALUE else if !alignOk rec_ 8 then some cALIGN else none)
         (s.bySplit n10 (s.readS sa)) none)) ∧
  ((∀ (t : BitVec 5) (w x c : Nat), t.toNat ≤ 3 → w < 2 ^ typeBits t → x < 2 ^ typeBits t →
     atomStep .add t w x c = (w + x) % 2 ^ typeBits t ∧
     intVal t (atomStep .min t w x c) = min (intVal t w) (intVal t x) ∧
     intVal t (atomStep .max t w x c) = max (intVal t w) (intVal t x) ∧
     atomStep .and t w x c = w &&& x ∧ atomStep .or t w x c = w ||| x ∧ atomStep .xor t w x c = w ^^^ x) ∧
   (∀ (t : BitVec 5) (w x c : Nat),
     atomStep .xchg t w x c = x ∧ (w = c → atomStep .cas t w x c = x) ∧ (w ≠ c → atomStep .cas t w x c = w)) ∧
   (∀ (t : BitVec 5) (n mb top w x c : Nat), t = 8 ∨ t = 9 → shape t = some (n, mb, top) → w < 2 ^ n → x < 2 ^ n →
     let V (y : Nat) : Int := units n mb y
     let sgn (y : Nat) : Nat := y / 2 ^ (n - 1)
     let inf (y : Nat) := y % 2 ^ (n - 1) = top + 1
     let sum := atomStep .add t w x c
     let qnan := top + 1 + 2 ^ (mb - 1)
     (isNaN t w ∨ isNaN t x → sum = qnan) ∧
     (inf w → inf x → sgn w ≠ sgn x → sum = qnan) ∧
     (inf w → ¬isNaN t x → (inf x → sgn w = sgn x) → sum = w) ∧ (inf x → ¬isNaN t w → (inf w → sgn w = sgn x) → sum = x) ∧
     (isFinite n top w → isFinite n top x → (∃ rep, roundsOnce n mb 0 ⟨sum, rep⟩ (V w + V x) 1) ∧
       (V w + V x = 0 → sum = if sgn w = sgn x then sgn w * 2 ^ (n - 1) else 0)) ∧
     ∀ big : Bool,
       let best := atomStep (if big then .max else .min) t w x c
       (isNaN t w → isNaN t x → best = qnan) ∧ (isNaN t w → ¬isNaN t x → best = x) ∧ (isNaN t x → ¬isNaN t w → best = w) ∧
       (¬isNaN t w → ¬isNaN t x → (best = w ∨ best = x) ∧ V best = (if big then max (V w) (V x) else min (V w) (V x)) ∧
         (V w = 0 → V x = 0 → sgn best = if big then min (sgn w) (sgn x) else max (sgn w) (sgn x)))) ∧
   (∀ (e : Entry) (lane : Nat) (old : List Byte),
     let t : BitVec 5 := (bufFmt (e.snap 0)).setWidth 5
     let wide := esize (bufFmt (e.snap 0)) = some 8
     let reg (j : Nat) : Nat := (e.blk j lane).toNat
     -- the k-th value of the lane's operands
     let value (k : Nat) : Nat := if wide then reg (2 * k + 1) + 2 ^ 32 * reg (2 * k + 2) else reg (k + 1)
     let new := (e.stepBytes lane old).1
     (∀ fn, e.op = .atom fn ∨ (e.op = .red fn ∧ fn ≠ .cas) →
       new = toBytes old.length (atomStep fn t (ofBytes old) (value (if fn = .cas then 1 else 0)) (value 0)) ∧
       (e.stepBytes lane old).2 = BitVec.ofNat 64 (ofBytes old)) ∧
     (e.op = .bankMx → wide → new = toBytes 8 (mxStep (BitVec.ofNat 64 (ofBytes old)) (BitVec.ofNat 64 (value 0))).toNat) ∧
     (e.op = .bankSup → new = toBytes 8 (supStep (BitVec.ofNat 64 (ofBytes old)) (e.blk 1 lane)).toNat) ∧
     (e.op = .bankVadd → t = 0 ∨ t = 1 ∨ t = 8 → old.length = 64 → new.length = 64 ∧ ∀ j, j < 16 →
       ofBytes ((new.drop (4 * j)).take 4) = if j = lane % 16 then atomStep .add t (ofBytes ((old.drop (4 * j)).take 4)) (reg 1) 0
         else ofBytes ((old.drop (4 * j)).take 4)) ∧
     (e.op = .chunk → e.stepBytes lane old =
       (toBytes 8 (chunkStep (e.snap 0) (BitVec.ofNat 64 (ofBytes old))).2.toNat, (chunkStep (e.snap 0) (BitVec.ofNat 64 (ofBytes old))).1))) ∧
   (∀ (w c : W64),
     let score (p : W64) : W64 := p >>> 32
     let index (p : W64) : Nat := (p.setWidth 32 : W32).toNat
     (f32NaN (score c) = true → mxStep w c = w) ∧
     (f32NaN (score c) = false → f32NaN (score w) = true → mxStep w c = c) ∧
     (f32NaN (score c) = false → f32NaN (score w) = false →
       mxStep w c = if f32Key (score w) < f32Key (score c) ∨ (f32Key (score w) = f32Key (score c) ∧ index c < index w) then c else w)) ∧
   (∀ (w : W64) (i : W32), supStep w i = if w.setWidth 32 = i then 0xFF800000FFFFFFFF else w) ∧
   (∀ (r : W256) (next last : W32), chunkOk r = true →
     let p := (bufStride1 r).toNat
     let cmin := ((bufStride2 r).setWidth 16 : BitVec 16).toNat
     let cmax := ((bufStride2 r >>> 16).setWidth 16 : BitVec 16).toNat
     let left := last.toNat - next.toNat
     ∃ c : W32, chunkStep r (last ++ next) = (c ++ next, last ++ (next + c)) ∧
       c.toNat = min left (max cmin (min cmax (if left % (2 * p) = 0 then left / (2 * p) else left / (2 * p) + 1)))))

/-- An atomic or bank operation whose lanes may all be performed, those on one line of memory under one key, steps through them in ascending order: each location holds
what the steps of its lanes make of it, one after the other, every byte outside the locations keeps its value, and no
register changes. One that returns nothing is then in flight no longer and counts as completed; one that returns keeps each
lane's old value, or the range handed out (06 R123, R132 to R135).
The completion of a returning atomic or `chunk` whose steps are done writes what they kept to its destination, in the
lanes active at issue that are still live, and leaves it full; nothing else changes (03 R16, 04 R44, R45, 06 R132, R135). -/
def Obligations.AtomicsPerform : Prop :=
  (∀ (s : State) (id : Nat) (e : Entry), s.Performable id e →
     ((∃ fn, e.op = .atom fn) ∨ (∃ fn, e.op = .red fn) ∨ e.op = .bankMx ∨ e.op = .bankSup ∨ e.op = .bankVadd ∨ e.op = .chunk) →
     (∀ a, a ∈ e.accs → a.n = (match e.op with | .atom _ | .red _ => a.n | .bankVadd => 64 | _ => 8)) →
     (∀ a b, a ∈ e.accs → b ∈ e.accs → a.place = b.place → a.n = b.n ∧ (a.key < b.key → a.key + a.n ≤ b.key)) →
     (∀ a b, a ∈ e.accs → b ∈ e.accs → a.place = .virt → b.place = .virt → lineOf a.pa = lineOf b.pa → a.via = b.via) →
     (let same (a : Acc) : List Acc := e.accs.filter fun b => b.place == a.place && b.key == a.key
      let after (l : List Acc) (old : List Byte) : List Byte := l.foldl (fun x b => (e.stepBytes b.lane x).1) old
      ∃ t, exec (.bankOperationPerform s.self id (BitVec.allOnes 64)) s = .next t ∧
       s.SameS t [] ∧ s.SameV t [] ∧ s.SameM t [] ∧ t.contexts = s.contexts ∧
       (∀ a, a ∈ e.accs → a.place ≠ .nowhere → t.look a = after (same a) (s.look a)) ∧
       (let outside (p : Place) (x : Nat) : Prop := ∀ a, a ∈ e.accs → a.place = p → x < a.key ∨ a.key + a.n ≤ x
        (∀ x, outside .gmem x → SMap.get t.gang.gmem x = SMap.get s.gang.gmem x) ∧
        (∀ x, outside .bank x → SMap.get t.bank x = SMap.get s.bank x) ∧
        (∀ x, outside .virt x → SMap.get t.mem x = SMap.get s.mem x)) ∧
       (e.op.queued = true → (∀ x, x ∈ t.grp.flight → x.id ≠ id) ∧ t.grp.counters = (s.grp.complete id).counters) ∧
       (e.op.queued = false → t.grp.counters = s.grp.counters ∧ ∃ e', t.grp.entry id = some e' ∧ e'.finished = true ∧
         e'.err = 0 ∧ e'.held = none ∧ e'.op = e.op ∧ e'.dest = e.dest ∧ e'.active = e.active ∧ e'.mask = e.mask ∧
         e'.cancelled = [] ∧ e'.watch = [] ∧ e'.fired = [] ∧
         ∀ a, a ∈ e.accs →
           (a.place ≠ .nowhere → e'.result.get a.lane =
             (e.stepBytes a.lane (after ((same a).takeWhile fun b => b.lane != a.lane) (s.look a))).2) ∧
           (a.place = .nowhere → (∃ fn, e.op = .atom fn) → e'.result.get a.lane = 0)))) ∧
  (∀ (s : State) (id : Nat) (e : Entry) (lanes : Mask), s.gang.present = true → s.captured s.gang.vf = false →
     s.grp.entry id = some e → e.finished = true → e.err = 0 → e.held = none → e.cancelled = [] → e.watch = [] →
     e.fired = [] → s.grp.logs = [] → s.grp.flushes = [] →
     (∀ d fn, d < 128 → e.op = .atom fn → e.dest = Dest.vec d 1 →
       ∃ t, exec (.producerCompletion s.self id lanes) s = .next t ∧ s.OnlyLanded t id ∧ s.SameBytes t ∧
         (∀ l, l < 64 → t.grp.vreg d l = if (e.active &&& s.grp.live).getLsbD l then (e.result.get l).setWidth 32 else s.grp.vreg d l) ∧
         s.SameS t [] ∧ s.SameV t [d] ∧ s.SameM t [] ∧ t.grp.isEmpty (.v d) = false) ∧
     (∀ d fn, d < 127 → e.op = .atom fn → e.dest = Dest.vec d 2 →
       ∃ t, exec (.producerCompletion s.self id lanes) s = .next t ∧ s.OnlyLanded t id ∧ s.SameBytes t ∧
         (∀ l, l < 64 → t.grp.vpair d l = if (e.active &&& s.grp.live).getLsbD l then e.result.get l else s.grp.vpair d l) ∧
         s.SameS t [] ∧ s.SameV t [d, d + 1] ∧ s.SameM t [] ∧ t.grp.isEmpty (.v d) = false ∧ t.grp.isEmpty (.v (d + 1)) = false) ∧
     (∀ d : BitVec 6, d ≠ 0 → e.op = .chunk → e.dest = Dest.scal d.toNat 1 →
       ∃ t, exec (.producerCompletion s.self id lanes) s = .next t ∧ s.OnlyLanded t id ∧ s.SameBytes t ∧
         t.readS d = e.result.get (lowestBit e.mask) ∧ s.SameS t [d] ∧ s.SameV t [] ∧ s.SameM t [] ∧ t.grp.isEmpty (.s d) = false))

/-! ## Granules, counters and barriers -/

/-- fe.set makes n granules from the one that holds sA full, fe.clr makes them empty, or, where they reach beyond the
allocation, each traps GMEM_RANGE and changes none; fe.rd reads the bits of 64 granules, 0 beyond the allocation; no byte
changes (06 R122).
A counter falls in issue order: of each class, the operations still counted are those from the oldest not complete on.
cnt reads a counter; waitc goes on where it is at most n, and else stays where it is (06 R123, R124).
fence goes on once every access of the group in flight is performed (what a trap has put into the replay queue is none: the model's
reading, log 74), or, at system scope after a refused remote store, traps with its cause and address and forgets it. pf and cinv change
no value and go on, but that pf of level 2 may post the migration of pages marked for it; that both trap with a check of the record that
fails, and that pf goes on where a shared record cannot be fetched, is the model's reading (log 46). cinv all goes on; that no
line is there to invalidate is the model's choice (log 3) (06 R119, R131, 16 R263). -/
def Obligations.GranulesCountersFences : Prop :=
  (∀ (s : State) (d a : BitVec 6) (n : BitVec 11),
     let first := (s.readS a).toNat / 16
     let last := first + n.toNat
     (s.Ready { reads := [(.s a, false)], ready := s.gmemSettled } →
       (s.alloc ≤ 16 * last →
         exec (.feSet a n) s = .next (s.trapVa cGMEM_RANGE (s.readS a)) ∧
         exec (.feClr a n) s = .next (s.trapVa cGMEM_RANGE (s.readS a))) ∧
       (16 * last < s.alloc →
         (∃ t, exec (.feSet a n) s = .next t ∧ (∀ i, t.gang.full i = (s.gang.full i || (decide (first ≤ i) && decide (i ≤ last)))) ∧
           t.gang = { s.gang with granules := t.gang.granules } ∧ t.k = s.k ∧ t.sp.pc = s.sp.pc + 4 ∧ s.SameS t [] ∧
           s.SameV t [] ∧ s.SameM t [] ∧ s.SameBytes t ∧ t.contexts = s.contexts) ∧
         (∃ t, exec (.feClr a n) s = .next t ∧ (∀ i, t.gang.full i = (s.gang.full i && !(decide (first ≤ i) && decide (i ≤ last)))) ∧
           t.gang = { s.gang with granules := t.gang.granules } ∧ s.StandsAt t (s.sp.pc + 4) ∧ s.SameS t [] ∧
           s.SameV t [] ∧ s.SameM t [] ∧ s.SameBytes t ∧ t.contexts = s.contexts))) ∧
     (s.Ready { reads := [(.s a, false)], writes := [.s d], ready := s.gmemSettled } →
       ∃ v : Mask, (∀ i, i < 64 → v.getLsbD i = (decide (16 * (first + i) < s.alloc) && s.gang.full (first + i))) ∧
         DoneS s (exec (.feRd d a) s) d v)) ∧
  ((∀ (g : Group) (id : Nat) (cls : BitVec 3),
     ((g.complete id).counters.filter fun c => c.cls == cls) =
       (((g.counters.map fun c => if c.id == id then { c with done := true } else c).filter fun c => c.cls == cls).dropWhile
         fun c => c.done)) ∧
   ∀ (s : State) (d : BitVec 6) (c tag : BitVec 2) (n : BitVec 8),
     let cls := counterOf c tag
     let have_ := (s.grp.counters.filter fun x => x.cls == cls).length
     (s.Ready { writes := [.s d] } → DoneS s (exec (.cnt d c tag) s) d (BitVec.ofNat 64 have_)) ∧
     (have_ ≤ n.toNat → s.Ready { ready := true, park := s.grp.heldCounted cls } →
       Goes s (exec (.waitc c tag n) s) (s.sp.pc + 4)) ∧
     (n.toNat < have_ → s.canIssue = true → s.grp.due = [] → (s.tracing && s.grp.syncDue) = false → s.stepping = none →
       s.grp.isEmpty (.s (modeG s.mode)) = false →
       ∃ t, exec (.waitc c tag n) s = .next t ∧ t.sp.pc = s.sp.pc ∧ t.sp.mask = s.sp.mask ∧ s.SameS t [] ∧ s.SameV t [] ∧
         s.SameM t [] ∧ s.OnlyRegs t ∧ s.SameBytes t)) ∧
  (∀ (s : State) (l a : BitVec 6) (v : BitVec 2) (n : BitVec 10) (sc : BitVec 3),
     (s.Ready { ready := s.drained, park := s.grp.heldStore } →
       (sc = 5 → s.grp.fabricErr ≠ 0 →
         exec (.fence sc) s = .next (({ s with grp := { s.grp with fabricErr := 0 } }).trapVa s.grp.fabricErr s.grp.fabricVa)) ∧
       (sc ≠ 5 ∨ s.grp.fabricErr = 0 → Goes s (exec (.fence sc) s) (s.sp.pc + 4))) ∧
     (s.Ready { reads := [(.s l, false), (.s a, false)], recs := [n] } →
       (match checkBuf (s.record n) (fun _ => true) anySpace false false with
         | some c => exec (.pf l a v n) s = .next (s.trap c) ∧ exec (.cinv l a n) s = .next (s.trap c)
         | none => Goes s (exec (.cinv l a n) s) (s.sp.pc + 4) ∧ (v ≠ 2 → Goes s (exec (.pf l a v n) s) (s.sp.pc + 4)) ∧
           ∃ t, exec (.pf l a v n) s = .next t ∧ s.StandsAt t (s.sp.pc + 4) ∧ s.SameS t [] ∧ s.SameV t [] ∧ s.SameM t [] ∧
             s.SameBytes t ∧ t.contexts = s.contexts ∧ ∀ f, f ∈ t.faults → f ∈ s.faults ∨ f.kind = 1)) ∧
     (s.Ready { reads := [(.s l, false), (.s a, false)] } → ∀ m, s.uncached { recs := [n] } = some m →
       (s.fetchRecord m = .wait ∨ ∃ va lv mig s1, s.fetchRecord m = .hold va lv mig s1) → Goes s (exec (.pf l a v n) s) (s.sp.pc + 4)) ∧
     (s.Ready {} → Goes s (exec .cinvAll s) (s.sp.pc + 4)))

/-- A barrier operand is refused where it is misaligned, then where it lies outside the allocation or the held bank regions.
bar.init sets EXPECTED, 1 to 65,535, and clears the rest; bar.exp adds to PENDING less than 2^55; bar.arr reads PHASE and
counts an arrival, but where everybody has arrived; after an arrival or an expectation a phase that is complete flips PHASE
and clears ARRIVED, and bits that no field holds are written as zero; bar.wait goes on once PHASE differs from sB[0] and blocks before; no
byte outside the object changes. An object to be read in a line of its memory that cannot be corrected traps MEM_UNCORR with its address,
and nothing of it changes (06 R128, R129, 00 R10, 18 R299, 23 R363; that bar.init reads nothing is the model's reading, log 77, and that
the operand is tested before the count, log 73).
bar.sync by the one split of its group traps MASK_OUTSIDE where its mask leaves its own group or gang out, and, on a
band barrier, REC_SPACE without a band; a mask that differs from that of those arrived, on a living group, or on a band's gang with one,
traps MASK_DISAGREE. The last to arrive completes the phase: the barrier has nobody arrived and the next phase, and the split
goes on; an earlier one waits at its instruction; no byte changes but
those of the band's own barriers, the 16 at offset 16 b of its region (06 R130, 03 R30, 14 R236; stated with the trace off and barriers numbered 0 to 15). -/
def Obligations.Barriers : Prop :=
  (∀ (s : State) (d a b : BitVec 6) (x y : BitVec 1),
     let p := s.readS a
     let n := s.readS b
     let u (more : List (Reg × Bool)) (w : List Reg) : Use := { reads := (.s a, x == 1) :: more, writes := w, ready := s.settled }
     let ub := u [(.s b, y == 1)] []
     (p.toNat % 16 ≠ 0 → s.barOperand p = .error (cALIGN, p)) ∧
     (p.toNat % 16 = 0 → p.toNat < 2 ^ 63 →
       (p.toNat < 2 ^ 19 → p.toNat + 16 ≤ s.alloc → s.barOperand p = .ok (false, p.toNat)) ∧
       (2 ^ 19 ≤ p.toNat ∨ s.alloc < p.toNat + 16 → s.barOperand p = .error (cGMEM_RANGE, p))) ∧
     (p.toNat % 16 = 0 → 2 ^ 63 ≤ p.toNat →
       let at_ := p.toNat - 2 ^ 63
       (at_ < 2 ^ 29 → s.bankHeld s.gang.vf at_ 16 = true → s.barOperand p = .ok (true, at_)) ∧
       (2 ^ 29 ≤ at_ ∨ s.bankHeld s.gang.vf at_ 16 = false → s.barOperand p = .error (cBANK_RANGE, p))) ∧
     (∀ c va, s.barOperand p = .error (c, va) →
       (s.Ready ub → exec (.barInit a b x y) s = .next (s.trapVa c va) ∧ exec (.barExp a b x y) s = .next (s.trapVa c va) ∧
         exec (.barWait a b x y) s = .next (s.trapVa c va)) ∧
       (s.Ready (u [] [.s d]) → exec (.barArr d a x) s = .next (s.trapVa c va))) ∧
     (∀ o, s.barOperand p = .ok o →
       let v := s.barrier o
       let bad : Bool := if o.1 then s.badBank.any fun l => lineMeets l.toNat o.2 16 else s.gang.badGmem.any fun l => lineMeets l o.2 16
       let settled (z : BitVec 128) : BitVec 128 := if barArrived z = barExpected z ∧ barPending z = 0 then barNext z else z
       let elsewhere (t : State) : Prop := t.mem = s.mem ∧
         (o.1 = false → t.bank = s.bank ∧ ∀ i, i < o.2 ∨ o.2 + 16 ≤ i → SMap.get t.gang.gmem i = SMap.get s.gang.gmem i) ∧
         (o.1 = true → t.gang.gmem = s.gang.gmem ∧ ∀ i, i < o.2 ∨ o.2 + 16 ≤ i → SMap.get t.bank i = SMap.get s.bank i)
       let done (t : State) (z : BitVec 128) : Prop := t.barrier o = z &&& 0x1FFFFFFFF00FFFFFFFFFFFFFF ∧ elsewhere t ∧ t.k = s.k ∧ t.sp.pc = s.sp.pc + 4 ∧
         s.SameV t [] ∧ s.SameM t [] ∧ t.contexts = s.contexts
       (s.Ready ub →
         (n = 0 ∨ 65535 < n.toNat → exec (.barInit a b x y) s = .next (s.trap cBAR_VALUE)) ∧
         (n ≠ 0 → n.toNat ≤ 65535 → ∃ t, exec (.barInit a b x y) s = .next t ∧ done t (n.setWidth 128 <<< 64) ∧ s.SameS t [])) ∧
       (bad = true → ∃ line,
         let told : State := { s with replies := s.replies ++ [line] }
         (s.Ready ub → exec (.barWait a b x y) s = .next (told.trapVa cMEM_UNCORR p) ∧
           (n.toNat < 2 ^ 55 → exec (.barExp a b x y) s = .next (told.trapVa cMEM_UNCORR p))) ∧
         (s.Ready (u [] [.s d]) → exec (.barArr d a x) s = .next (told.trapVa cMEM_UNCORR p))) ∧
       (s.Ready ub →
         (2 ^ 55 ≤ n.toNat → exec (.barExp a b x y) s = .next (s.trap cBAR_VALUE)) ∧
         (bad = false → n.toNat < 2 ^ 55 → ∃ t, exec (.barExp a b x y) s = .next t ∧
           done t (settled (putField v 0 (barPending v + n.setWidth 56))) ∧ s.SameS t [])) ∧
       (bad = false → s.Ready (u [] [.s d]) →
         (barArrived v = barExpected v → exec (.barArr d a x) s = .next (s.trap cBAR_OVERARRIVE)) ∧
         (barArrived v ≠ barExpected v → ∃ t, exec (.barArr d a x) s = .next t ∧ done t (settled (putField v 80 (barArrived v + 1))) ∧
           t.readS d = (if d = 0 then 0 else (barPhase v).setWidth 64) ∧ s.SameS t [d])) ∧
       (bad = false → s.Ready ub → s.stepping = none →
         (barPhase v ≠ n.setWidth 1 → Goes s (exec (.barWait a b x y) s) (s.sp.pc + 4)) ∧
         (barPhase v = n.setWidth 1 → ∃ t, exec (.barWait a b x y) s = .next t ∧ t.sp.pc = s.sp.pc ∧ t.sp.mask = s.sp.mask ∧
           s.SameS t [] ∧ s.SameV t [] ∧ s.SameM t [] ∧ s.OnlyRegs t ∧ s.SameBytes t)))) ∧
  (∀ (s : State) (a : BitVec 6) (b : BitVec 4), s.Ready { reads := [(.s a, false)], ready := s.settled } →
     s.grp.tracectl = 0 → s.sp.held = false → s.sp.mask = s.grp.live → s.grp.live &&& ~~~s.wmask = 0 → s.grp.waitersAt s.sp.pc = [] →
     (∀ q, q ∈ s.gang.barriers → q.1 < 16) → (∀ band, s.myBand = some band → ∀ q, q ∈ band.barriers → q.1 < 16) →
     let m := s.readS a
     let bar := getBar s.gang.barriers b.toNat
     let object (x : Nat) : Prop := ∃ band j, s.myBand = some band ∧ j < 16 ∧ (band.base + BitVec.ofNat 29 (16 * j)).toNat ≤ x ∧
       x < (band.base + BitVec.ofNat 29 (16 * j)).toNat + 16
     let same (t : State) : Prop := t.k = s.k ∧ t.sp.mask = s.sp.mask ∧ s.SameS t [] ∧ s.SameV t [] ∧ s.SameM t [] ∧
       t.mem = s.mem ∧ t.gang.gmem = s.gang.gmem ∧ (∀ x, ¬object x → SMap.get t.bank x = SMap.get s.bank x) ∧
       t.contexts = s.contexts
     (m.getLsbD s.grp.idx.toNat = false → exec (.barSync a 0 b) s = .next (s.trap cMASK_OUTSIDE)) ∧
     (m.getLsbD s.grp.idx.toNat = true →
       let agrees (g : Group) : Prop := g.alive = true → bar.mask.getLsbD g.idx.toNat = m.getLsbD g.idx.toNat
       let awaited (g : Group) : Prop := g.alive = true ∧ m.getLsbD g.idx.toNat = true ∧ (0, g.idx) ∉ bar.arrived ∧ g.idx ≠ s.grp.idx
       (bar.arrived ≠ [] → (∃ g, g ∈ s.grp :: s.peers ∧ ¬agrees g) → exec (.barSync a 0 b) s = .next (s.trap cMASK_DISAGREE)) ∧
       (bar.arrived = [] ∨ (∀ g, g ∈ s.grp :: s.peers → agrees g) →
         ((∀ g, g ∈ s.peers → ¬awaited g) →
           ∃ t, exec (.barSync a 0 b) s = .next t ∧ t.sp.pc = s.sp.pc + 4 ∧ t.sp.st = .running ∧
             (getBar t.gang.barriers b.toNat).arrived = [] ∧ (getBar t.gang.barriers b.toNat).phase = ~~~bar.phase ∧ same t) ∧
         ((∃ g, g ∈ s.peers ∧ awaited g) →
           ∃ t, exec (.barSync a 0 b) s = .next t ∧ t.sp.pc = s.sp.pc ∧ t.sp.st = .atBarrier false b ∧ same t))) ∧
     (s.myBand = none → exec (.barSync a 1 b) s = .next (s.trap cREC_SPACE)) ∧
     (∀ band, s.myBand = some band → s.gang.lrec.band.toNat ≤ 16 →
       (s.gang.lrec.band.toNat ≤ s.gang.place ∨ m.getLsbD s.gang.place = false →
         exec (.barSync a 1 b) s = .next (s.trap cMASK_OUTSIDE)) ∧
       (s.gang.place < s.gang.lrec.band.toNat → m.getLsbD s.gang.place = true →
         let bar := getBar band.barriers b.toNat
         let named (p : Nat) : Bool := decide (p < 16 ∧ p < s.gang.lrec.band.toNat) && m.getLsbD p
         let agrees (r : Resident) : Prop := r.groups.any Group.alive = true → r.gang.place < 32 →
           bar.mask.getLsbD r.gang.place = named r.gang.place
         let awaited : Prop := ∃ r g, r ∈ s.bandGangs band ∧ g ∈ r.groups ∧ g.alive = true ∧ named r.gang.place = true ∧
           (BitVec.ofNat 5 r.gang.place, g.idx) ∉ bar.arrived ∧ ¬(r.gang.place = s.gang.place ∧ g.idx = s.grp.idx)
         (bar.arrived ≠ [] → (∃ r, r ∈ s.bandGangs band ∧ ¬agrees r) → exec (.barSync a 1 b) s = .next (s.trap cMASK_DISAGREE)) ∧
         (bar.arrived = [] ∨ (∀ r, r ∈ s.bandGangs band → agrees r) →
           (¬awaited → ∃ t, exec (.barSync a 1 b) s = .next t ∧ t.sp.pc = s.sp.pc + 4 ∧ t.sp.st = .running ∧ same t ∧
             ∀ band', t.myBand = some band' →
               (getBar band'.barriers b.toNat).arrived = [] ∧ (getBar band'.barriers b.toNat).phase = ~~~bar.phase) ∧
           (awaited → ∃ t, exec (.barSync a 1 b) s = .next t ∧ t.sp.pc = s.sp.pc ∧ t.sp.st = .atBarrier true b ∧ same t)))))

/-! ## Engines -/

/-- cp.a, cp.b and gth check their records, values and ranges at issue, each failure a precise trap; else the operation goes
in flight with its records and operands captured and counts on its class, at once complete where it has no byte. A range of
gang memory is refused where its BOUNDS trap and it passes the limit, or where they check nothing and it passes the
allocation (06 R107, R109, R111, R123, R125 to R127). -/
def Obligations.EnginesIssue : Prop :=
  ∀ (s : State) (r q : BitVec 8) (g : BitVec 2),
    let src := s.record (r.setWidth 10)
    let dst := s.record (q.setWidth 10)
    let atOnce (o : Out) (cls : BitVec 3) : Prop := ∃ t, o = .next t ∧ t.k = s.k ∧ t.sp.pc = s.sp.pc + 4 ∧ t.grp.flight = s.grp.flight ∧
      t.grp.counters = ((s.grp.countOne cls s.grp.nextId).complete s.grp.nextId).counters ∧ s.SameS t [] ∧ s.SameV t [] ∧
      s.SameM t [] ∧ s.SameBytes t
    (∀ (v : BitVec 7), s.Ready { reads := (Dest.vec v.toNat 3).regs.map fun x => (x, false), ready := s.grp.room (g.setWidth 3) } →
      let o := exec (.cpA v r q g) s
      let arg (i l : Nat) : Nat := (s.grp.vreg (v.toNat + i) l).toNat
      match checkPair src dst gmemSpace with
      | some c => o = .next (s.trap c)
      | none =>
        ((∃ l, l < 64 ∧ s.active.getLsbD l = true ∧ 32 < arg 2 l) → o = .next (s.trap cENGINE_VALUE)) ∧
        ((∀ l, l < 64 → s.active.getLsbD l = true → arg 2 l ≤ 32) →
          match (s.rangeFaults src (s.lanes.map fun l => (arg 0 l, arg 2 l))).or
              (s.rangeFaults dst (s.lanes.map fun l => (arg 1 l, 32))) with
          | some f => o = .next (s.trapVa f.1 f.2)
          | none => Sent s o .cpA Dest.none [r.setWidth 10, q.setWidth 10] [] ((List.range 3).map fun j => s.grp.vreg (v.toNat + j)) []
              (some (g.setWidth 3)))) ∧
    (∀ (v : BitVec 6), s.Ready (scalUse s.grp v 4 true (g.setWidth 3)) →
      let o := exec (.cpB v r q g) s
      let arg (i : BitVec 6) : W64 := s.readS (v + i)
      let n := (arg 2).toNat
      match checkPair src dst anySpace with
      | some c => o = .next (s.trap c)
      | none =>
        (2 ^ 32 ≤ n → o = .next (s.trap cENGINE_VALUE)) ∧
        (n < 2 ^ 32 → ∀ c va, arg 3 ≠ BitVec.allOnes 64 → s.barOperand (arg 3) = .error (c, va) → o = .next (s.trapVa c va)) ∧
        (n < 2 ^ 32 → (arg 3 = BitVec.allOnes 64 ∨ ∃ b, s.barOperand (arg 3) = .ok b) →
          match (s.rangeFault src (arg 0).toNat n).or (s.rangeFault dst (arg 1).toNat n) with
          | some f => o = .next (s.trapVa f.1 f.2)
          | none => (n = 0 → atOnce o (g.setWidth 3)) ∧
            (n ≠ 0 → Sent s o .cpB Dest.none [r.setWidth 10, q.setWidth 10] [arg 0, arg 1, arg 2, arg 3] [] []
              (some (g.setWidth 3))))) ∧
    (∀ (v : BitVec 6), s.Ready { scalUse s.grp v 3 true 5 with recs := [(s.readS (v + 2)).setWidth 10] } →
      let o := exec (.gth v r q) s
      let arg (i : BitVec 6) : W64 := s.readS (v + i)
      let dn : BitVec 10 := (arg 2).setWidth 10
      (4096 < (arg 1).toNat ∨ 2 ^ 11 ≤ (arg 2).toNat → o = .next (s.trap cENGINE_VALUE)) ∧
      ((arg 1).toNat ≤ 4096 → (arg 2).toNat < 2 ^ 11 →
        match checkGather src dst (s.record dn) ((arg 2).getLsbD 10) with
        | some c => o = .next (s.trap c)
        | none => (arg 1 = 0 → atOnce o 5) ∧
          (arg 1 ≠ 0 → Sent s o .gth Dest.none [r.setWidth 10, q.setWidth 10, dn] [arg 0, arg 1, arg 2] [] [] (some 5)))) ∧
    ∀ (z : W256) (b n : Nat), bufSpace z = 1 →
      let avail := s.alloc - (bufBase z).toNat
      (s.rangeFault z b n = none ↔ n = 0 ∨
        ((bufBounds z = 0 → b + n ≤ min (bufExtent z).toNat avail) ∧ (bufBounds z = 3 → b + n ≤ avail)))

/-- Where a byte of an engine's record lies: within EXTENT, and in gang memory within the allocation, at BASE and its offset; beyond it
TRAP faults BOUNDS with that address, ZERO and CLAMP drop it, NONE goes by the allocation alone (06 R106, R107; a byte below BASE, which
strides of a gather may name, counts as beyond it: log 13). Bytes of a copy that land in gang memory: each byte of cp.a's lanes, or of
cp.b's block, receives the source's byte, the bytes of a lane beyond its count zero, of lanes that write one byte the highest; no other
byte changes, and no register; where these are all its bytes, the copy is in flight no longer, counts as completed, and has made every
granule it wrote full (stated with source and destination apart). One byte of a copy between any two spaces, in memory of this module,
lands where its destination translates to, zero where the source drops or faults it, nowhere where the destination does; a first fault is
kept, with the byte's number; a barrier is credited with the byte, dropped or not, and its phase ends where that completes it. Bytes of a
gather's entry receive the row, or the 64 rows of the tile, that its index names, and are zero where a byte of the data faults (06 R120,
R123, R125, R126, R127, R129; stated with nothing landed or held before, no uncorrectable line and no log record or trigger decision of
the group waiting; that an entry lands byte by byte is 08 R143, log 14). -/
def Obligations.EnginesLand : Prop :=
  (∀ (s : State) (r : W256) (b : Int),
    let base := (bufBase r).toNat
    let limit := if bufSpace r = 1 then min (bufExtent r).toNat (s.alloc - base) else (bufExtent r).toNat
    let addr : W64 := bufBase r + BitVec.ofInt 64 b
    (0 ≤ b → b < limit → s.byteAcc r b = s.accessAt r 0 1 b.toNat (some b.toNat)) ∧
    (b < 0 ∨ (limit : Int) ≤ b →
      (bufBounds r = 0 → s.byteAcc r b = .error (cBOUNDS, addr)) ∧
      (bufBounds r = 1 ∨ bufBounds r = 2 → ∃ a, s.byteAcc r b = .ok a ∧ a.place = .nowhere ∧ a.n = 1) ∧
      (bufBounds r = 3 → bufSpace r = 1 → (base : Int) + b < 0 ∨ (s.alloc : Int) ≤ base + b → s.byteAcc r b = .error (cGMEM_RANGE, addr)))) ∧
  ∀ (s : State) (id : Nat) (e : Entry), s.gang.present = true → s.captured s.gang.vf = false → s.grp.entry id = some e →
    e.err = 0 → e.held = none → e.more = [] → e.landed = [] → s.gang.badGmem = [] → s.grp.logs = [] → s.grp.flushes = [] →
    let inside (r : W256) (b : Nat) : Prop := bufSpace r = 1 ∧ b < (bufExtent r).toNat ∧ (bufBase r).toNat + b < s.alloc
    let at_ (r : W256) (b : Nat) : Nat := (bufBase r).toNat + b
    let regs (t : State) : Prop := s.SameS t [] ∧ s.SameV t [] ∧ s.SameM t [] ∧ t.k = s.k
    let same (t : State) : Prop := regs t ∧ t.mem = s.mem ∧ t.bank = s.bank ∧ t.contexts = s.contexts
    let gone (t : State) : Prop := (∀ x, x ∈ t.grp.flight → x.id ≠ id) ∧ t.grp.counters = (s.grp.complete id).counters
    let to_ (p : Nat) : Nat := if e.op = .cpA then (e.blk 1 (p / 32)).toNat + p % 32 else (e.sc 1).toNat + p
    let from_ (p : Nat) : Option Nat :=
      if e.op = .cpA then (if p % 32 < (e.blk 2 (p / 32)).toNat then some ((e.blk 0 (p / 32)).toNat + p % 32) else none)
      else some ((e.sc 0).toNat + p)
    let src := e.snap 0
    let dst := e.snap 1
    let covered (p : Nat) : Prop := e.op = .cpA ∧ ∃ l, l < 64 ∧ p / 32 < l ∧ e.active.getLsbD l = true ∧
      (e.blk 1 l).toNat ≤ to_ p ∧ to_ p < (e.blk 1 l).toNat + 32
    let byteOf (p : Nat) : Prop := p < (if e.op = .cpA then 2048 else (e.sc 2).toNat) ∧ (e.op = .cpA → e.active.getLsbD (p / 32) = true)
    -- within gang memory
    (∀ (first n : Nat), 0 < n → (e.op = .cpA ∨ (e.op = .cpB ∧ e.sc 3 = BitVec.allOnes 64)) →
      let part (p : Nat) : Prop := first ≤ p ∧ p < first + n
      (∀ p, part p → byteOf p ∧ inside dst (to_ p) ∧ ∀ b, from_ p = some b → inside src b) →
      (∀ p p' b, part p → part p' → from_ p' = some b → at_ dst (to_ p) ≠ at_ src b) →
      ∃ t, exec (.copyLanding s.self id first n) s = .next t ∧ same t ∧
        (∀ p, part p → ¬covered p → SMap.get t.gang.gmem (at_ dst (to_ p)) =
          match from_ p with | some b => SMap.get s.gang.gmem (at_ src b) | none => 0) ∧
        (∀ a, (∀ p, part p → a ≠ at_ dst (to_ p)) → SMap.get t.gang.gmem a = SMap.get s.gang.gmem a) ∧
        (∀ i, s.gang.full i = true → t.gang.full i = true) ∧
        (∀ i, (∀ p, part p → at_ dst (to_ p) / 16 ≠ i) → t.gang.full i = s.gang.full i) ∧
        ((∀ p, byteOf p → part p) → gone t ∧ ∀ p, part p → t.gang.full (at_ dst (to_ p) / 16) = true)) ∧
    -- one byte, of and to any space
    (∀ (p : Nat) (d : Acc) (s1 s2 : State) (v : List Byte) (cause : BitVec 9), e.op = .cpA ∨ e.op = .cpB → byteOf p → ¬covered p →
      let untouched (t : State) (m : Acc → Prop) : Prop :=
        (∀ x, (d.place ≠ .gmem ∨ x ≠ d.addr.toNat) → ¬m { d with place := .gmem, addr := BitVec.ofNat 64 x } →
          SMap.get t.gang.gmem x = SMap.get s2.gang.gmem x) ∧
        (∀ x, (d.place ≠ .bank ∨ x ≠ d.addr.toNat) → ¬m { d with place := .bank, addr := BitVec.ofNat 64 x } →
          SMap.get t.bank x = SMap.get s2.bank x) ∧
        (∀ x, (d.place ≠ .virt ∨ x ≠ d.pa.toNat) → SMap.get t.mem x = SMap.get s2.mem x)
      let kept (t : State) : Prop :=
        (e.partCount = 1 → gone t ∧ (cause = 0 → t.grp.due = s2.grp.due)) ∧
        (1 < e.partCount → ∃ e', t.grp.entry id = some e' ∧ e'.landed = [(p, 1)] ∧ e'.err = cause ∧
          (cause ≠ 0 → e'.detail = BitVec.ofNat 64 p))
      (∃ d0, s.byteAcc dst (to_ p : Nat) = .ok d0 ∧ s.engineXlat e d0 true p 4 = (.at_ d, s1)) → s2.Serves d →
      ((from_ p = none ∧ v = [0] ∧ s2 = s1 ∧ cause = 0) ∨
        (∃ b va, from_ p = some b ∧ s1.byteAcc src b = .error (cause, va) ∧ v = [0] ∧ s2 = s1) ∨
        ∃ b a0 a, from_ p = some b ∧ s1.byteAcc src b = .ok a0 ∧ s1.engineXlat e a0 false p 4 = (.at_ a, s2) ∧ s2.Serves a ∧
          v = s2.look a ∧ cause = 0) →
      (e.op = .cpA ∨ e.sc 3 = BitVec.allOnes 64 →
        ∃ t, exec (.copyLanding s.self id p 1) s = .next t ∧ regs t ∧ (d.place ≠ .nowhere → t.look d = v) ∧
          untouched t (fun _ => False) ∧ kept t) ∧
      (∀ o, e.op = .cpB → e.sc 3 ≠ BitVec.allOnes 64 → s.barOperand (e.sc 3) = .ok o →
        (o.1 = true → s.badBank = []) →
        let object (a : Acc) : Prop := a.place = (if o.1 then .bank else .gmem) ∧ o.2 ≤ a.addr.toNat ∧ a.addr.toNat < o.2 + 16
        ¬object d →
        let z := putField (s2.barrier o) 0 (barPending (s2.barrier o) - 1)
        ∃ t, exec (.copyLanding s.self id p 1) s = .next t ∧ regs t ∧ (d.place ≠ .nowhere → t.look d = v) ∧ untouched t object ∧ kept t ∧
          t.barrier o = (if barArrived z = barExpected z ∧ barPending z = 0 then barNext z else z) &&& 0x1FFFFFFFF00FFFFFFFFFFFFFF)) ∧
    (∀ (p : Nat) (c : BitVec 9) (va : W64), e.op = .cpA ∨ (e.op = .cpB ∧ e.sc 3 = BitVec.allOnes 64) → byteOf p → 1 < e.partCount →
      s.byteAcc dst (to_ p : Nat) = .error (c, va) →
      ∃ t e', exec (.copyLanding s.self id p 1) s = .next t ∧ same t ∧ t.gang = s.gang ∧ t.grp.entry id = some e' ∧
        e'.landed = [(p, 1)] ∧ e'.err = c ∧ e'.va = va ∧ e'.detail = BitVec.ofNat 64 p) ∧
    -- an entry of a gather within gang memory
    (∀ (k first n es : Nat), e.op = .gth → e.refused = [] → k < (e.sc 1).toNat → esize (bufFmt (e.snap 2)) = some es →
      let data := e.snap 2
      let tiles := (e.sc 2).getLsbD 10 = true
      let w := if tiles then 4096 * es else (bufStride1 data).toNat * es
      let ix (j : Nat) : Nat := ((e.sc 0).toNat + k) * 4 + j
      let x := ofBytes (SMap.getRange s.gang.gmem (at_ src (ix 0)) 4)
      let off (j : Nat) : Int :=
        if tiles then (x * (bufStride2 data).toInt + (j / (64 * es) : Nat) * (bufStride1 data).toInt) * es + (j % (64 * es) : Nat)
        else (x * w + j : Nat)
      let put (j : Nat) : Nat := at_ dst (k * w + j)
      0 < n → first + n ≤ w → (¬tiles → 0 < (bufStride1 data).toInt) →
      (∀ j, j < 4 → inside src (ix j)) → (∀ j, j < w → inside dst (k * w + j)) →
      let lands (t : State) : Prop := same t ∧
        (∀ a, (∀ j, first ≤ j → j < first + n → a ≠ put j) → SMap.get t.gang.gmem a = SMap.get s.gang.gmem a) ∧
        ((e.sc 1).toNat = 1 → n = w → gone t ∧ ∀ j, j < w → t.gang.full (put j / 16) = true)
      ((∀ j, j < w → 0 ≤ off j ∧ inside data (off j).toNat) →
        ∃ t, exec (.gatherEntryLanding s.self id (k, first, n)) s = .next t ∧ lands t ∧
          (∀ j, first ≤ j → j < first + n → SMap.get t.gang.gmem (put j) = SMap.get s.gang.gmem (at_ data (off j).toNat)) ∧
          ((e.sc 1).toNat = 1 → n = w → t.grp.due = s.grp.due)) ∧
      (bufSpace data = 1 → bufBounds data = 0 →
        (∃ j, j < w ∧ (off j < 0 ∨ ((min (bufExtent data).toNat (s.alloc - (bufBase data).toNat) : Nat) : Int) ≤ off j)) →
        ∃ t, exec (.gatherEntryLanding s.self id (k, first, n)) s = .next t ∧ lands t ∧
          (∀ j, first ≤ j → j < first + n → SMap.get t.gang.gmem (put j) = 0) ∧
          ((e.sc 1).toNat = 1 → n = w → s.grp.killed = false → ∃ u, t.grp.due = s.grp.due ++ [u] ∧ u.cause = cBOUNDS ∧
            u.detail = BitVec.ofNat 64 k)))

/-! ## Records -/

/-- rec.ld and cbld, once their bytes translate and read, put the record or the table in place and go on; a record load held by a fault of
its page parks its split past it (the model's reading, log 26); one refused for what the entry or the image holds traps precisely. The
record loaded has the entry's GEN plus one; of a shared entry it is the core's copy at once, and a store of the group at the load's place
in its order takes it to the table.
rec.st is a store of 32 bytes; rec.inv drops the core's copies of the entries it names, of one where the count is zero; an address
that is not aligned traps ALIGN (06 R136, R138, 08 R156, 18 R283).
rec.get reads a field, a stride sign-extended, and rec.set writes one and advances GEN by one, every other field as
before; an entry of the shared window changes in the core's copy, and a store of the group takes it to the table. Each traps with
the first refusal: a record that is neither a buffer nor a tile, a code of no field or of the other kind, for rec.set a read-only
field, a value that may not stand there, or, for FMT, MOM and PREC of a tile that holds segments, another value (06 R137,
08 R156). -/
def Obligations.Records : Prop :=
  (∀ (s : State) (a : BitVec 6) (n : BitVec 10),
     let x := s.readS a
     let old := s.record n
     (s.Ready { reads := [(.s a, false)], ready := s.loadsDone } →
       ∃ t, exec (.recInv a n) s = .next t ∧ s.StandsAt t (s.sp.pc + 4) ∧
         t = { s with grp := { s.grp with splits := t.grp.splits }, recCache := t.recCache } ∧
         ∀ c, c ∈ t.recCache ↔ c ∈ s.recCache ∧ ¬(c.die = s.gang.die ∧ c.core = s.gang.core ∧ c.vf = s.gang.vf ∧
           n.toNat ≤ c.n.toNat ∧ c.n.toNat < n.toNat + max 1 x.toNat)) ∧
     (s.Ready { reads := [(.s a, false)], ready := s.grp.heldStore.isNone, park := s.grp.heldStore, recs := [n] } → s.Unwatched →
       (x.toNat % 32 ≠ 0 → exec (.recSt a n) s = .next (s.trapVa cALIGN x)) ∧
       (x.toNat % 32 = 0 → Sent s (exec (.recSt a n) s) (.st .record) Dest.none [n] [x] [] [virtAcc x 32] none)) ∧
     (s.Ready { reads := [(.s a, false)], ready := s.wholeReady x 32 && s.changeReady n, park := s.grp.heldStore, recs := [n] } →
       (x.toNat % 32 ≠ 0 → exec (.recLd a n) s = .next (s.trapVa cALIGN x)) ∧
       (x.toNat % 32 = 0 → recKind old = 2 → tileSegs old ≠ 0 → exec (.recLd a n) s = .next (s.trap cREC_BUSY)) ∧
       (x.toNat % 32 = 0 → ¬(recKind old = 2 ∧ tileSegs old ≠ 0) →
         (∀ l m u, s.translate s.gang.vf s.coreId x .read = (.replay l m, u) →
           ∃ t e, exec (.recLd a n) s = .next t ∧ e ∈ t.grp.flight ∧ e.id = s.grp.nextId ∧ e.op = .recLd ∧
             e.held = some (pageOf x) ∧ t.sp.st = .parked (pageOf x) false ∧ t.sp.pc = s.sp.pc + 4 ∧ t.gang = s.gang) ∧
         ∀ pa v u, s.translate s.gang.vf s.coreId x .read = (.ok pa v, u) → regionOf pa ≠ .fabric →
           u.uncorrectable.contains (lineOf pa) = false → u.KeyFits v.key pa.toNat 32 →
           let image := BitVec.ofNat 256 (ofBytes (SMap.getRange u.mem pa.toNat 32))
           (∀ c, loadRefused old image = some c →
             exec (.recLd a n) s = .next (({ u with grp := { u.grp with nextId := u.grp.nextId + 1 } }).trap c)) ∧
           (loadRefused old image = none →
             ∃ t, exec (.recLd a n) s = .next t ∧ s.StandsAt t (s.sp.pc + 4) ∧ s.SameS t [] ∧ s.SameV t [] ∧ s.SameM t [] ∧
               t.record n = loadedRecord old image ∧ t.bank = s.bank ∧
               (n.toNat < 256 → t.mem = u.mem ∧ t.grp.flight = s.grp.flight ∧
                 ∀ m : BitVec 10, m.toNat < 256 → m ≠ n → t.record m = s.record m) ∧
               (256 ≤ n.toNat → t.gang = s.gang ∧ ∃ e, e ∈ t.grp.flight ∧ e.id = s.grp.nextId ∧ e.op = .st .table ∧
                 e.recs = [n] ∧ e.done = 0 ∧ e.datum 0 = (loadedRecord old image).toNat)))) ∧
     (s.Ready { reads := [(.s a, false)], ready := s.wholeReady x 768 } →
       (x.toNat % 16 ≠ 0 → exec (.cbld a) s = .next (s.trapVa cALIGN x)) ∧
       (∀ l b u v, x.toNat % 16 = 0 →
         s.translateAll .read ((List.range 48).map fun i =>
           { lane := i, place := .virt, addr := x + BitVec.ofNat 64 (16 * i), n := 16, pa := 0, via := {} }) = (.ok l, u) →
         u.readAccs l = (.ok b, v) →
         ∃ t, exec (.cbld a) s = .next t ∧ t.gang = { s.gang with codebook := SMap.setRange [] 0 b } ∧
           (s.gang.vf ∈ s.contexts.map (·.vf) → (t.ctx s.gang.vf).codebook = SMap.setRange [] 0 b) ∧
           s.StandsAt t (s.sp.pc + 4) ∧ s.SameS t [] ∧ s.SameV t [] ∧ s.SameM t [] ∧ t.mem = v.mem)) ∧
     ∀ r image : W256, recGen (loadedRecord r image) = recGen r + 1 ∧ recKind (loadedRecord r image) = recKind image) ∧
  ((∀ (s : State) (d r a f : BitVec 6),
     let n : BitVec 10 := (s.readS r).setWidth 10
     let old := s.record n
     let v := s.readS a
     (s.Ready { reads := [(.s r, false)], writes := [.s d], ready := s.fieldReady n, park := s.interlockHeld [n], recs := [n] } →
       (∀ c, fieldFault f old none = some c → exec (.recGet d r f) s = .next (s.trap c)) ∧
       (∀ x, fieldFault f old none = none → recField f = some x → DoneS s (exec (.recGet d r f) s) d
         (if f = 10 ∨ f = 11 then (BitVec.ofNat 32 (x.get old)).signExtend 64 else BitVec.ofNat 64 (x.get old)))) ∧
     (s.Ready { reads := [(.s r, false), (.s a, false)], ready := s.fieldReady n && s.changeReady n,
                park := if s.fieldReady n then s.grp.heldStore else s.interlockHeld [n], recs := [n] } →
       (∀ c, fieldFault f old (some v) = some c → exec (.recSet r a f) s = .next (s.trap c)) ∧
       (∀ x, fieldFault f old (some v) = none → recField f = some x →
         ∃ t, exec (.recSet r a f) s = .next t ∧ s.StandsAt t (s.sp.pc + 4) ∧ s.SameS t [] ∧ s.SameV t [] ∧ s.SameM t [] ∧
           recGen (t.record n) = recGen old + 1 ∧ x.get (t.record n) = v.toNat % 2 ^ x.width ∧
           (∀ f' y, recField f' = some y → f' ≠ f → f' ≠ 2 → (y.kind = x.kind ∨ y.kind = 0 ∨ x.kind = 0) →
             y.get (t.record n) = y.get old) ∧
           (n.toNat < 256 → s.SameBytes t ∧ t.grp.flight = s.grp.flight ∧
             ∀ m : BitVec 10, m.toNat < 256 → m ≠ n → t.record m = s.record m) ∧
           (256 ≤ n.toNat → t.gang = s.gang ∧ ∃ e, e ∈ t.grp.flight ∧ e.id = s.grp.nextId ∧ e.op = .st .table ∧
             e.recs = [n] ∧ e.done = 0 ∧ e.datum 0 = (t.record n).toNat)))) ∧
   ∀ (f : BitVec 6) (r : W256) (v : W64),
     let fault := fieldFault f r (some v)
     let known := recKind r = 1 ∨ recKind r = 2
     (¬known → fault = some cREC_KIND ∧ fieldFault f r none = some cREC_KIND) ∧
     (known → recField f = none → fault = some cREC_FIELD ∧ fieldFault f r none = some cREC_FIELD) ∧
     ∀ x, known → recField f = some x →
       (x.kind ≠ 0 → x.kind ≠ (recKind r).toNat → fault = some cREC_FIELD ∧ fieldFault f r none = some cREC_FIELD) ∧
       (x.kind = 0 ∨ x.kind = (recKind r).toNat → fieldFault f r none = none ∧
         (x.ro = true → fault = some cREC_FIELD) ∧
         (x.ro = false → fieldValueOk f x r v = false → fault = some cREC_VALUE) ∧
         (x.ro = false → fieldValueOk f x r v = true →
           fault = if (f = 24 ∨ f = 28 ∨ f = 29) ∧ tileSegs r ≠ 0 ∧ x.get r ≠ v.toNat then some cREC_BUSY else none)))

/-! ## Tiles -/

/-- The counted tile operations: each waits for the interlock of the tiles it names and for room in the matrix counter, checks
its records and operand, a failure of which traps precisely, and goes in flight with its records, scalar and registers
captured, counted on the matrix class (06 R111, R123, 11 R193, 12 R205 to R207).
The checks of a tile operation, in their order, the first that fails giving the cause: each record's KIND, FMT, SPACE, SCOPE and RO (which of
several failing causes is raised there, the spec leaves open: log 66); TILE_RECORD; TILE_FORMAT; TILE_KIND; TILE_SHAPE; TILE_VALUE; the
bounds of the bytes to be touched (11 R182, R184, 12 R206, R210 to R223, 21 R325, R326). -/
def Obligations.TilesIssue : Prop :=
  (∀ (s : State) (c a b : BitVec 8) (x : BitVec 6) (v : BitVec 7),
     let run (i : Instr) (op : TileOp) (ns : List (BitVec 8)) (sc : Option (BitVec 6)) (vec : Option (BitVec 7)) : Prop :=
       let recs : List (BitVec 10) := ns.map fun n => n.setWidth 10
       let snaps := recs.map s.record
       let free := s.interlockFree (((op.roles.zip recs).filter fun p => p.1.tile).map (·.2))
       let pair := tileFmt ((snaps[0]?).getD 0) == 9
       let vregs : List Nat := match vec with | none => [] | some r => if pair then [r.toNat, r.toNat + 1] else [r.toNat]
       let val := match sc with | some r => s.readS r | none => 0
       s.Ready {
         ok := (match vec with | some r => !(pair && free && r.toNat % 2 == 1) | none => true)
         reads := ((match sc with | some r => [.s r] | none => []) ++ vregs.map Reg.v).map fun r => (r, false)
         ready := free && s.grp.room 4, park := s.interlockHeld recs } →
       match s.tileFault op snaps val with
       | some f => exec i s = .next (s.trapVa f.1 f.2)
       | none => Sent s (exec i s) (.tile op) Dest.none recs (match sc with | some _ => [val] | none => []) (vregs.map s.grp.vreg) [] (some 4)
     run (.tld c a x) .tld [c, a] (some x) none ∧ run (.tldf c a x) .tldf [c, a] (some x) none ∧
     run (.tst c a x) .tst [c, a] (some x) none ∧ run (.tstf c a x) .tstf [c, a] (some x) none ∧
     run (.tmm c a b) .tmm [c, a, b] none none ∧ run (.tmms c a b) .tmms [c, a, b] none none ∧
     run (.tadd c a b) .tadd [c, a, b] none none ∧ run (.tsub c a b) .tsub [c, a, b] none none ∧
     run (.tz c x) .tz [c] (some x) none ∧ run (.tcp c a) .tcp [c, a] none none ∧
     run (.tscl c a x) .tscl [c, a] (some x) none ∧ run (.ttr c a) .ttr [c, a] none none ∧
     run (.trnd c) .trnd [c] none none ∧ run (.tlr c) .tlr [c] none none ∧ run (.tden c) .tden [c] none none ∧
     run (.tlu c a) .tlu [c, a] none none ∧ run (.ttrsmL c a b) .ttrsmL [c, a, b] none none ∧
     run (.ttrsmU c a) .ttrsmU [c, a] none none ∧ run (.tchol c) .tchol [c] none none ∧
     run (.tmmM c a b) .tmmM [c, a, b] none none ∧ run (.vt c v x) .vt [c] (some x) (some v)) ∧
  (∀ (s : State) (op : TileOp) (c a b : W256) (x : W64),
     let one := op ∈ [.tz, .trnd, .tlr, .tden, .tchol, .vt]
     let two := op ∈ [.tcp, .tscl, .ttr, .ttrsmU]
     let image := op ∈ [.tld, .tldf, .tst, .tstf]
     let snaps : List W256 := if one then [c] else if two ∨ image ∨ op = .tlu then [c, a] else [c, a, b]
     let tiles : List W256 := if one ∨ image ∨ op = .tlu then [c] else if two ∨ op = .ttrsmL then [c, a] else [c, a, b]
     let buf : W256 := if op = .ttrsmL then b else a
     let fault := s.tileFault op snaps x
     let fc := tileFmt c
     let fa := tileFmt a
     let fb := tileFmt b
     let float (f : BitVec 8) : Prop := f = 8 ∨ f = 9
     let narrow (f : BitVec 8) : Prop := f = 6 ∨ f = 10 ∨ f = 11 ∨ (12 ≤ f.toNat ∧ f.toNat ≤ 16) ∨ f = 18
     let moment (f : BitVec 8) : Prop := f = 19 ∨ f = 20
     -- check 1: a cause that is raised where it applies
     let ofTile (r : W256) (e : BitVec 9) : Prop := (recKind r ≠ 2 ∧ e = cREC_KIND) ∨ (20 < (tileFmt r).toNat ∧ e = cREC_FORMAT)
     let ofBuffer (e : BitVec 9) : Prop := (image ∨ op = .tlu ∨ op = .ttrsmL) ∧
       ((recKind buf ≠ 1 ∧ e = cREC_KIND) ∨ (bufSpace buf ≠ 0 ∧ bufSpace buf ≠ 1 ∧ bufSpace buf ≠ 3 ∧ e = cREC_SPACE) ∨
       ((20 < (bufFmt buf).toNat ∨ bufFmt buf ≠ (if image then fc else 1)) ∧ e = cREC_FORMAT) ∨
       (op ∈ [.tld, .tst] ∧ fc ∈ [14, 15, 16, 18] ∧ (bufStride1 buf ≠ 0 ∨ bufStride2 buf ≠ 0) ∧ e = cREC_VALUE) ∨
       (op ∈ [.tst, .tstf, .tlu] ∧ recRO buf = true ∧ e = cREC_PERM))
     let refused (e : BitVec 9) : Prop := (∃ r, r ∈ tiles ∧ ofTile r e) ∨ (op ∉ [.tst, .tstf] ∧ recRO c = true ∧ e = cREC_PERM) ∨ ofBuffer e
     -- check 2
     let record (r : W256) : Prop := tileTK r ≠ 3 ∧ tileKcap r ≠ 0 ∧ 1 ≤ (tileRows r).toNat ∧ (tileRows r).toNat ≤ 64 ∧
       1 ≤ (tileCols r).toNat ∧ (tileCols r).toNat ≤ 64 ∧ (tileMom r = true ↔ moment (tileFmt r)) ∧ ¬(tileMom r = true ∧ tileTK r = 2)
     -- check 3
     let format (r : W256) : Prop :=
       (moment (tileFmt r) → op ∈ [.tld, .tst, .tstf, .tz, .tcp, .tmmM] ∧ ¬(tileFmt r = 19 ∧ tilePrec r = true)) ∧
       (¬moment (tileFmt r) → (float (tileFmt r) ∨ narrow (tileFmt r)) ∧ (float (tileFmt r) → (tilePrec r = true ↔ tileFmt r = 9)) ∧
         (tileTK r = 2 → float (tileFmt r)))
     let combination : Prop :=
       if op ∈ [.tld, .tst, .tstf, .tz] then True
       else if op = .tcp then fa = fc ∧ tileMom a = tileMom c ∧ tilePrec a = tilePrec c
       else if op = .tmmM then fc = 19 ∧ moment fa ∧ (moment fb ∨ (tileTK b ≠ 2 ∧ (narrow fb ∨ fb = 8)))
       else float fc ∧
         (op ∈ [.tmm, .tmms] → tileTK a = 1 → tileTK b = 1 → (narrow fa ∧ narrow fb) ∨ (fa = fc ∧ fb = fc)) ∧
         (op = .ttr → tileTK a = 1 → fa = fc) ∧ (op ∈ [.ttrsmL, .ttrsmU] → fa = fc)
     -- checks 4 to 6
     let kind : Prop := (op = .tstf → tileTK c ≠ 1) ∧ (op ∈ [.tlu, .tchol] → tileTK c = 1) ∧ (op ∈ [.ttrsmL, .ttrsmU] → tileTK a = 1)
     let square : Prop := (op ∈ [.tlu, .tchol] → tileRows c = tileCols c) ∧ (op ∈ [.ttrsmL, .ttrsmU] → tileRows a = tileCols a)
     let value : Prop := (op = .tz → x.toNat ≤ (tileKcap c).toNat) ∧
       (op = .vt → (∀ i, i < 64 → x.getLsbD i = true → i ≤ 5 ∨ (8 ≤ i ∧ i ≤ 13)) ∧ x.toNat / 256 % 64 + s.width ≤ 64)
     -- check 7: the bytes touched, from BASE on
     let size := (esize fc).getD 1
     let pitch : Int := if bufStride1 a = 0 then 64 else (bufStride1 a).toInt
     let scaled := fc ∈ [6, 12, 13]
     let touches (o : Int) : Prop :=
       (op ∈ [.tld, .tst] ∧ fc ∈ [14, 15, 16, 18] ∧ ∃ i : Nat, o = x.toNat + i ∧
         i < (if fc = 16 then 2048 else if fc = 18 then 1024 else 3136) + 128) ∨
       (op ∈ [.tld, .tst] ∧ fc ∉ [14, 15, 16, 18] ∧
         ((∃ i j k : Nat, i < (tileRows c).toNat ∧ j < (tileCols c).toNat ∧ k < size ∧ o = x.toNat + (i * pitch + j) * size + k) ∨
         (scaled ∧ ∃ i : Nat, i < 128 ∧ o = x.toNat + (if bufStride2 a = 0 then 4096 else (bufStride2 a).toInt) + i))) ∨
       (op ∈ [.tldf, .tstf] ∧ ∃ n t k : Nat, k < size ∧ t < 64 ∧ o = x.toNat + (n * pitch + t) * size + k ∧
         n < 2 * (tileRank c).toNat ∧ (op = .tldf → tileTK c ≠ 1) ∧ (op = .tstf → tileTK c = 2)) ∨
       (op = .tlu ∨ (op = .ttrsmL ∧ tileTK c ≠ 0)) ∧ 0 ≤ o ∧ o < 256
     let records : Prop := ∀ r, r ∈ tiles → record r
     let formats : Prop := (∀ r, r ∈ tiles → format r) ∧ combination
     ((∃ e, refused e) → ∃ e, refused e ∧ fault = some (e, 0)) ∧
     ((∀ e, ¬refused e) →
       (¬records → fault = some (cTILE_RECORD, 0)) ∧
       (records → ¬formats → fault = some (cTILE_FORMAT, 0)) ∧
       (records → formats → ¬kind → fault = some (cTILE_KIND, 0)) ∧
       (records → formats → kind → ¬square → fault = some (cTILE_SHAPE, 0)) ∧
       (records → formats → kind → square → ¬value → fault = some (cTILE_VALUE, 0)) ∧
       (records → formats → kind → square → value →
         ((∀ o, touches o → ∃ at_, s.byteAcc buf o = .ok at_) → fault = none) ∧
         (∀ o f, touches o → s.byteAcc buf o = .error f → ∃ o' f', touches o' ∧ s.byteAcc buf o' = .error f' ∧ fault = some f'))))

/-- A tile operation without memory retires in its turn: where its result claims no more segments than the gang has free, the
destination takes the value; its record takes the kind and the rank, holds the segments the value needs, its first segment as it was
where it had so many already, GEN plus one, SCALE 0x7F after arithmetic, and every other field as before; nothing else of the gang
changes, nothing at all where it has no result; AEF gains the flags of the result, of IV and OF but for a moment product, and the clip
flag is kept; it is in flight no longer and counts as completed. Where the claim fails it leaves the destination as it was: under TOVF it
retires with the sticky overflow flag set, else it stays and TILE_NOSPACE is due. Registers and memory stay (10 R180, 11 R185 to R191,
R194, R195, 12 R207, R209). -/
def Obligations.TileRetires : Prop :=
  ∀ (s : State) (id : Nat) (e : Entry) (op : TileOp) (n : BitVec 10), s.gang.present = true → s.captured s.gang.vf = false →
    s.grp.entry id = some e → e.op = .tile op → e.err = 0 → e.held = none → e.more = [] → e.claimed = none → e.watch = [] →
    s.grp.killed = false → e.recs.head? = some n → n.toNat < 256 → recKind (s.record n) = 2 → s.claimTurn e = true →
    s.gang.badTiles = [] → op ∉ [.tld, .tldf, .ttrsmL, .tst, .tstf] →
    let o := s.tileResult e op []
    let r := s.record n
    let f := tileFmt (e.snap 0)
    let need : Nat := match o.val with
      | none | some .zero => 0
      | some (.lowRank _ _) => if tilePrec (e.snap 0) then 2 * o.rank else o.rank
      | some (.dense _ scales) =>
        let more := if scales = [] then 0 else 1
        if f = 9 ∨ f = 19 then 64 else if f = 8 ∨ f = 20 then 32 else if f = 10 ∨ f = 11 then 16
        else if f = 6 ∨ f = 12 ∨ f = 13 then 8 + more else if f = 14 ∨ f = 15 then 7 else if f = 16 then 4 + more else 3
    let claim : Nat := if need ≤ (tileSegs r).toNat then 0 else need
    let free := s.gang.pool.toNat - s.gang.inUse - s.claimedSegs e.seq
    let same (t : State) : Prop := s.SameS t [] ∧ s.SameV t [] ∧ s.SameM t [] ∧ s.SameBytes t ∧ t.peers = s.peers ∧ t.others = s.others
    let leaves (t : State) : Prop := (∀ x, x ∈ t.grp.flight → x.id ≠ id) ∧ t.grp.counters = (s.grp.complete id).counters
    o.writes = [] →
    (free < claim → modeTOVF e.mode = true → ∃ t, exec (.tileRetirement s.self id none) s = .next t ∧ t.gang = s.gang ∧
      t.grp.tsf = s.grp.tsf ||| 1 ∧ t.grp.aef = s.grp.aef ∧ leaves t ∧ same t) ∧
    (free < claim → modeTOVF e.mode = false → ∃ t, exec (.tileRetirement s.self id none) s = .next t ∧ t.gang = s.gang ∧
      t.grp.tsf = s.grp.tsf ∧ t.grp.aef = s.grp.aef ∧ (∃ d, d ∈ t.grp.due ∧ d.cause = cTILE_NOSPACE ∧ d.id = id ∧ d.tkind = 1) ∧ same t) ∧
    (claim ≤ free → ∃ t, exec (.tileRetirement s.self id none) s = .next t ∧ leaves t ∧ same t ∧
      t.grp.tsf = s.grp.tsf ||| (if o.clip then 2 else 0) ∧
      (∀ i, i < 64 → (t.grp.aef.getLsbD i = true ↔ s.grp.aef.getLsbD i = true ∨
        (o.rep.fl.getLsbD i = true ∧ (i = 0 ∨ i = 2 ∨ op = .tmmM)))) ∧
      (o.val = none → t.gang = s.gang) ∧
      (∀ v, o.val = some v → t.gang.tile n.toNat = v ∧
        (let q := t.record n
         tileTK q = (match v with | .zero => 0 | .dense _ _ => 1 | .lowRank _ _ => 2) ∧ tileRank q = BitVec.ofNat 5 o.rank ∧
         tileSegs q = BitVec.ofNat 12 need ∧ (need = 0 → tileSegbase q = 0) ∧ (need ≠ 0 → claim = 0 → tileSegbase q = tileSegbase r) ∧
         recGen q = recGen r + 1 ∧ tileScale q = (if op ∈ [.tz, .tcp] then tileScale r else 0x7F) ∧
         recKind q = 2 ∧ recRO q = recRO r ∧ tileFmt q = tileFmt r ∧ tileKcap q = tileKcap r ∧ tileMom q = tileMom r ∧
         tilePrec q = tilePrec r ∧ tileRows q = tileRows r ∧ tileCols q = tileCols r) ∧
        (∀ m : BitVec 10, m.toNat < 256 → m ≠ n → t.record m = s.record m ∧ t.gang.tile m.toNat = s.gang.tile m.toNat) ∧
        t.gang = { s.gang with tiles := t.gang.tiles, window := t.gang.window }))

/-- What the operations on dense and zero tiles come to. tz gives the zero tile; a product with a zero operand leaves its destination; sums
of zero tiles, and the scale, transpose and copy of one, are zero. An element of a dense operand has, in a narrow format, its value times
its block scale, NaN where a scale byte is 0xFF, and counts as +0 outside its valid region; it enters an operation with factors or alone
rounded once to C's precision. tcp copies the elements both tiles have, and the scale bytes; ttr swaps rows and columns; tadd and tsub round
each sum once, narrow elements rounded before, and of one operand beside a zero one take its elements; tscl rounds each product; tmm adds the
products of elements of C's precision along k in ascending order, each step one fused multiply-add, tmms subtracts them; those of narrow
elements it adds in four groups of 16 along k, each rounded once with the accumulator. With what the steps raise (10 R172, R177 to R180, 11
R183, R184, R185, R197, R198, 12 R214 to R217; that beside an accumulator that is NaN nothing is raised: log 64).
tinfo gives a tile record's kind, rank, KCAP, MOM, PREC, SEGS and GEN, tls goes on, each once no operation on the tile is
in flight, with REC_KIND where the record is no tile, REC_FORMAT where its FMT is reserved, and TILE_FORMAT for an mf32 moment tile
with PREC 1; tv reads a row at issue, which its completion writes to the active
lanes, and traps with the first check that fails (12 R206, R221, R222, R224, R225, 11 R193, 21 R325). -/
def Obligations.TileArithmetic : Prop :=
  ((∀ (s : State) (e : Entry) (img : List Byte), s.tileResult e .tz img = { val := some .zero, rank := (e.sc 0).toNat }) ∧
   ∀ (m x : W64) (cb : SMap 8) (c a b : Opnd),
     c.rows ≤ 64 → c.cols ≤ 64 → a.rows ≤ 64 → a.cols ≤ 64 → b.rows ≤ 64 → b.cols ≤ 64 →
     let F := if tilePrec c.r then fmtF64 else fmtF32
     let w := if tilePrec c.r then 64 else 32
     let mb := if tilePrec c.r then 52 else 23
     -- a dense tile in C's precision; one in a narrow format
     let dense (o : Opnd) : Prop := tileTK o.r = 1 ∧ tileFmt o.r = (if tilePrec c.r then 9 else 8)
     let narrow (o : Opnd) : Prop := tileTK o.r = 1 ∧
       (tileFmt o.r = 6 ∨ tileFmt o.r = 10 ∨ tileFmt o.r = 11 ∨ (12 ≤ (tileFmt o.r).toNat ∧ (tileFmt o.r).toNat ≤ 16) ∨ tileFmt o.r = 18)
     let at_ (o : Opnd) (i j : Nat) : Nat := if o.inside i j then Mat.at o.els i j else 0
     let value (o : Opnd) (i j : Nat) : FV := (o.values cb).getD (64 * i + j) .nan
     -- an element rounded to C's precision; as it enters a sum; as it stands alone
     let cast (o : Opnd) (i j : Nat) : Res := F.ofFV 0 false (value o i j)
     let entry (o : Opnd) (i j : Nat) : FV := if narrow o then F.value (cast o i j).val else value o i j
     let alone (o : Opnd) (i j : Nat) : Nat := if dense o then at_ o i j else (cast o i j).val
     (tileTK a.r = 0 ∨ tileTK b.r = 0 → ∀ neg, tileMul m neg cb c a b = TileOut.keep) ∧
     (tileTK a.r = 0 → (∀ x, tileScaleBy m cb x c a = TileOut.zero) ∧ tileTr m c a = TileOut.zero ∧ tileCopy m cb c a = TileOut.zero) ∧
     (tileTK a.r = 0 → tileTK b.r = 0 → ∀ neg, tileAdd m neg cb c a b = TileOut.zero) ∧
     -- the stored elements and scale bytes, and the value of an element
     (∀ els sc, a.v = .dense els sc →
       (SMap.wf els = true → tileTK a.r = 1 → ∀ k, k < 4096 → a.els.getD k 0 = (els.get k).toNat) ∧
       (SMap.wf sc = true → ∀ k, k < 128 → a.scales.getD k 0x7F = (sc.get k ^^^ 0x7F).toNat)) ∧
     (∀ i j, i < 64 → j < 64 →
       (a.inside i j = false ∨ tileTK a.r ≠ 1 → value a i j = .fin false 0 0) ∧
       (a.inside i j = true → tileTK a.r = 1 →
         let f := tileFmt a.r
         let bits := Mat.at a.els i j
         let scale := a.scales.getD (2 * i + j / 32) 0x7F
         let base := (tileScale a.r).toNat
         (f = 8 ∨ f = 9 ∨ f = 10 ∨ f = 11 → value a i j = (fmtOf (f.setWidth 5)).value bits) ∧
         (f = 6 ∨ (12 ≤ f.toNat ∧ f.toNat ≤ 16) ∨ f = 18 → scale = 255 ∨ base = 255 → value a i j = .nan) ∧
         (f = 6 ∨ (12 ≤ f.toNat ∧ f.toNat ≤ 16) → scale < 255 → base < 255 →
           (isNaN (f.setWidth 5) bits → value a i j = .nan) ∧
           (∀ neg, isInfinite (f.setWidth 5) bits neg → value a i j = .inf neg) ∧
           ∀ neg Z D, isNumber (f.setWidth 5) bits neg Z D → ∃ n e, value a i j = .fin neg n e ∧ -1000 ≤ e ∧
             n * 2 ^ (e + 1000).toNat * D.toNat = Z.natAbs * 2 ^ (scale + base + 746 - (if f = 6 then 6 else 0))) ∧
         (f = 18 → scale < 255 → base < 255 →
           let ix := a.els.getD (8 * i + j / 8) 0
           let q := j % 8
           value a i j = .fin (if q < 7 then ix.testBit (q + 1) else popCount (BitVec.ofNat 7 (ix / 2)) % 2 == 1)
             (2 * codebookMag cb (ix / 256 % 256) q + ix % 2) ((scale : Int) + base - 255)))) ∧
     (∀ i j, i < 64 → j < 64 → ∀ rows cols, rows ≤ 64 → cols ≤ 64 →
       Mat.at (a.mat c.pr cb rows cols).value i j = if i < rows ∧ j < cols ∧ a.inside i j = true then
         (if tileFmt a.r = (if tilePrec c.r then 9 else 8) then Mat.at a.els i j else (cast a i j).val) else 0) ∧
     -- copies, transposition, scaling
     (tileTK a.r = 1 → ∀ old sc, a.v = .dense old sc → ∃ els, (tileCopy m cb c a).val = some (.dense els sc) ∧
       (tileFmt a.r ≠ 18 → ∀ i j, i < 64 → j < 64 → els.get (64 * i + j) = BitVec.ofNat 64 (if c.inside i j then at_ a i j else 0)) ∧
       (tileFmt a.r = 18 → ∀ k, k < 512 → els.get k =
         BitVec.ofNat 64 (if c.inside (k / 8) (8 * (k % 8)) ∧ a.inside (k / 8) (8 * (k % 8)) then a.els.getD k 0 else 0))) ∧
     (dense a → (tileTr m c a).gives c fun i j => at_ a j i) ∧
     (tileTK a.r = 1 →
       let r (i j : Nat) : Res := F.ofOpt 0 false (FV.mul (F.value (if tilePrec c.r then x.toNat else x.toNat % 2 ^ 32)) (value a i j))
       (tileScaleBy m cb x c a).gives c (fun i j => (r i j).val) ∧
       (tileScaleBy m cb x c a).raises c Rep.none fun i j f => (r i j).rep.fl.getLsbD f = true) ∧
     -- sums
     (tileTK a.r = 1 → tileTK b.r = 1 → ∀ neg : Bool,
       let r (i j : Nat) : Res := F.ofOpt 0 false (FV.add 0 (entry a i j) (if neg then (entry b i j).neg else entry b i j))
       (tileAdd m neg cb c a b).gives c (fun i j => (r i j).val) ∧
       (dense a → dense b → ∀ i j, c.inside i j = true → r i j = (if neg then F.sub else F.add) 0 false (at_ a i j) (at_ b i j)) ∧
       (tileAdd m neg cb c a b).raises c Rep.none fun i j f => (r i j).rep.fl.getLsbD f = true ∨
         (narrow a ∧ (cast a i j).rep.fl.getLsbD f = true) ∨ (narrow b ∧ (cast b i j).rep.fl.getLsbD f = true)) ∧
     (tileTK a.r = 1 → tileTK b.r = 0 → ∀ neg, (tileAdd m neg cb c a b).gives c (alone a)) ∧
     (tileTK a.r = 0 → tileTK b.r = 1 → ∀ neg : Bool, (tileAdd m neg cb c a b).gives c fun i j =>
       let x := alone b i j
       if neg = false then x else if F.value x = .nan then F.nanCode else if x < 2 ^ (w - 1) then x + 2 ^ (w - 1) else x % 2 ^ (w - 1)) ∧
     -- products
     ((tileTK c.r = 1 → dense c) →
       let own := c.ownFactors
       let start (i j : Nat) : Nat := if tileTK c.r = 2 then rnSum F false (own.1.elem i) (own.2.elem j) 0 own.1.size else at_ c i j
       let before (i j f : Nat) : Prop := tileTK c.r = 2 ∧ rnRaises F false (own.1.elem i) (own.2.elem j) 0 own.1.size f
       (dense a → dense b → ∀ neg : Bool,
         (tileMul m neg cb c a b).gives c (fun i j => rnSum F neg (at_ a i) (fun k => at_ b k j) (start i j) 64) ∧
         (tileMul m neg cb c a b).raises c Rep.none fun i j f => before i j f ∨
           rnRaises F neg (at_ a i) (fun k => at_ b k j) (start i j) 64 f) ∧
       (narrow a → narrow b → ∀ neg : Bool, ∃ (X : Nat → Nat → Nat → Nat) (R : Nat → Nat → Nat → Rep),
         (tileMul m neg cb c a b).gives c (fun i j => X i j 4) ∧
         (tileMul m neg cb c a b).raises c Rep.none (fun i j f => before i j f ∨ ∃ g, g < 4 ∧ (R i j g).fl.getLsbD f = true) ∧
         ∀ i j, c.inside i j = true → X i j 0 = start i j ∧ ∀ g, g < 4 →
           let z := X i j g
           let r : Res := ⟨X i j (g + 1), R i j g⟩
           let ks := (List.range 16).map (16 * g + ·)
           let prod (k : Nat) : Option FV := if a.inside i k && b.inside k j then FV.mul (value a i k) (value b k j) else some (.fin false 0 0)
           let bad : Prop := ∃ k, k ∈ ks ∧ (prod k = none ∨ (prod k = some (.inf true) ∧ ∃ k', k' ∈ ks ∧ prod k' = some (.inf false)))
           let nan : Prop := ∃ k, k ∈ ks ∧ prod k = some .nan
           (F.value z = .nan → r = .quiet F.nanCode) ∧
           (F.value z ≠ .nan →
             (bad → r = F.invalid) ∧
             (¬bad → nan → r = .quiet F.nanCode) ∧
             (¬bad → ¬nan →
               (∀ k s, k ∈ ks → prod k = some (.inf s) → r = if F.value z = .inf (s == neg) then F.invalid else F.infinity (s != neg)) ∧
               (∀ s, (∀ k, k ∈ ks → ∃ n p e, prod k = some (.fin n p e)) → F.value z = .inf s → r = F.infinity s) ∧
               (isFinite w (2 ^ (w - 1) - 2 ^ mb - 1) (z % 2 ^ w) → ∀ (P : Nat → Int),
                 (∀ k, k ∈ ks → ∃ n p e, prod k = some (.fin n p e) ∧ -1000 ≤ e ∧
                   P k = (if n then -1 else 1) * ((p * 2 ^ (e + 1000).toNat : Nat) : Int)) →
                 let sum : Int := (ks.map P).sum
                 roundsOnce w mb 0 r (units w mb z * 2 ^ 1000 + (if neg then -sum else sum) * oneUnits w mb) (2 ^ 1000))))))) ∧
  (∀ (s : State) (d : BitVec 6) (vd : BitVec 7) (a : BitVec 8) (b : BitVec 6),
     let n : BitVec 10 := a.setWidth 10
     let r := s.record n
     let free := s.interlockFree [n]
     let good := recKind r = 2 ∧ (tileFmt r).toNat ≤ 20 ∧ ¬(tileFmt r = 19 ∧ tileMom r = true ∧ tilePrec r = true)
     (s.Ready { writes := [.s d], ready := free, park := s.interlockHeld [n] } →
       (recKind r ≠ 2 → exec (.tinfo d a) s = .next (s.trap cREC_KIND)) ∧
       (recKind r = 2 → 20 < (tileFmt r).toNat → exec (.tinfo d a) s = .next (s.trap cREC_FORMAT)) ∧
       (recKind r = 2 → tileFmt r = 19 → tileMom r = true → tilePrec r = true →
         exec (.tinfo d a) s = .next (s.trap cTILE_FORMAT)) ∧
       (good → ∃ v : W64, DoneS s (exec (.tinfo d a) s) d v ∧
         field v 0 2 = tileTK r ∧ field v 2 5 = tileRank r ∧ field v 7 5 = tileKcap r ∧ v.getLsbD 12 = tileMom r ∧
         v.getLsbD 13 = tilePrec r ∧ field v 14 12 = tileSegs r ∧ field v 26 16 = recGen r ∧ v >>> 42 = 0)) ∧
     (s.Ready { writes := [], ready := free, park := s.interlockHeld [n] } →
       (recKind r ≠ 2 → exec (.tls a) s = .next (s.trap cREC_KIND)) ∧
       (recKind r = 2 → 20 < (tileFmt r).toNat → exec (.tls a) s = .next (s.trap cREC_FORMAT)) ∧
       (recKind r = 2 → tileFmt r = 19 → tileMom r = true → tilePrec r = true → exec (.tls a) s = .next (s.trap cTILE_FORMAT)) ∧
       (good → Goes s (exec (.tls a) s) (s.sp.pc + 4))) ∧
     (let pair := tvPair r && (s.tvFault r 0).isNone
      let count := if pair then 2 else 1
      let x := s.readS b
      s.Ready { ok := !(pair && free && vd.toNat % 2 == 1), reads := [(.s b, false)], writes := (Dest.vec vd.toNat count).regs
                ready := free, park := s.interlockHeld [n] } →
      (∀ c, s.tvFault r x = some c → exec (.tv vd a b) s = .next (s.trap c)) ∧
      (s.tvFault r x = none → s.gang.badTiles.contains n.toNat = true → s.grp.killed = false → ∃ t, exec (.tv vd a b) s = .next t ∧
        t.replies = s.replies ++ [.uncorrectableTile s.gang.ref s.gang.die s.gang.core n.toNat] ∧
        (∃ q, q ∈ t.grp.due ∧ q.cause = cMEM_UNCORR ∧ q.id = s.grp.nextId ∧ q.tkind = 1) ∧ s.SameV t [] ∧ s.SameBytes t) ∧
      (s.tvFault r x = none → s.gang.badTiles.contains n.toNat = false →
        Sent s (exec (.tv vd a b) s) .tv (Dest.vec vd.toNat count) [n] [x] [] [] none ∧
        ((∀ y, y ∈ s.grp.flight → y.id < s.grp.nextId) → s.captured s.gang.vf = false →
         ∃ t u, exec (.tv vd a b) s = .next t ∧ exec (.producerCompletion s.self s.grp.nextId 0) t = .next u ∧
           u.grp.flight = s.grp.flight ∧
           let val (l : Nat) : Nat := tvElem { r, v := s.gang.tile n.toNat } s.gang.codebook (field x 0 6 : BitVec 6).toNat
             ((field x 8 6 : BitVec 6).toNat + l)
           (pair = false → ∀ l, l < 64 → u.grp.vreg vd.toNat l =
             if s.active.getLsbD l then BitVec.ofNat 32 (val l) else s.grp.vreg vd.toNat l) ∧
           (pair = true → ∀ l, l < 64 → u.grp.vpair vd.toNat l =
             if s.active.getLsbD l then BitVec.ofNat 64 (val l) else s.grp.vpair vd.toNat l) ∧
           s.SameS u [] ∧ s.SameV u [vd.toNat, vd.toNat + 1] ∧ s.SameM u [] ∧ s.SameBytes u))) ∧
     (∀ (o : Opnd) (cb : SMap 8) (i j : Nat), i < 64 → j < 64 →
       (tileTK o.r = 0 ∨ o.inside i j = false → tvElem o cb i j = 0) ∧
       (o.inside i j = true → tileTK o.r = 1 → tvElem o cb i j = if tileFmt o.r = 8 ∨ tileFmt o.r = 9 then Mat.at o.els i j
         else (fmtF32.ofFV 0 false ((o.values cb).getD (64 * i + j) .nan)).val) ∧
       (o.inside i j = true → tileTK o.r = 2 → tvElem o cb i j =
         rnSum (if tilePrec o.r then fmtF64 else fmtF32) false (o.ownFactors.1.elem i) (o.ownFactors.2.elem j) 0 o.ownFactors.1.size)))

/-- The result of a low-rank pair. Its columns, +0 beyond C's valid region, are rounded by the Mica unit under MODE: no columns give the
zero tile; as many as KCAP or fewer, a low-rank tile; more, the first KCAP with the clip flag under PROMO, else the dense expansion. With an
element not finite the unit does not run, and the columns are expanded; where a step of it raises IV, DZ or OF, from which alone finite values
become infinite or NaN, it is abandoned, the columns are expanded, and OF and one OVERFLOW are raised. tlr of a dense tile takes the columns
of its Jacobi rotation that TRUNC keeps, and stays as it was where they are too many, under NONE, with an element not finite, or abandoned;
trnd and tlr round a low-rank tile; else the tile stays (11 R199, R200, R203, 12 R214).
The results with factors. A low-rank operand has the columns it stores, +0 beyond its valid region, each element rounded to C's
precision where its own is another. A product of a dense and a low-rank operand, or of two, is low-rank, of columns summed in order; into a
dense C it is accumulated, beside another it joins C's own columns; a sum of two low-rank tiles joins theirs, one of a low-rank and a dense
one starts from the dense elements or adds to the expansion; the copy, scale and transpose of a low-rank tile are low-rank, and all of these
are rounded as C's kind of result is. tden and vt expand; tldf reads its columns (11 R183, R184, R197 to R199, 12 R212, R214 to R217, R223).
The steps of the Mica unit, every rounding in its order: the twice repeated Gram–Schmidt of a column, all coefficients from one column,
zero where its norm is zero or at most η times the largest; the rotation of a pair of columns, skipped where they are near orthogonal; the
sweeps over all pairs, until one makes no rotation, ten at the most; the product of the triangles; the order of the norms; the columns that
TRUNC keeps by exact sums; and the new factors. Norms compare as their codes (11 R201, R202). -/
def Obligations.TileRank : Prop :=
  (∀ (mode : W64) (cb : SMap 8) (c : Opnd), c.rows ≤ 64 → c.cols ≤ 64 →
     let wide := tilePrec c.r
     let F := if wide then fmtF64 else fmtF32
     let w := if wide then 64 else 32
     let mb := if wide then 52 else 23
     let p := Pr.of wide
     let kcap := (tileKcap c.r).toNat
     let finite (x : Nat) : Prop := x % 2 ^ (w - 1) ≤ 2 ^ (w - 1) - 2 ^ mb - 1
     let breaks (rep : Rep) : Prop := ∃ f, f < 3 ∧ rep.fl.getLsbD f = true
     (∀ (u v : Cols) (r : Nat) (rep : Rep), u.sized 64 r → v.sized 64 r → ∃ mu mv : Cols, mu.sized 64 r ∧ mv.sized 64 r ∧
       (∀ t j, t < 64 → j < r → mu.elem t j = (if t < c.rows then u.elem t j else 0) ∧ mv.elem t j = if t < c.cols then v.elem t j else 0) ∧
       let o := roundL mode c u v rep
       let R := (p.recompress (modeRKM mode) (modeRKT mode).toNat mu mv r).run Rep.none
       let fin : Prop := ∀ t j, t < 64 → j < r → finite (mu.elem t j) ∧ finite (mv.elem t j)
       let expands (u v : Cols) (n : Nat) (rep : Rep) : Prop := o.rank = 0 ∧ o.clip = false ∧
         o.gives c (fun i j => rnSum F false (u.elem i) (v.elem j) 0 n) ∧ o.raises c rep fun i j f => rnRaises F false (u.elem i) (v.elem j) 0 n f
       (¬fin → expands mu mv r rep ∧ o.n = none) ∧
       (fin → breaks R.2 → expands mu mv r (rep.or Rep.overflow) ∧ o.n = none ∧ o.rep.lg.getLsbD 1 = true) ∧
       (fin → ¬breaks R.2 → o.n = some R.1.n ∧
         (R.1.n = 0 → o.val = some .zero ∧ o.rank = 0 ∧ o.clip = false ∧ o.rep = rep) ∧
         (0 < R.1.n → R.1.n ≤ kcap → o.givesCols R.1.n R.1.u.elem R.1.v.elem ∧ o.clip = false ∧ o.rep = rep) ∧
         (kcap < R.1.n → modePROMO mode = true → o.givesCols kcap R.1.u.elem R.1.v.elem ∧ o.clip = true ∧ o.rep = rep) ∧
         (kcap < R.1.n → modePROMO mode = false → expands R.1.u R.1.v R.1.n rep))) ∧
     (tileTK c.r = 2 → ∀ full, tileRound mode cb full c = roundL mode c c.ownFactors.1 c.ownFactors.2 Rep.none) ∧
     (tileTK c.r = 0 → ∀ full, tileRound mode cb full c = TileOut.keep) ∧
     (tileTK c.r = 1 → tileRound mode cb false c = TileOut.keep) ∧
     (tileTK c.r = 1 → tileFmt c.r = (if wide then 9 else 8) → ∃ B : Cols, B.sized 64 64 ∧
       (∀ i j, i < 64 → j < 64 → B.elem i j = if c.inside i j then Mat.at c.els i j else 0) ∧
       let o := tileRound mode cb true c
       let J := (p.jacobi B 64 64).run Rep.none
       let dot (k : Nat) : Nat := rnSum F false (J.1.1.elem · k) (J.1.1.elem · k) 0 64
       let σ (k : Nat) : Nat := (F.sqrtV 0 false (F.value (dot k))).val
       let fin : Prop := ∀ i j, i < 64 → j < 64 → finite (B.elem i j)
       let abandoned : Prop := breaks J.2 ∨ ∃ k f, k < 64 ∧ f < 3 ∧
         (rnRaises F false (J.1.1.elem · k) (J.1.1.elem · k) 0 64 f ∨ (F.sqrtV 0 false (F.value (dot k))).rep.fl.getLsbD f = true)
       (¬fin → o = TileOut.keep) ∧
       (fin → abandoned → o.val = none ∧ o.n = none ∧ o.clip = false ∧ o.rep.fl.getLsbD 0 = false ∧ o.rep.fl.getLsbD 2 = true ∧
         o.rep.lg = 0b00010) ∧
       (fin → ¬abandoned → o.rep = Rep.none ∧
         (modeRKM mode = 3 → o.val = none) ∧
         (modeRKM mode ≠ 3 → ∃ π n, downwards σ 64 π ∧ truncates w mb (modeRKM mode) (modeRKT mode).toNat σ 64 π n ∧ o.n = some n ∧
           let takes (q : Nat) : Prop := o.givesCols q (fun t j => J.1.1.elem t (π.getD j 0)) (fun t j => J.1.2.elem t (π.getD j 0))
           (n = 0 → o.val = some .zero ∧ o.rank = 0 ∧ o.clip = false) ∧
           (0 < n → n ≤ kcap → takes n ∧ o.clip = false) ∧
           (kcap < n → modePROMO mode = true → takes kcap ∧ o.clip = true) ∧
           (kcap < n → modePROMO mode = false → o.val = none ∧ o.clip = false))))) ∧
  (∀ (m x : W64) (cb : SMap 8) (c a b : Opnd),
     c.rows ≤ 64 → c.cols ≤ 64 → a.rows ≤ 64 → a.cols ≤ 64 → b.rows ≤ 64 → b.cols ≤ 64 →
     let F := if tilePrec c.r then fmtF64 else fmtF32
     let w := if tilePrec c.r then 64 else 32
     let isL (o : Opnd) : Prop := tileTK o.r = 2 ∧ ∃ fu fv, o.v = .lowRank fu fv
     let dense (o : Opnd) : Prop := tileTK o.r = 1 ∧ tileFmt o.r = (if tilePrec c.r then 9 else 8)
     let at_ (o : Opnd) (i j : Nat) : Nat := if o.inside i j then Mat.at o.els i j else 0
     let own (o : Opnd) : Cols × Cols := o.ownFactors
     let fac (o : Opnd) : Cols × Cols := (o.factors c.pr).value
     let D (o : Opnd) (i j : Nat) : Nat := Mat.at (o.mat c.pr cb 64 64).value i j
     let kc := if tileTK c.r = 2 then (tileRank c.r).toNat else 0
     let ka := (tileRank a.r).toNat
     let kb := (tileRank b.r).toNat
     let flip (neg : Bool) (x : Nat) : Nat := if neg = false then x else if x < 2 ^ (w - 1) then x + 2 ^ (w - 1) else x % 2 ^ (w - 1)
     -- rounded from k columns of the elements given
     let rounds (o : TileOut) (k : Nat) (u v : Nat → Nat → Nat) : Prop := ∃ U V rep, o = roundL m c U V rep ∧ U.sized 64 k ∧ V.sized 64 k ∧
       ∀ t j, t < 64 → j < k → U.elem t j = u t j ∧ V.elem t j = v t j
     -- the columns of an operand
     (∀ fu fv, a.v = .lowRank fu fv → tileTK a.r = 2 → SMap.wf fu = true → SMap.wf fv = true →
       (own a).1.sized 64 ka ∧ (own a).2.sized 64 ka ∧
       ∀ t j, t < 64 → j < ka →
         (own a).1.elem t j = (if t < a.rows then (fu.get (64 * j + t)).toNat else 0) ∧
         (own a).2.elem t j = (if t < a.cols then (fv.get (64 * j + t)).toNat else 0)) ∧
     (isL a → (fac a).1.sized 64 ka ∧ (fac a).2.sized 64 ka ∧
       let cast (y : Nat) : Nat := if tilePrec a.r = tilePrec c.r then y
         else (F.ofFV 0 false ((if tilePrec a.r then fmtF64 else fmtF32).value y)).val
       ∀ t j, t < 64 → j < ka → (fac a).1.elem t j = cast ((own a).1.elem t j) ∧ (fac a).2.elem t j = cast ((own a).2.elem t j)) ∧
     -- products
     (∀ neg, tileTK c.r ≠ 2 ∨ isL c → ∀ (k : Nat) (U V : Nat → Nat → Nat),
       ((tileTK a.r = 1 ∧ isL b ∧ k = kb ∧ (∀ i j, U i j = rnSum F false (D a i) ((fac b).1.elem · j) 0 64) ∧ ∀ t j, V t j = (fac b).2.elem t j) ∨
         (isL a ∧ tileTK b.r = 1 ∧ k = ka ∧ (∀ t j, U t j = (fac a).1.elem t j) ∧
           ∀ i j, V i j = rnSum F false (fun t => D b t i) ((fac a).2.elem · j) 0 64) ∨
         (isL a ∧ isL b ∧ k = min ka kb ∧
           let M (i j : Nat) : Nat := rnSum F false ((fac a).2.elem · i) ((fac b).1.elem · j) 0 64
           if ka ≤ kb then (∀ t j, U t j = (fac a).1.elem t j) ∧ ∀ t i, V t i = rnSum F false ((fac b).2.elem t) (M i) 0 kb
           else (∀ t j, U t j = rnSum F false ((fac a).1.elem t) (fun i => M i j) 0 ka) ∧ ∀ t j, V t j = (fac b).2.elem t j)) →
       (dense c → (tileMul m neg cb c a b).gives c fun i j => rnSum F false (fun t => flip neg (U i t)) (V j) (at_ c i j) k) ∧
       (tileTK c.r ≠ 1 → rounds (tileMul m neg cb c a b) (kc + k)
         (fun t j => if j < kc then (own c).1.elem t j else flip neg (U t (j - kc)))
         (fun t j => if j < kc then (own c).2.elem t j else V t (j - kc)))) ∧
     -- sums
     (∀ neg, isL a → isL b → rounds (tileAdd m neg cb c a b) (ka + kb)
       (fun t j => if j < ka then (fac a).1.elem t j else flip neg ((fac b).1.elem t (j - ka)))
       (fun t j => if j < ka then (fac a).2.elem t j else (fac b).2.elem t (j - ka))) ∧
     (∀ neg, tileTK a.r = 1 → isL b → (tileAdd m neg cb c a b).gives c fun i j =>
       rnSum F false (fun t => flip neg ((fac b).1.elem i t)) ((fac b).2.elem j) (D a i j) kb) ∧
     (∀ neg : Bool, isL a → dense b → (tileAdd m neg cb c a b).gives c fun i j =>
       ((if neg then F.sub else F.add) 0 false (rnSum F false ((fac a).1.elem i) ((fac a).2.elem j) 0 ka) (at_ b i j)).val) ∧
     (∀ neg, isL a → tileTK b.r = 0 → rounds (tileAdd m neg cb c a b) ka (fac a).1.elem (fac a).2.elem) ∧
     (∀ neg, tileTK a.r = 0 → isL b → rounds (tileAdd m neg cb c a b) kb (fun t j => flip neg ((fac b).1.elem t j)) (fac b).2.elem) ∧
     -- one operand
     (isL a →
       rounds (tileCopy m cb c a) ka (fac a).1.elem (fac a).2.elem ∧
       rounds (tileScaleBy m cb x c a) ka
         (fun t j => (F.mul 0 false (if tilePrec c.r then x.toNat else x.toNat % 2 ^ 32) ((fac a).1.elem t j)).val) (fac a).2.elem ∧
       rounds (tileTr m c a) ka (fac a).2.elem (fac a).1.elem) ∧
     (tileTK c.r = 1 → tileDense c = TileOut.keep) ∧
     (tileTK c.r = 0 → (tileDense c).gives c fun _ _ => 0) ∧
     (isL c → (tileDense c).gives c (fun i j => rnSum F false ((own c).1.elem i) ((own c).2.elem j) 0 kc) ∧
       (tileDense c).raises c Rep.none fun i j f => rnRaises F false ((own c).1.elem i) ((own c).2.elem j) 0 kc f) ∧
     (tileTK c.r = 0 ∨ dense c ∨ isL c → ∀ (row base : Nat) (lanes : List (Nat × Nat)), row < 64 → (∀ l, l ∈ lanes → base + l.1 < 64) →
       (lanes.map (·.1)).Nodup → ∃ X : Nat → Nat → Nat, (tileRow cb row base lanes c).gives c X ∧
         (∀ l, l ∈ lanes → X row (base + l.1) = l.2) ∧
         ∀ i j, (i ≠ row ∨ ∀ l, l ∈ lanes → j ≠ base + l.1) →
           X i j = if tileTK c.r = 2 then rnSum F false ((own c).1.elem i) ((own c).2.elem j) 0 kc else at_ c i j) ∧
     -- a factor image: column n of U, then of V, 64 elements each
     (∀ (s : State) (e : Entry) (img : List Byte), (s.opnd e 0).r = c.r → tileTK c.r ≠ 1 → e.mode = m → e.codebook = cb →
       tileFmt c.r = (if tilePrec c.r then 9 else 8) →
       let k := (tileRank c.r).toNat
       let word (n t : Nat) : Nat := ofBytes ((List.range (w / 8)).map fun i => img.getD ((64 * n + t) * (w / 8) + i) 0)
       (k = 0 → s.tileResult e .tldf img = TileOut.zero) ∧
       (k ≠ 0 → ∃ o : Opnd, o.r = c.r ∧ ∃ U V, s.tileResult e .tldf img = roundL m o U V Rep.none ∧ U.sized 64 k ∧ V.sized 64 k ∧
         ∀ t j, t < 64 → j < k → U.elem t j = word j t ∧ V.elem t j = word (k + j) t))) ∧
  (∀ (wide : Bool) (r : Nat) (x y : Cols), r ≤ 64 →
     let p := Pr.of wide
     let F := if wide then fmtF64 else fmtF32
     let w := if wide then 64 else 32
     let mb := if wide then 52 else 23
     let add (a b : Nat) : Nat := (F.add 0 false a b).val
     let sub (a b : Nat) : Nat := (F.sub 0 false a b).val
     let mul (a b : Nat) : Nat := (F.mul 0 false a b).val
     let div (a b : Nat) : Nat := (F.div 0 false a b).val
     let fma (neg : Bool) (a b z : Nat) : Nat := (F.fma 0 false neg false a b z).val
     let root (a : Nat) : Nat := (F.sqrtV 0 false (F.value a)).val
     let abs (a : Nat) : Nat := a % 2 ^ (w - 1)
     let one := if wide then 0x3FF0000000000000 else 0x3F800000
     let two := if wide then 0x4000000000000000 else 0x40000000
     let half := if wide then 0x3FE0000000000000 else 0x3F000000
     let eta := if wide then 0x3CA0000000000000 else 0x33800000
     let zbig := if wide then 0x4FF0000000000000 else 0x4F800000
     let dot (u v : Nat → Nat) (n : Nat) : Nat := rnSum F false u v 0 n
     let norm (u : Nat → Nat) (n : Nat) : Nat := root (dot u u n)
     -- QR
     (let q := (p.qr x r).value
      q.1.sized 64 r ∧ q.2.sized r r ∧
      ∃ nmax, (∀ j, j < r → norm (x.elem · j) 64 ≤ nmax) ∧ (nmax = 0 ∨ ∃ j, j < r ∧ nmax = norm (x.elem · j) 64) ∧
       ∀ j, j < r →
         let c1 (i : Nat) : Nat := dot (q.1.elem · i) (x.elem · j) 64
         let w1 (t : Nat) : Nat := rnSum F true c1 (q.1.elem t) (x.elem t j) j
         let c2 (i : Nat) : Nat := dot (q.1.elem · i) w1 64
         let w2 (t : Nat) : Nat := rnSum F true c2 (q.1.elem t) (w1 t) j
         let n := norm w2 64
         let gone : Prop := abs n = 0 ∨ n ≤ mul eta nmax
         (∀ i, i < r → q.2.elem i j = if i < j then add (add 0 (c1 i)) (c2 i) else if i = j ∧ ¬gone then n else 0) ∧
         ∀ t, t < 64 → q.1.elem t j = if gone then 0 else div (w2 t) n) ∧
     -- JACOBI
     (∀ m a b rot, a < b → b < r → x.sized m r → y.sized r r →
       let out := (p.jacobiPair m r a b (x, y, rot)).value
       let al := dot (x.elem · a) (x.elem · a) m
       let be := dot (x.elem · b) (x.elem · b) m
       let ga := dot (x.elem · a) (x.elem · b) m
       let skip : Prop := abs ga = 0 ∨ abs ga ≤ mul eta (root (mul al be))
       (skip → out = (x, y, rot)) ∧
       (¬skip →
         let z := div (sub be al) (mul two ga)
         let t := if zbig ≤ abs z then div half z
           else div (if z < 2 ^ (w - 1) ∨ abs z = 0 then one else one + 2 ^ (w - 1)) (add (abs z) (root (fma false z z one)))
         let c := div one (root (fma false t t one))
         let s := mul c t
         let turned (k : Nat) (u v : Cols) : Prop := v.sized k r ∧ ∀ i j, i < k → j < r → v.elem i j =
           if j = a then fma true s (u.elem i b) (mul c (u.elem i a)) else if j = b then fma false s (u.elem i a) (mul c (u.elem i b))
           else u.elem i j
         out.2.2 = true ∧ turned m x out.1 ∧ turned r y out.2.1)) ∧
     (∀ m n, (p.sweeps m r 0 (x, y)).value = (x, y) ∧
       let pairs := (List.range r).flatMap fun a => (List.range (r - a - 1)).map fun d => (a, a + 1 + d)
       let out := pairs.foldl (fun st ab => (p.jacobiPair m r ab.1 ab.2 st).value) (x, y, false)
       (p.sweeps m r (n + 1) (x, y)).value = if out.2.2 then (p.sweeps m r n (out.1, out.2.1)).value else (out.1, out.2.1)) ∧
     (∀ m, ∃ J : Cols, J.sized r r ∧ (∀ i j, i < r → j < r → J.elem i j = if i = j then one else 0) ∧
       (p.jacobi x m r).value = (p.sweeps m r 10 (x, J)).value) ∧
     -- the recompression
     ∀ (rkm : BitVec 2) (rkt : Nat),
       let out := (p.recompress rkm rkt x y r).value
       let q := (p.qr x r).value
       let g := (p.qr y r).value
       (rkm = 3 → out = ⟨x, y, r⟩) ∧
       (rkm ≠ 3 → ∃ M : Cols, M.sized r r ∧
         (∀ i j, i < r → j < r → M.elem i j = rnSum F false (q.2.elem i) (g.2.elem j) 0 r) ∧
         let b := (p.jacobi M r r).value
         let σ (j : Nat) : Nat := norm (b.1.elem · j) r
         ∃ π, downwards σ r π ∧ truncates w mb rkm rkt σ r π out.n ∧ out.u.sized 64 out.n ∧ out.v.sized 64 out.n ∧
           ∀ t j, t < 64 → j < out.n →
             out.u.elem t j = rnSum F false (q.1.elem t) (b.1.elem · (π.getD j 0)) 0 r ∧
             out.v.elem t j = rnSum F false (g.1.elem t) (b.2.elem · (π.getD j 0)) 0 r))

/-- Factorisation and solves, each rounding in its order: tlu takes at each column the row of largest magnitude, NaN above every number, the
lowest of equal ones, marks the column and goes on where it is zero, else exchanges the rows, divides and subtracts, and writes the pivot words;
ttrsm.l exchanges by the pivots and substitutes forwards on each column of C or of its U, ttrsm.u on each row or on each column of its V;
tchol takes the lower factor column by column, fills from the column whose pivot is NaN, zero or below on with NaN and raises IV there, and
leaves +0 above the diagonal. With what the steps raise (12 R218 to R220). -/
def Obligations.TileFactorisation : Prop :=
  ∀ (m : W64) (cb : SMap 8) (c a : Opnd), c.rows ≤ 64 → c.cols ≤ 64 → a.rows ≤ 64 → a.cols = a.rows →
    let F := if tilePrec c.r then fmtF64 else fmtF32
    let w := if tilePrec c.r then 64 else 32
    let dense (o : Opnd) : Prop := tileTK o.r = 1 ∧ tileFmt o.r = (if tilePrec c.r then 9 else 8)
    let at_ (o : Opnd) (i j : Nat) : Nat := if o.inside i j then Mat.at o.els i j else 0
    let abs (x : Nat) : Nat := x % 2 ^ (w - 1)
    let n := c.rows
    (dense c → c.cols = n →
      let o := tileLu cb c
      ∃ (X : Nat → Nat → Nat → Nat) (piv : Nat → Nat),
        let zero (k : Nat) : Prop := ∀ i, k ≤ i → i < n → abs (X k i k) = 0
        let S (k i j : Nat) : Nat := if j < n ∧ i = k then X k (piv k) j else if j < n ∧ i = piv k then X k k j else X k i j
        let L (k i : Nat) : Res := F.div 0 false (S k i k) (S k k k)
        let E (k i j : Nat) : Res := F.fma 0 false true false (L k i).val (S k k j) (S k i j)
        (∀ i j, X 0 i j = at_ c i j) ∧
        (∀ k, k < n →
          let key (i : Nat) : Nat := if F.value (X k i k) = .nan then 2 ^ 64 else abs (X k i k)
          (zero k → piv k = k + 2 ^ 31 ∧ ∀ i j, i < 64 → j < 64 → X (k + 1) i j = X k i j) ∧
          (¬zero k → k ≤ piv k ∧ piv k < n ∧ (∀ i, k ≤ i → i < n → key i ≤ key (piv k)) ∧ (∀ i, k ≤ i → i < piv k → key i < key (piv k)) ∧
            ∀ i j, i < 64 → j < 64 → X (k + 1) i j =
              if k < i ∧ i < n ∧ j = k then (L k i).val else if k < i ∧ i < n ∧ k < j ∧ j < n then (E k i j).val else S k i j)) ∧
        (∀ k, n ≤ k → k < 64 → piv k = k) ∧
        o.gives c (X n) ∧
        o.writes = (List.range 256).map (fun (i : Nat) => ((i : Int), BitVec.ofNat 8 (piv (i / 4) / 256 ^ (i % 4)))) ∧
        o.raises c Rep.none fun i j f => ∃ k, k < i ∧ ¬zero k ∧
          ((j = k ∧ (L k i).rep.fl.getLsbD f = true) ∨ (k < j ∧ F.value (S k i j) ≠ .nan ∧ (E k i j).rep.fl.getLsbD f = true))) ∧
    (dense a → ∀ piv : List Nat,
      let A := at_ a
      let q := a.rows
      let lower (x X : Nat → Nat) : Prop := ∀ i, i < 64 → X i = if i < q then rnSum F true (A i) X (exchanged piv q x i) i else x i
      let upper (x X : Nat → Nat) : Prop := ∀ j, j < 64 →
        X j = if j < q then (F.div 0 false (rnSum F true (fun t => A t j) X (x j) j) (A j j)).val else x j
      (tileTK c.r = 0 → ∀ low, tileSolve m cb low piv c a = TileOut.keep) ∧
      (dense c →
        (∃ X : Nat → Nat → Nat, (∀ j, j < 64 → lower (at_ c · j) (X j)) ∧ (tileSolve m cb true piv c a).gives c (fun i j => X j i) ∧
          ∀ f, f < 6 → ((tileSolve m cb true piv c a).rep.fl.getLsbD f = true ↔
            ∃ i j, i < q ∧ j < 64 ∧ rnRaises F true (A i) (X j) (exchanged piv q (at_ c · j) i) i f)) ∧
        (∃ X : Nat → Nat → Nat, (∀ i, i < 64 → upper (at_ c i) (X i)) ∧ (tileSolve m cb false piv c a).gives c X ∧
          ∀ f, f < 6 → ((tileSolve m cb false piv c a).rep.fl.getLsbD f = true ↔ ∃ i j, i < 64 ∧ j < q ∧
            (rnRaises F true (fun t => A t j) (X i) (at_ c i j) j f ∨
              (F.div 0 false (rnSum F true (fun t => A t j) (X i) (at_ c i j) j) (A j j)).rep.fl.getLsbD f = true)))) ∧
      (tileTK c.r = 2 → ∀ fu fv, c.v = .lowRank fu fv →
        let k := (tileRank c.r).toNat
        (∃ U V rep, tileSolve m cb true piv c a = roundL m c U V rep ∧ U.sized 64 k ∧ V = c.ownFactors.2 ∧
          ∀ j, j < k → lower (c.ownFactors.1.elem · j) (U.elem · j)) ∧
        (∃ U V rep, tileSolve m cb false piv c a = roundL m c U V rep ∧ V.sized 64 k ∧ U = c.ownFactors.1 ∧
          ∀ j, j < k → upper (c.ownFactors.2.elem · j) (V.elem · j)))) ∧
    (dense c → c.cols = n →
      let o := tileChol cb c
      ∃ (X : Nat → Nat → Nat) (stop : Nat), stop ≤ n ∧
        let acc (i j : Nat) : Nat := rnSum F true (X i) (X j) (at_ c i j) j
        let root (j : Nat) : Res := F.sqrtV 0 false (F.value (acc j j))
        let quot (i j : Nat) : Res := F.div 0 false (acc i j) (X j j)
        let good (j : Nat) : Prop := F.value (acc j j) ≠ .nan ∧ acc j j ≠ 0 ∧ acc j j < 2 ^ (w - 1)
        (∀ j, j < stop → good j ∧ X j j = (root j).val ∧ ∀ i, j < i → i < n → X i j = (quot i j).val) ∧
        (stop < n → ¬good stop ∧ o.rep.fl.getLsbD 0 = true ∧ o.rep.lg.getLsbD 0 = true) ∧
        (∀ i j, stop ≤ j → j ≤ i → i < n → X i j = F.nanCode) ∧
        o.gives c (fun i j => if i < j then 0 else X i j) ∧
        ∀ f, f < 6 → (o.rep.fl.getLsbD f = true ↔ (f = 0 ∧ stop < n) ∨
          (∃ j, j ≤ stop ∧ j < n ∧ rnRaises F true (X j) (X j) (at_ c j j) j f) ∨
          ∃ j, j < stop ∧ ((root j).rep.fl.getLsbD f = true ∨ ∃ i, j < i ∧ i < n ∧
            (rnRaises F true (X i) (X j) (at_ c i j) j f ∨ (quot i j).rep.fl.getLsbD f = true))))

/-- The product of moment tiles: each element's mean and variance accumulated along k in ascending order, the steps of the deterministic and
of the moment case each rounded once; a result variance below zero is cleared, or kept under NVM 1, and recorded but under NVM 2; only IV, OF and NV
are raised, and nothing beside an accumulator that is NaN (log 64); a zero operand leaves C (21 R314, R321, R326).
The moment instructions under mf32 and mbf16: each active lane of the destination receives the pair its rule gives, a
negative variance settled by NVM, and the other lanes keep theirs; AEF gains what they raise and no other flag; registers,
memory and state besides stay; mset takes the pair's bits, mcol splits a pair into the mean and the root of the variance in
a pair of registers, mvar gives the variance. Other types trap TYPE_UNSUPPORTED (21 R313 to R323; stated with no predicate
armed).
The moment rules, each step rounded to f32 to nearest even: sums, products and scaling with and without the covariance
term, which is subtracted under COV 2; the rules of the non-linear functions for a variance that is negative or NaN, or
zero; and NVM: a negative variance is kept under 1, else made +0, and raised but under 2 (21 R316, R317, R319, R320).
mld and mst move pairs as loads and stores of elements of 8 bytes, or of 4 as bf16 halves: each checks its record and its
lanes before any is performed and goes in flight, mld with its register empty, mst with its pairs captured (21 R324). -/
def Obligations.Moments : Prop :=
  (∀ (mode : W64) (cb : SMap 8) (c a b : Opnd),
     c.rows ≤ 64 → c.cols ≤ 64 → a.rows ≤ 64 → a.cols ≤ 64 → b.rows ≤ 64 → b.cols ≤ 64 →
     let F := fmtF32
     let o := tileMoment mode cb c a b
     let pair (t : Opnd) (i j : Nat) : Nat × Nat :=
       let x := Mat.at t.els i j
       if t.inside i j = false then (0, 0)
       else if tileFmt t.r = 20 then (x % 2 ^ 16 * 2 ^ 16, x / 2 ^ 16 % 2 ^ 16 * 2 ^ 16) else (x % 2 ^ 32, x / 2 ^ 32)
     let fma (x y z : Nat) : Res := if F.value z = .nan then .quiet F.nanCode else F.fma 0 false false false x y z
     let fmaBy (x : Nat) (y : FV) (z : Nat) : Res := if F.value z = .nan then .quiet F.nanCode
       else F.ofOpt 0 false ((FV.mul (F.value x) y).bind fun q => FV.add 0 q (F.value z))
     (tileTK a.r = 0 ∨ tileTK b.r = 0 → o = TileOut.keep) ∧
     (tileTK a.r = 1 → tileTK b.r = 1 → tileTK c.r = 0 ∨ tileTK c.r = 1 →
       ∃ (M V : Nat → Nat → Nat → Nat) (R : Nat → Nat → Nat → List Res),
         (∀ i j, (M i j 0, V i j 0) = if tileTK c.r = 0 then (0, 0) else pair c i j) ∧
         (∀ i j k, i < 64 → j < 64 → k < 64 →
           let x := pair a i k
           let y := pair b k j
           let z := (b.values cb).getD (64 * k + j) .nan
           let zz := (FV.mul z z).getD .nan
           (tileFmt b.r = 19 ∨ tileFmt b.r = 20 →
             let p := fma x.1 y.1 (M i j k)
             let q := fma x.2 y.2 (V i j k)
             let bb := F.mul 0 false y.1 y.1
             let r := fma x.2 bb.val q.val
             let aa := F.mul 0 false x.1 x.1
             let t := fma aa.val y.2 r.val
             M i j (k + 1) = p.val ∧ V i j (k + 1) = t.val ∧ R i j k = [p, q, bb, r, aa, t]) ∧
           (tileFmt b.r = 8 →
             let p := fmaBy x.1 z (M i j k)
             let bb := F.ofFV 0 false zz
             let q := fma x.2 bb.val (V i j k)
             M i j (k + 1) = p.val ∧ V i j (k + 1) = q.val ∧ R i j k = [p, bb, q]) ∧
           (tileFmt b.r ≠ 8 → tileFmt b.r ≠ 19 → tileFmt b.r ≠ 20 →
             let p := fmaBy x.1 z (M i j k)
             let q := fmaBy x.2 zz (V i j k)
             M i j (k + 1) = p.val ∧ V i j (k + 1) = q.val ∧ R i j k = [p, q])) ∧
         let below (i j : Nat) : Prop := 2 ^ 31 < V i j 64 ∧ F.value (V i j 64) ≠ .nan
         o.gives c (fun i j => (if below i j ∧ modeNVM mode ≠ 1 then 0 else V i j 64) * 2 ^ 32 + M i j 64) ∧
         o.raises c Rep.none (fun i j f =>
           (f = 5 ∧ modeNVM mode ≠ 2 ∧ below i j) ∨ ((f = 0 ∨ f = 2) ∧ ∃ k r, k < 64 ∧ r ∈ R i j k ∧ r.rep.fl.getLsbD f = true)) ∧
         (o.rep.lg.getLsbD 4 = true ↔ modeNVM mode ≠ 2 ∧ ∃ i j, c.inside i j = true ∧ below i j))) ∧
  (∀ (s : State) (d a b : BitVec 5) (v : BitVec 7) (sb : BitVec 6) (x y : BitVec 1), s.Unwatched →
     let cov := modeCOV s.mode
     let mom := s.ty = 19 ∨ s.ty = 20
     let flags (t : State) (fl : Nat → BitVec 6) : Prop := ∀ i, i < 64 → (t.grp.aef.getLsbD i = true ↔ s.grp.aef.getLsbD i = true ∨
       ∃ l, l < 64 ∧ s.active.getLsbD l = true ∧ (fl l).getLsbD i = true)
     let only (t : State) : Prop := s.SameS t [] ∧ s.StandsAt t (s.sp.pc + 4) ∧ s.OnlyArith t ∧ s.SameBytes t
     let done (o : Out) (f : Nat → Calc Pair) : Prop := ∃ t, o = .next t ∧
       let res (l : Nat) : Pair × Rep := settlePair (modeNVM s.mode) ((f l).run Rep.none).1 ((f l).run Rep.none).2
       (∀ l, l < 64 → t.grp.mreg d.toNat l = if s.active.getLsbD l then (res l).1.bits else s.grp.mreg d.toNat l) ∧
       s.SameV t [] ∧ s.SameM t [d.toNat] ∧ flags t (fun l => (res l).2.fl) ∧ only t
     let run (u : Use) (i : Instr) (f : Nat → Calc Pair) : Prop := s.Ready u →
       (mom → done (exec i s) f) ∧ (¬mom → exec i s = .next (s.trap cTYPE_UNSUPPORTED))
     run (mUse2 d a b x y false) (.madd d a b x y) (fun l => mAddSub cov false (s.pair a l) (s.pair b l)) ∧
     run (mUse2 d a b x y false) (.msub d a b x y) (fun l => mAddSub cov true (s.pair a l) (s.pair b l)) ∧
     run (mUse2 d a b x y false) (.mmul d a b x y) (fun l => mMul cov (s.pair a l) (s.pair b l)) ∧
     run (mUse2 d a b x y true) (.mfma d a b x y) (fun l => mFma cov (s.pair a l) (s.pair b l) (s.pair d l)) ∧
     run { reads := [(.m a.toNat, x == 1), (.s sb, y == 1)], writes := [.m d.toNat] } (.mscl d a sb x y)
       (fun l => mScl ((s.readS sb).toNat % 2 ^ 32) (s.pair a l)) ∧
     run (mUse1 d a x) (.mexp d a x) (fun l => nonLinear mExp (s.pair a l)) ∧
     run (mUse1 d a x) (.mrelu d a x) (fun l => nonLinear mRelu (s.pair a l)) ∧
     run (mUse1 d a x) (.msig d a x) (fun l => nonLinear mSig (s.pair a l)) ∧
     run { ok := v.toNat % 2 == 0, reads := [(.v v.toNat, x == 1), (.v (v.toNat + 1), x == 1)], writes := [.m d.toNat] }
       (.mset d v x) (fun l => pure ⟨(s.grp.vreg v.toNat l).toNat, (s.grp.vreg (v.toNat + 1) l).toNat⟩) ∧
     (s.Ready { ok := v.toNat % 2 == 0, reads := [(.m a.toNat, x == 1)], writes := [.v v.toNat, .v (v.toNat + 1)] } →
       (¬mom → exec (.mcol v a x) s = .next (s.trap cTYPE_UNSUPPORTED)) ∧
       (mom → ∃ t, exec (.mcol v a x) s = .next t ∧
         let root (l : Nat) : Res := fmtF32.sqrtV 0 false (fmtF32.value (s.pair a l).var)
         (∀ l, l < 64 → s.active.getLsbD l = true →
           t.grp.vreg v.toNat l = BitVec.ofNat 32 (s.pair a l).mean ∧ t.grp.vreg (v.toNat + 1) l = BitVec.ofNat 32 (root l).val) ∧
         (∀ l, l < 64 → s.active.getLsbD l = false → t.grp.vpair v.toNat l = s.grp.vpair v.toNat l) ∧
         s.SameV t [v.toNat, v.toNat + 1] ∧ s.SameM t [] ∧ flags t (fun l => (root l).rep.fl) ∧ only t)) ∧
     (s.Ready { reads := [(.m a.toNat, x == 1)], writes := [.v v.toNat] } →
       (¬mom → exec (.mvar v a x) s = .next (s.trap cTYPE_UNSUPPORTED)) ∧
       (mom → DoneV s (exec (.mvar v a x) s) v.toNat fun l => BitVec.ofNat 32 (s.pair a l).var))) ∧
  (∀ (a b d : Pair) (x : Nat) (r : Rep),
     let add (p q : Nat) : Nat := (fmtF32.add 0 false p q).val
     let sub (p q : Nat) : Nat := (fmtF32.sub 0 false p q).val
     let mul (p q : Nat) : Nat := (fmtF32.mul 0 false p q).val
     let fma (p q c : Nat) : Nat := (fmtF32.fma 0 false false false p q c).val
     let two := 0x40000000
     let root := (fmtF32.sqrtV 0 false (fmtF32.value (mul a.var b.var))).val
     let flip (p : Nat) : Nat := if p % 2 ^ 31 = p then p + 2 ^ 31 else p % 2 ^ 31
     let gives (c : Calc Pair) (m v : Nat) : Prop := (c.run Rep.none).1 = ⟨m, v⟩
     let prod := fma (mul a.mean a.mean) b.var (fma (mul b.mean b.mean) a.var (mul a.var b.var))
     let nan := 0x7FC00000
     gives (mAddSub 0 false a b) (add a.mean b.mean) (add a.var b.var) ∧
     gives (mAddSub 0 true a b) (sub a.mean b.mean) (add a.var b.var) ∧
     gives (mMul 0 a b) (mul a.mean b.mean) prod ∧
     (∀ cov : BitVec 2, cov ≠ 0 →
       let c := if cov = 1 then root else flip root
       gives (mAddSub cov false a b) (add a.mean b.mean) (add (mul two c) (add a.var b.var)) ∧
       gives (mAddSub cov true a b) (sub a.mean b.mean) (sub (add a.var b.var) (mul two c)) ∧
       gives (mMul cov a b) (fma a.mean b.mean c) (fma c c (fma (mul two (mul a.mean b.mean)) c prod))) ∧
     gives (mScl x a) (mul x a.mean) (mul (mul x x) a.var) ∧
     (∀ cov, ((mFma cov a b d).run Rep.none).1 = ((mAddSub cov false ((mMul cov a b).run Rep.none).1 d).run Rep.none).1) ∧
     (∀ f, fNeg a.var = true → (nonLinear f a).run Rep.none = (⟨nan, nan⟩, Rep.invalid)) ∧
     (∀ f, fNeg a.var = false → fNaN a.var = true → (nonLinear f a).run Rep.none = (⟨nan, nan⟩, Rep.none)) ∧
     (∀ f, fNeg a.var = false → fNaN a.var = false → (nonLinear f a).run Rep.none = (f a).run Rep.none) ∧
     (a.var = 0 → ((mExp a).run Rep.none).1.var = 0 ∧ ((mRelu a).run Rep.none).1.var = 0 ∧
       (fNaN a.mean = false → ((mRelu a).run Rep.none).1.mean = if 0 < a.mean ∧ a.mean < 2 ^ 31 then a.mean else 0)) ∧
     (fNeg a.var = false → ∀ nvm, settlePair nvm a r = (a, r)) ∧
     (fNeg a.var = true → settlePair 1 a r = (a, r.or Rep.negVar) ∧ settlePair 2 a r = (⟨a.mean, 0⟩, r) ∧
       settlePair 0 a r = (⟨a.mean, 0⟩, r.or Rep.negVar))) ∧
  (∀ (s : State) (d : BitVec 5) (r : BitVec 8) (a : BitVec 7) (w : BitVec 1), s.Unwatched →
     let n10 : BitVec 10 := r.setWidth 10
     let rec_ := s.record n10
     let fmt : BitVec 8 → Bool := fun f => f == 19 || f == 20
     let chk (write : Bool) : Option (BitVec 9) := match checkBuf rec_ fmt anySpace false write with
       | some c => some c
       | none => if (bufBase rec_).toNat % (if bufFmt rec_ = 19 then 8 else 4) = 0 then none else some cALIGN
     let pairs : List (Nat → W32) := [s.grp.vreg a.toNat, fun l => field (s.grp.mreg d.toNat l) 0 32,
       fun l => field (s.grp.mreg d.toNat l) 32 32]
     (s.Ready { reads := [(.v a.toNat, w == 1)], writes := [.m d.toNat] } →
       Accesses s (exec (.mld d r a w) s) (.ld .moment) (Dest.mom d.toNat) n10 [] [s.grp.vreg a.toNat] (chk false)
         (s.byLane n10 a) none) ∧
     (s.Ready { reads := [(.v a.toNat, w == 1), (.m d.toNat, false)], ready := s.grp.heldStore.isNone,
                park := s.grp.heldStore } →
       (∀ c, chk true = some c → exec (.mst d r a w) s = .next (s.trapRec c rec_)) ∧
       (∀ c va, chk true = none → s.byLane n10 a = .error (c, va) → exec (.mst d r a w) s = .next (s.trapVa c va)) ∧
       (∀ l, chk true = none → s.byLane n10 a = .ok l →
         (bufFmt rec_ = 19 → Sent s (exec (.mst d r a w) s) (.st .moment) Dest.none [n10] [] pairs l none) ∧
         ∃ t e, exec (.mst d r a w) s = .next t ∧ s.StandsAt t (s.sp.pc + 4) ∧
           (∀ i, s.grp.aef.getLsbD i = true → t.grp.aef.getLsbD i = true) ∧ t.gang = s.gang ∧ t.bank = s.bank ∧
           s.SameS t [] ∧ s.SameV t [] ∧ s.SameM t [] ∧ e ∈ t.grp.flight ∧ e.id = s.grp.nextId ∧ e.op = .st .moment ∧
           e.accs.map Acc.where_ = l.map Acc.where_ ∧
           ∀ m, m < 64 → e.blk 1 m = field (s.grp.mreg d.toNat m) 0 32 ∧ e.blk 2 m = field (s.grp.mreg d.toNat m) 32 32)))

/-- The pool: tsal.nw answers at once, with 1 and the segments where the core has them unreserved and the gang may have so
many, with 0 and nothing else; tsal too, but that it waits where the core has them not or an earlier request comes first;
tsfr gives back segments that are not in use; a request of none answers 1. A waiting request is granted, or refused where it
can never be met; where every gang that holds segments waits and no request can be met, the youngest one's is refused (11 R188, R192,
12 R226; stated outside a debug step). -/
def Obligations.PoolInstructions : Prop :=
  ∀ (s : State) (d a : BitVec 6), s.stepping = none →
    let n := (s.readS a).toNat
    let free := s.unreserved s.gang.die s.gang.core
    let pool := s.gang.pool.toNat
    let gets (o : Out) (size : Nat) : Prop := ∃ t, o = .next t ∧ t.readS d = (if d = 0 then 0 else 1) ∧ t.gang.pool.toNat = size ∧
      t.gang = { s.gang with pool := t.gang.pool } ∧ s.SameS t [d] ∧ s.SameV t [] ∧ s.SameM t [] ∧ s.SameBytes t ∧
      s.StandsAt t (s.sp.pc + 4)
    (s.Ready (poolUse d a) → 
      (n = 0 → DoneS s (exec (.tsalNw d a) s) d 1 ∧ DoneS s (exec (.tsal d a) s) d 1 ∧ DoneS s (exec (.tsfr d a) s) d 1) ∧
      (n ≠ 0 →
        (4096 < pool + n → DoneS s (exec (.tsalNw d a) s) d 0 ∧ DoneS s (exec (.tsal d a) s) d 0) ∧
        (free < n → DoneS s (exec (.tsalNw d a) s) d 0) ∧
        (pool + n ≤ 4096 → n ≤ free → gets (exec (.tsalNw d a) s) (pool + n) ∧
          (s.earlierFits s.order = false → gets (exec (.tsal d a) s) (pool + n))) ∧
        (pool + n ≤ 4096 → free < n ∨ s.earlierFits s.order = true → ∃ t, exec (.tsal d a) s = .next t ∧
          t.sp.st = .inTsal d (BitVec.ofNat 13 n) s.order ∧ t.sp.pc = s.sp.pc ∧ t.gang = s.gang ∧ s.SameS t [] ∧ s.SameV t [] ∧
          s.SameM t [] ∧ s.SameBytes t) ∧
        (pool < s.gang.inUse + n → DoneS s (exec (.tsfr d a) s) d 0) ∧
        (s.gang.inUse + n ≤ pool → gets (exec (.tsfr d a) s) (pool - n)))) ∧
    (s.gang.present = true → s.captured s.gang.vf = false → ∀ (k : BitVec 2) (want : BitVec 13) (order : Nat),
      (s.grp.splits.get k).st = .inTsal d want order → (s.grp.splits.get k).isFree = false → (s.grp.splits.get k).held = false →
      s.grp.isEmpty (.s d) = false →
      let answers (o : Out) (v : W64) (size : Nat) : Prop := ∃ t, o = .next t ∧ (t.grp.splits.get k).st = .running ∧
        (t.grp.splits.get k).pc = (s.grp.splits.get k).pc + 4 ∧ t.readS d = (if d = 0 then 0 else v) ∧ t.gang.pool.toNat = size ∧
        s.SameS t [d] ∧ s.SameV t [] ∧ s.SameM t [] ∧ s.SameBytes t
      (4096 < pool + want.toNat → answers (exec (.tsalGrant s.self k) s) 0 pool) ∧
      (pool + want.toNat ≤ 4096 → want.toNat ≤ free → s.earlierFits order = false →
        answers (exec (.tsalGrant s.self k) s) 1 (pool + want.toNat)) ∧
      (pool + want.toNat ≤ 4096 → free < want.toNat → exec (.tsalGrant s.self k) s = .next s) ∧
      (s.others = [] → s.peers = [] → s.grp.overflow = [] → s.grp.due = [] → s.grp.alive = true → s.grp.live ≠ 0 → pool ≠ 0 → free < want.toNat →
        (∀ j, j ≠ k → (s.grp.splits.get j).isFree = true) →
        answers (exec (.tsalRefusal s.gang.die s.gang.core) s) 0 pool))

/-! ## Queues and launches -/

/-- qpush and qpop. A push of the active lanes' records is all or nothing: none where there is no room or no lane, a trap where
they exceed the queue; else, once its slots translate, the records are written to them, TAIL advances by their number, PUSHT takes
TIME where no record was unclaimed, sD receives the number and the old TAIL, and HEAD and CLAIM stay; held by a fault of a slot's
page it stays in flight, sD empty, and its split is parked behind it (log 80); a slot that may not be written traps at the next boundary. A pop takes
the record at CLAIM, which advances by one, its registers empty until the record arrives; while none waits unclaimed, or an earlier
pop waits, it waits, and is given one at the bank later; the arriving record fills the registers. A queue record that is refused
traps with the first check that fails, by its control block's address where that lies outside the held regions or cannot be read (which
cause comes of a control block that cannot be read: log 77). qpop, done and qflush of a queue whose BASE lies in a page still to be filled
park their split at themselves (log 35) (15 R247, R249, R250, 16 R264, 18 R282, R283; stated for queues of this module and outside a debug
step). -/
def Obligations.Queues : Prop :=
  ∀ (s : State) (d v : BitVec 6) (n : BitVec 10),
    let r := s.record n
    let c := qCtl r
    let k := s.lanes.length
    let refused (o : Out) (x : BitVec 9) : Prop :=
      if x = cMEM_UNCORR then ∃ l, o = .next (({ s with replies := s.replies ++ [Reply.uncorrectableBank l] }).trapVa x (c.setWidth 64))
      else o = .next (s.trapVa x (if x = cBANK_RANGE then c.setWidth 64 else 0))
    let regs (t : State) : Prop := s.SameS t [] ∧ s.SameV t [] ∧ s.SameM t []
    -- the checks of the record, in their order
    (let known := recKind r = 3 ∧ qRsz r ≠ 3 ∧ (qCapLog r).toNat ≤ 16
     let here := known ∧ s.queueAway r = false
     (∀ need, recKind r ≠ 3 → s.queueCheck n r need = some cREC_KIND) ∧
     (∀ need, recKind r = 3 → ¬known → s.queueCheck n r need = some cREC_VALUE) ∧
     (known → s.queueRemote r = true → s.queueUnfilled r = false → s.queueCheck n r .any = none ∧
       s.queueCheck n r .plain = some cQUEUE_REMOTE ∧ s.queueCheck n r .node = some cQUEUE_REMOTE) ∧
     (∀ need, here → s.bankHeld s.gang.vf c.toNat 32 = false → s.queueCheck n r need = some cBANK_RANGE) ∧
     (∀ need, here → s.bankHeld s.gang.vf c.toNat 32 = true → s.badCtl c = true → s.queueCheck n r need = some cMEM_UNCORR) ∧
     (here → s.bankHeld s.gang.vf c.toNat 32 = true → s.badCtl c = false → s.queueCheck n r .any = none ∧
       s.queueCheck n r .plain = (if qNode r = true then some cQUEUE_NODE else none) ∧
       s.queueCheck n r .node = if qNode r = true ∧ 256 ≤ n.toNat then none else some cQUEUE_NODE)) ∧
    (∀ l, s.stepping = none → recKind r = 3 → qRsz r ≠ 3 → (qCapLog r).toNat ≤ 16 → s.queueUnfilled r = true →
      s.walkVa s.gang.vf s.coreId (qBase r) = .fill l →
      let parks (o : Out) : Prop := ∃ t, o = .next t ∧ t.sp.st = .parked (qBase r) true ∧ t.sp.pc = s.sp.pc ∧ t.gang = s.gang ∧
        t.bank = s.bank ∧ regs t
      (s.Ready (popUse d n r) → parks (exec (.qpop d n) s)) ∧
      (s.Ready { recs := [n] } → parks (exec (.done n) s) ∧ parks (exec (.qflush n) s))) ∧
    (s.Ready (s.pushUse d v n) →
      (∀ x, s.queueCheck n r .any = some x → refused (exec (.qpush d v n) s) x) ∧
      (s.queueCheck n r .any = none →
        (qCap r < k → exec (.qpush d v n) s = .next (s.trap cQUEUE_SIZE)) ∧
        (k = 0 → DoneS s (exec (.qpush d v n) s) d 0) ∧
        (k ≠ 0 → k ≤ qCap r → s.queueAway r = false →
          (qCap r < s.qUsed c + k → DoneS s (exec (.qpush d v n) s) d 0) ∧
          (s.qUsed c + k ≤ qCap r →
            (∀ accs u, s.translateAll .write (slotAccs r (s.qTail c) k) = (.ok accs, u) →
              (∀ a, a ∈ accs → regionOf a.pa ≠ .fabric) →
              ∃ t, exec (.qpush d v n) s = .next t ∧ t.readS d = (if d = 0 then 0 else BitVec.ofNat 32 k ++ s.qTail c) ∧
                t.qTail c = s.qTail c + BitVec.ofNat 32 k ∧ t.qHead c = s.qHead c ∧ t.qClaim c = s.qClaim c ∧
                t.qPushT c = (if s.qTail c = s.qClaim c then s.time else s.qPushT c) ∧
                t.mem = (State.writeSlots accs (s.lanes.map fun l =>
                  (List.range (pushRegs r)).flatMap fun i => toBytes 4 (s.grp.vreg (v.toNat + i) l).toNat) u).mem ∧
                s.StandsAt t (s.sp.pc + 4) ∧ s.SameS t [d] ∧ s.SameV t [] ∧ s.SameM t []) ∧
            (∀ va l m u, s.translateAll .write (slotAccs r (s.qTail c) k) = (.hold va l m, u) →
              ∃ t e, exec (.qpush d v n) s = .next t ∧ e ∈ t.grp.flight ∧ e.id = s.grp.nextId ∧ e.op = .qpush ∧
                e.held = some (pageOf va) ∧ t.sp.st = .parked (pageOf va) false ∧ t.sp.pc = s.sp.pc + 4 ∧
                (d ≠ 0 → t.grp.isEmpty (.s d) = true) ∧ t.bank = s.bank ∧ regs t) ∧
            ∀ cause va u, s.translateAll .write (slotAccs r (s.qTail c) k) = (.trap cause va, u) → cause ≠ 0 →
              ∃ t e, exec (.qpush d v n) s = .next t ∧ e ∈ t.grp.flight ∧ e.id = s.grp.nextId ∧ e.op = .qpush ∧ e.err = cause ∧
                (∃ q, q ∈ t.grp.due ∧ q.id = e.id ∧ q.cause = cause ∧ q.va = va ∧ q.queued = true) ∧
                t.sp.pc = s.sp.pc + 4 ∧ t.bank = s.bank ∧ regs t)))) ∧
    (s.Ready (popUse d n r) → s.stepping = none →
      (∀ x, s.queueCheck n r .plain = some x → refused (exec (.qpop d n) s) x) ∧
      (s.queueCheck n r .plain = none → s.queueUnfilled r = false →
        (s.qWaiting c ≠ 0 → s.earlierPop c s.order = false →
          ∃ t, exec (.qpop d n) s = .next t ∧ t.qClaim c = s.qClaim c + 1 ∧ t.qTail c = s.qTail c ∧ t.qHead c = s.qHead c ∧
            (∀ g, g ∈ (Dest.scal d.toNat (popRegs r)).regs → g ≠ .s 0 → t.grp.isEmpty g = true) ∧
            s.StandsAt t (s.sp.pc + 4) ∧ regs t) ∧
        (s.qWaiting c = 0 ∨ s.earlierPop c s.order = true →
          ∃ t, exec (.qpop d n) s = .next t ∧ t.sp.st = .inPop d r n s.order ∧ t.sp.pc = s.sp.pc ∧ t.order = s.order + 1 ∧
            regs t ∧ s.SameBytes t))) ∧
    (s.gang.present = true → s.captured s.gang.vf = false → ∀ (j : BitVec 2) (q : W256) (order : Nat),
      (s.grp.splits.get j).st = .inPop d q n order → (s.grp.splits.get j).isFree = false → (s.grp.splits.get j).held = false →
      ((Dest.scal d.toNat (popRegs q)).regs.any s.grp.isEmpty) = false →
      (s.badCtl (qCtl q) = true → ∃ t, exec (.qpopClaim s.self j) s = .next t ∧ (t.grp.splits.get j).st = .running ∧
        (t.grp.splits.get j).pc = (s.grp.splits.get j).pc ∧ t.bank = s.bank ∧ regs t) ∧
      (s.badCtl (qCtl q) = false → s.qWaiting (qCtl q) = 0 → exec (.qpopClaim s.self j) s = .next s) ∧
      (s.badCtl (qCtl q) = false → s.qWaiting (qCtl q) ≠ 0 → s.earlierPop (qCtl q) order = false →
        ∃ t, exec (.qpopClaim s.self j) s = .next t ∧ t.qClaim (qCtl q) = s.qClaim (qCtl q) + 1 ∧
          (t.grp.splits.get j).st = .running ∧ (t.grp.splits.get j).pc = (s.grp.splits.get j).pc + 4 ∧
          (∀ g, g ∈ (Dest.scal d.toNat (popRegs q)).regs → g ≠ .s 0 → t.grp.isEmpty g = true) ∧ regs t)) ∧
    (s.gang.present = true → s.captured s.gang.vf = false → ∀ (id m : Nat) (lanes : Mask) (e : Entry) (b : List Byte) (u : State),
      s.grp.entry id = some e → e.op = .qpop → e.err = 0 → e.held = none → e.cancelled = [] →
      e.dest = Dest.scal d.toNat m → d.toNat + m ≤ 64 → s.readAccs e.accs = (.ok b, u) → u = s →
      ∃ t, exec (.producerCompletion s.self id lanes) s = .next t ∧
        (∀ i, i < m → BitVec.ofNat 6 (d.toNat + i) ≠ 0 →
          t.readS (BitVec.ofNat 6 (d.toNat + i)) = BitVec.ofNat 64 (ofBytes ((b.drop (8 * i)).take 8))) ∧
        (∀ g, g ∈ e.dest.regs → t.grp.isEmpty g = false) ∧ (∀ x, x ∈ t.grp.flight → x.id ≠ id) ∧
        s.SameS t ((List.range m).map fun i => BitVec.ofNat 6 (d.toNat + i)) ∧ s.SameV t [] ∧ s.SameM t [] ∧ t.mem = s.mem)

/-- launch, qflush, done and permits. launch of an aligned record, once every access of the group is performed, asks the
command processor and waits; done adds a node to the launch's successors, at most eight; qflush asks for a decision of a
node, at once where no push of the group before it is outstanding, else once they are answered. pmt.get answers 1 and takes the
permits from PAVAIL where there are so many, and 0 with nothing taken else; pmt.ret gives back what the gang holds. A number of
2^16 or more, and a return of more than is held, trap PMT_OVER, a seventeenth holder PMT_TABLE, a refused record its cause. That pmt.get
answers 0 though its table is full where the permits are not there, PMT_TABLE coming only where they are: log 34
(15 R248, R252 to R254; stated for queues of this module). -/
def Obligations.WorkInstructions : Prop :=
  ∀ (s : State) (d a : BitVec 6) (n : BitVec 10), (s.contexts.any fun c => c.vf == s.gang.vf) = true →
    let r := s.record n
    let c := qCtl r
    let x := s.readS a
    let k := s.ctx s.gang.vf
    let refused (o : Out) (y : BitVec 9) : Prop :=
      if y = cMEM_UNCORR then ∃ l, o = .next (({ s with replies := s.replies ++ [Reply.uncorrectableBank l] }).trapVa y (c.setWidth 64))
      else o = .next (s.trapVa y (if y = cBANK_RANGE then c.setWidth 64 else 0))
    let regs (t : State) : Prop := s.SameS t [] ∧ s.SameV t [] ∧ s.SameM t []
    (s.Ready { reads := [(.s a, false)], writes := [.s d], ready := x.toNat % 128 != 0 || s.drained, park := s.grp.heldStore } →
      (x.toNat % 128 ≠ 0 → exec (.launch d a) s = .next (s.trapVa cALIGN x)) ∧
      (x.toNat % 128 = 0 → ∃ t, exec (.launch d a) s = .next t ∧ t.sp.st = .inLaunch d ∧ t.sp.pc = s.sp.pc ∧
        (t.ctx s.gang.vf).launchReqs = k.launchReqs ++ [{ g := s.self, k := s.k, addr := x }] ∧ regs t ∧ s.SameBytes t)) ∧
    (s.Ready { recs := [n] } →
      (∀ y, s.queueCheck n r .node = some y → refused (exec (.done n) s) y ∧ refused (exec (.qflush n) s) y) ∧
      (s.queueCheck n r .node = none → s.queueUnfilled r = false →
        let have_ := (k.launches.filter fun l => l.seq == s.gang.seq).flatMap (·.successors)
        let pushing : Prop := ∃ e, e ∈ s.grp.outstanding ∧ e.op = .qpush ∧ e.id < s.grp.nextId
        (n ∈ have_ → Goes s (exec (.done n) s) (s.sp.pc + 4)) ∧
        (n ∉ have_ → 8 ≤ have_.length → exec (.done n) s = .next (s.trap cDONE_FULL)) ∧
        (n ∉ have_ → have_.length < 8 → ∃ t, exec (.done n) s = .next t ∧
          (t.ctx s.gang.vf).launches = (k.launches.map fun l => if l.seq = s.gang.seq then { l with successors := l.successors ++ [n] } else l) ∧
          s.StandsAt t (s.sp.pc + 4) ∧ regs t ∧ s.SameBytes t) ∧
        ∃ t, exec (.qflush n) s = .next t ∧ (¬pushing → n ∈ (t.ctx s.gang.vf).triggers) ∧
          (pushing → (s.grp.nextId, n) ∈ t.grp.flushes) ∧ s.StandsAt t (s.sp.pc + 4) ∧ regs t ∧ s.SameBytes t)) ∧
    (s.Ready { reads := [(.s a, false)], writes := [.s d], recs := [n] } →
      (∀ y, s.queueCheck n r .any = some y → refused (exec (.pmtGet d a n) s) y) ∧
      (s.queueCheck n r .any = none →
        (2 ^ 16 ≤ x.toNat → exec (.pmtGet d a n) s = .next (s.trap cPMT_OVER)) ∧
        (x = 0 → DoneS s (exec (.pmtGet d a n) s) d 1) ∧
        (x ≠ 0 → x.toNat < 2 ^ 16 → s.queueAway r = false →
          ((s.qAvail c).toNat < x.toNat → DoneS s (exec (.pmtGet d a n) s) d 0) ∧
          (x.toNat ≤ (s.qAvail c).toNat → s.gang.holdersFull n = true → exec (.pmtGet d a n) s = .next (s.trap cPMT_TABLE)) ∧
          (x.toNat ≤ (s.qAvail c).toNat → s.gang.holdersFull n = false → ∃ t, exec (.pmtGet d a n) s = .next t ∧
            t.readS d = (if d = 0 then 0 else 1) ∧ t.qAvail c = s.qAvail c - x.setWidth 32 ∧
            t.gang.holding n = s.gang.holding n + x.setWidth 32 ∧ (∀ m, m ≠ n → t.gang.holding m = s.gang.holding m) ∧
            s.StandsAt t (s.sp.pc + 4) ∧ s.SameS t [d] ∧ s.SameV t [] ∧ s.SameM t [] ∧ t.mem = s.mem)))) ∧
    (s.Ready { reads := [(.s a, false)], recs := [n] } →
      (∀ y, s.queueCheck n r .any = some y → refused (exec (.pmtRet a n) s) y) ∧
      (s.queueCheck n r .any = none →
        (2 ^ 16 ≤ x.toNat → exec (.pmtRet a n) s = .next (s.trap cPMT_OVER)) ∧
        (x = 0 → Goes s (exec (.pmtRet a n) s) (s.sp.pc + 4)) ∧
        (x ≠ 0 → x.toNat < 2 ^ 16 →
          ((s.gang.holding n).toNat < x.toNat → exec (.pmtRet a n) s = .next (s.trap cPMT_OVER)) ∧
          (x.toNat ≤ (s.gang.holding n).toNat → s.queueAway r = false → ∃ t, exec (.pmtRet a n) s = .next t ∧
            t.qAvail c = s.qAvail c + x.setWidth 32 ∧ t.gang.holding n = s.gang.holding n - x.setWidth 32 ∧
            (∀ m, m ≠ n → t.gang.holding m = s.gang.holding m) ∧ s.StandsAt t (s.sp.pc + 4) ∧ regs t ∧ t.mem = s.mem))))

/-! ## Scheduling -/

/-- Moves of the scheduler for a group of the gang in focus. A ready split whose age has reached 32 is promoted. A group
without a ready split for 256 cycles moves out, another does not; one with a ready split moves in where its quadrant's
file is free. A group without live lanes, due trap or operation to complete retires: replay entries, operations and counters
go; with its last group the gang leaves the machine and its launch counts one retired gang more. None of these changes a
register or a byte of memory or gang memory (14 R241, R242, 03 R36, R37). -/
def Obligations.SchedulerMoves : Prop :=
  ∀ (s : State) (k : BitVec 2), s.gang.present = true → s.captured s.gang.vf = false →
    let regs (t : State) : Prop := s.SameS t [] ∧ s.SameV t [] ∧ s.SameM t [] ∧ t.mem = s.mem ∧ t.gang.gmem = s.gang.gmem
    let x := s.grp.splits.get k
    (s.grp.inActive = true → s.grp.alive = true → x.ready = true → 32 ≤ x.age.toNat → x.promoted = none →
      ∃ t, exec (.splitPromotion s.self k) s = .next t ∧ t.grp.splits.get k = { x with promoted := some s.cycles } ∧
        (∀ j, j ≠ k → t.grp.splits.get j = s.grp.splits.get j) ∧ regs t ∧ s.SameBytes t) ∧
    (x.age.toNat < 32 → exec (.splitPromotion s.self k) s = .next s) ∧
    (s.grp.inActive = true → s.grp.retired = false → 256 ≤ s.grp.idle.toNat →
      ∃ t, exec (.groupMoveOut s.self) s = .next t ∧ t.grp.inActive = false ∧ t.grp.splits = s.grp.splits ∧ regs t ∧ s.SameBytes t) ∧
    (s.grp.idle.toNat < 256 → exec (.groupMoveOut s.self) s = .next s) ∧
    (s.grp.inActive = false → s.grp.alive = true → (s.ctx s.gang.vf).stopped = false → x.ready = true →
      s.gang.lrec.footprint ≤ (s.fileOf s.gang.die s.gang.core).1 / 4 →
      (s.quadGroups s.gang.die s.gang.core (quadOf s.grp.idx)).filter (·.active) = [] →
      ∃ t, exec (.groupMoveIn s.self) s = .next t ∧ t.grp.inActive = true ∧ t.grp.splits = s.grp.splits ∧ regs t ∧ s.SameBytes t) ∧
    (s.grp.retired = false → s.grp.live = 0 → s.grp.due = [] → s.grp.flight = [] →
      ((∃ g, g ∈ s.peers ∧ g.retired = false) →
        ∃ t, exec (.groupRetirement s.self) s = .next t ∧ t.grp.retired = true ∧ t.grp.rq = [] ∧ t.grp.flight = [] ∧
          t.grp.counters = [] ∧ t.grp.inActive = false ∧ t.gang.present = true ∧ t.peers.length = s.peers.length ∧ regs t ∧
          (s.myBand = none → s.SameBytes t)) ∧
      ((∀ g, g ∈ s.peers → g.retired = true) →
        ∃ t, exec (.groupRetirement s.self) s = .next t ∧ t.gang.present = false ∧ t.mem = s.mem ∧
          (t.ctx s.gang.vf).launches = ((s.ctx s.gang.vf).launches.map fun l =>
            if l.seq = s.gang.seq then { l with retired := l.retired + 1 } else l))) ∧
    (s.grp.live ≠ 0 → exec (.groupRetirement s.self) s = .next s)

/-- Launches. The next launch of the queue takes the next LAUNCHSEQ, and LQHEAD advances; one that cannot be read, or whose
record is refused, completes at once; an accepted one waits to be admitted with its record; with the queue empty, or while
the context takes none, nothing happens. A launch all of whose gangs have retired completes: it is no longer among the
uncompleted ones, and its completion word, the sequence number above the status, is written where DONE asks for it; before
that nothing happens (14 R232 to R234, 03 R37; that a launch of the queue that cannot be read completes at once, which R248 says of launch:
log 32; that the word is written at a DONE address as it stands, whether a multiple of 8 or not: log 43). -/
def Obligations.Launches : Prop :=
  ∀ (s : State) (vf : BitVec 7), (s.contexts.any fun c => c.vf == vf) = true →
    let c := s.ctx vf
    (c.accepts = false ∨ c.lqHead = c.lqTail → exec (.launchAcceptance vf true) s = .next s) ∧
    (c.accepts = true → c.lqHead ≠ c.lqTail →
      ∀ (raw : Option (List (List Byte))) (u : State),
        s.readChunks vf 64 ((c.lqBase + BitVec.ofNat 64 (128 * (c.lqHead.toNat % c.lqSlots))) &&& ~~~127) 2 = (raw, u) →
        let r := LaunchRec.ofBits (BitVec.ofNat 1024 (ofBytes ((raw.map List.flatten).getD [])))
        let v := u.updCtx vf fun c => { c with lqHead := c.lqHead + 1 }
        ∃ t, exec (.launchAcceptance vf true) s = .next t ∧ (t.ctx vf).lqHead = c.lqHead + 1 ∧ (t.ctx vf).nextSeq = c.nextSeq + 1 ∧
          (raw = none ∨ r.status false ≠ 0 → ∀ l, l ∈ (t.ctx vf).launches → l.seq ≠ c.nextSeq) ∧
          (raw ≠ none → r.status false = 0 → r.paramN = 0 → r.rtimg = 0 → c.lwImg = 0 →
            v.saveMapped vf (c.saveSize + r.saveBytes) = true →
            ∃ l, l ∈ (t.ctx vf).launches ∧ l.seq = c.nextSeq ∧ l.lrec = r ∧ l.params = [] ∧ l.admitted = 0 ∧ l.retired = 0 ∧
              l.killed = false ∧ l.accepted = s.time)) ∧
    ∀ (seq : W64) (l : Launch), (c.launches.find? fun l => l.seq == seq) = some l →
      (l.retired ≠ l.lrec.gangs.toNat → exec (.launchCompletion vf seq) s = .next s) ∧
      (l.retired = l.lrec.gangs.toNat → l.successors = [] → l.node = none →
        ∃ t, exec (.launchCompletion vf seq) s = .next t ∧ (∀ x, x ∈ (t.ctx vf).launches → x.seq ≠ seq) ∧
          (∀ x, x ∈ c.launches → x.seq ≠ seq → x ∈ (t.ctx vf).launches) ∧ t.bank = s.bank ∧ t.gang = s.gang ∧ t.grp = s.grp ∧
          (l.lrec.doneAddr = 0 → t.mem = s.mem ∧ t.msix = s.msix) ∧
          (l.lrec.doneAddr ≠ 0 → ∀ w, s.writeVirt vf none l.lrec.doneAddr
              (toBytes 8 ((seq <<< 16) ||| (if l.killed then 1 else 0)).toNat) = some w →
            t.mem = w.mem ∧ t.msix = w.msix ++ (if c.cirq then [(vf, 0)] else [])))

/-- Trigger decisions. A node that waits on other launches launches nothing; one with fewer records than its threshold and a
flush asked, or its flush timer run out, creates one launch for all of them: CLAIM comes up to TAIL and LAUNCHSEQ advances by
one; with neither, none. What was decided is noted. Of the nodes that a completed launch made due the one of lowest number comes
first, of those whose timers have run out the one whose timer ran out first, of one moment the lowest. A context that takes no launch
decides nothing (14 R239, R240). -/
def Obligations.NodeDecisions : Prop :=
  ∀ (s u : State) (vf : BitVec 7) (n : BitVec 10) (r : W256), (s.contexts.any fun c => c.vf == vf) = true →
    (¬((s.ctx vf).accepts = true) → exec (.triggerDecision vf n) s = .next s ∧ exec (.flushTimerExpiry vf n) s = .next s) ∧
    (s.nodeTurn vf n = false → exec (.triggerDecision vf n) s = .next s ∧ exec (.flushTimerExpiry vf n) s = .next s) ∧
    (∀ m x, m ≠ n → (s.nodeRecord vf m).1 = some x → s.qDep (qCtl x) = 0 → s.qWaiting (qCtl x) ≠ 0 → s.timerDue x = true →
      s.timerAt x < s.timerAt r ∨ (s.timerAt x = s.timerAt r ∧ m < n) → s.timerTurn vf n r = false) ∧
    (∀ l m, (s.ctx vf).sweep = some l → m < n → m ∉ l → n ∉ l → (s.nodeRecord vf m).1 ≠ none → s.nodeTurn vf n = false) ∧
    ((s.ctx vf).accepts = true → s.nodeRecord vf n = (some r, u) →
      let c := qCtl r
      let noted (t : State) : Prop := n ∉ (t.ctx vf).triggers ∧ ∃ x, ((t.ctx vf).seen.find? fun y => y.node == n) = some x ∧
        x.tail = t.qTail c ∧ x.dep = t.qDep c
      let none_ (o : Out) : Prop := ∃ t, o = .next t ∧ t.qClaim c = u.qClaim c ∧ (t.ctx vf).nextSeq = (s.ctx vf).nextSeq ∧ noted t
      let all (o : Out) : Prop := ∃ t, o = .next t ∧ t.qClaim c = u.qTail c ∧ t.qTail c = u.qTail c ∧
        (t.ctx vf).nextSeq = (s.ctx vf).nextSeq + 1 ∧ noted t
      (s.nodeTurn vf n = true → u.decisionDue vf n r = false → exec (.triggerDecision vf n) s = .next u) ∧
      (s.nodeTurn vf n = true → u.decisionDue vf n r = true → u.qDep c ≠ 0 → none_ (exec (.triggerDecision vf n) s)) ∧
      (s.nodeTurn vf n = true → u.decisionDue vf n r = true → u.qDep c = 0 → u.qWaiting c = 0 → none_ (exec (.triggerDecision vf n) s)) ∧
      (s.nodeTurn vf n = true → u.decisionDue vf n r = true → u.qDep c = 0 → u.qWaiting c ≠ 0 → u.qWaiting c < (qThresh r).toNat →
        (n ∈ (s.ctx vf).triggers → all (exec (.triggerDecision vf n) s))) ∧
      (s.nodeTurn vf n = true → u.timerDue r = false ∨ u.qWaiting c = 0 ∨ u.timerTurn vf n r = false →
        exec (.flushTimerExpiry vf n) s = .next u) ∧
      (s.nodeTurn vf n = true → u.timerTurn vf n r = true → u.timerDue r = true → u.qDep c = 0 → u.qWaiting c ≠ 0 → u.qWaiting c < (qThresh r).toNat →
        all (exec (.flushTimerExpiry vf n) s)))

/-- Placing gangs. A candidate that may be admitted goes onto a core that it fits, a band onto distinct cores of one die with a
region of its own, and the launch counts them admitted; a new gang starts with gang memory zero and every granule empty, each
group with one split of its live lanes at the code address; where it does not fit or comes not first, nothing happens. A
candidate that has waited 1 ms and fits nowhere reserves. A gang the distributor may evict leaves its core, its image kept
as it was; an evicted gang is woken once a condition it waits for is met (14 R235, R236, R243, R244, 03 R17 to R21). -/
def Obligations.Placement : Prop :=
  ∀ (s : State) (g : GangRef) (die : BitVec 3) (core : BitVec 7),
    (∀ (c : Cand) (a : Ask) (rest : List Ask), (s.candidates.find? fun c => c.ref == g) = some c → c.band = none → c.asks = a :: rest →
      (s.mayAdmit c = false ∨ s.fits a die core = false → exec (.gangAdmission g die core) s = .next s) ∧
      (s.mayAdmit c = true → s.fits a die core = true → c.woken = false →
        ∀ l, ((s.ctx g.vf).launches.find? fun l => l.seq == g.seq) = some l →
          ∃ t, exec (.gangAdmission g die core) s = .next t ∧ t.others = s.others ++ [s.newGang g.vf l l.admitted die core none] ∧
            (t.ctx g.vf).launches = ((s.ctx g.vf).launches.map fun (x : Launch) =>
              if x.seq = g.seq then { x with admitted := x.admitted + 1 } else x) ∧
            t.gang = s.gang ∧ t.grp = s.grp ∧ t.peers = s.peers ∧ s.SameBytes t) ∧
      (s.mayAdmit c = true → s.fits a die core = true → c.woken = true →
        ∀ e : Evicted, (s.evicted.find? fun e => e.image.gang.isRef g) = some e → e.always = false →
          ∃ (t : State) (r : Resident), exec (.gangAdmission g die core) s = .next t ∧ t.others = s.others ++ [r] ∧ r.gang.core = core ∧ r.gang.die = die ∧
            r.gang.gmem = e.image.gang.gmem ∧ r.groups.length = e.image.groups.length ∧
            (∀ (i : Nat) (x y : Group), e.image.groups[i]? = some x → r.groups[i]? = some y → y.v = x.v ∧ y.s = x.s ∧ y.m = x.m ∧ y.live = x.live) ∧
            (t.evicted.any fun x => x.image.gang.isRef g) = false ∧ t.gang = s.gang ∧ t.grp = s.grp ∧ s.SameBytes t)) ∧
    (∀ (vf : BitVec 7) (l : Launch) (i : Nat) (b : Option (BitVec 29)),
      let r := s.newGang vf l i die core b
      r.gang.gmem = [] ∧ r.gang.granules = [] ∧ r.gang.tvec = l.lrec.handler &&& ~~~3 ∧ r.gang.pool = l.lrec.tiles.setWidth 13 ∧
      r.groups.length = l.lrec.groups ∧ ∀ (j : Nat) (x : Group), r.groups[j]? = some x →
        x.idx = BitVec.ofNat 5 j ∧ x.splits.e0.pc = l.lrec.code ∧ x.splits.e0.mask = x.live ∧ x.splits.e0.mode = 0 ∧ x.v = [] ∧ x.m = [] ∧
        x.live = widthMask (if j + 1 = l.lrec.groups ∧ l.lrec.last ≠ 0 then l.lrec.last.toNat else l.lrec.lanes) ∧
        (∀ q : Nat, q < l.params.length → x.s.get (q + 1) = l.params.getD q 0)) ∧
    (∀ (vf : BitVec 7) (seq : W64) (band : BitVec 32) (cores : List (BitVec 7)) (base : BitVec 29) (c : Cand),
      (s.candidates.find? fun c => c.ref.vf == vf && c.ref.seq == seq && c.band == some band) = some c →
      let n := match c.asks with | a :: _ => a.lrec.bandBytes | [] => 0
      (s.mayAdmit c = false ∨ distinct cores = false ∨ s.fitAll die c.asks cores = false ∨ s.bankFree base.toNat n = false →
        exec (.bandAdmission vf seq band die cores base) s = .next s) ∧
      (s.mayAdmit c = true → distinct cores = true → s.fitAll die c.asks cores = true → s.bankFree base.toNat n = true →
        base.toNat / dieBank = die.toNat → c.woken = false → ∀ l, ((s.ctx vf).launches.find? fun l => l.seq == seq) = some l →
        ∃ t, exec (.bandAdmission vf seq band die cores base) s = .next t ∧
          t.bands = s.bands ++ [{ vf, seq, idx := band, base, bytes := n, resident := true, saved := [], barriers := [] }] ∧
          t.others.length = s.others.length + cores.length ∧ t.gang = s.gang ∧ t.grp = s.grp ∧
          (∀ a, base.toNat ≤ a → a < base.toNat + n → SMap.get t.bank a = 0) ∧
          (∀ a, a < base.toNat ∨ base.toNat + n ≤ a → SMap.get t.bank a = SMap.get s.bank a) ∧
          (t.ctx vf).launches = ((s.ctx vf).launches.map fun (x : Launch) =>
            if x.seq = seq then { x with admitted := x.admitted + cores.length } else x))) ∧
    (∀ c, (s.candidates.find? fun c => c.ref == g) = some c →
      (c.since.toNat + 1000000 ≤ s.time.toNat → s.placeable c = false → g ∉ s.reserving →
        exec (.candidateReservation g) s = .next { s with reserving := s.reserving ++ [g] }) ∧
      (s.time.toNat < c.since.toNat + 1000000 ∨ s.placeable c = true → exec (.candidateReservation g) s = .next s)) ∧
    (s.gang.present = true → s.bands = [] →
      let me := s.self.gang
      let u := s.unitOf { gang := s.gang, groups := s.grp :: s.peers }
      let may (v : EvictUnit) : Bool := (s.candidates.filter fun c => !s.placeable c).any fun c => s.mayEvict v c
      (may u = true → (s.residents.all fun q => !may (s.unitOf q) || !(s.unitOf q).beforeUnit u) = true →
        s.saveMapped s.gang.vf (s.ctx s.gang.vf).saveSize = true →
        ∃ t, exec (.gangEviction me) s = .next t ∧ t.gang.present = false ∧ t.others = s.others ∧ t.mem = s.mem ∧ t.bank = s.bank ∧
          t.evicted = s.evicted ++ [{ image := { gang := s.gang, groups := (s.grp :: s.peers).map fun x => { x with inActive := false } }
                                      woken := false, order := s.order, since := s.time, always := false }]) ∧
      (may u = false ∨ s.saveMapped s.gang.vf (s.ctx s.gang.vf).saveSize = false → exec (.gangEviction me) s = .next s)) ∧
    ∀ e, (s.evicted.find? fun e => e.image.gang.isRef g) = some e → e.woken = false →
      (e.always = true ∨ e.image.wakes.any (s.wakeMet e.image) = true → ∃ t, exec (.gangWake g) s = .next t ∧
        (∃ x, x ∈ t.evicted ∧ x.image = e.image ∧ x.woken = true ∧ x.since = s.time) ∧ t.others = s.others ∧ t.gang = s.gang ∧
        t.grp = s.grp ∧ s.SameBytes t) ∧
      (e.always = false → e.image.wakes.any (s.wakeMet e.image) = false → exec (.gangWake g) s = .next s)

/-! ## Watch, debug and trace -/

/-- Arming and reading predicates. wp.set refuses a record that is none and one that is malformed by a precise trap, answers 0
where another context with predicates armed holds one of its cores, and else arms the predicate with the record as it is and
its gang and launch, keeping the others and starting its counts anew; wp.clr disarms one or all; wp.st gives a predicate's
counts, or the oldest record of the watch log, which it removes, or the number of dropped ones, which it clears. The oldest
landed load under evaluation leaves; where it satisfies nothing nothing else happens, and where one predicate fires on its
value, or one has fired on its address, the action follows: a trap falls due at the load's address, or the group is held
(22 R329, R333, R334, R339; that the evaluation waits, and nothing happens, while a trap frame is active: log 37; stated with the trace off,
and where no record for the log and no trigger decision waits). -/
def Obligations.WatchInstructions : Prop :=
  ∀ (s : State) (d a : BitVec 6) (p : BitVec 4), (s.contexts.any fun c => c.vf == s.gang.vf) = true →
    let vf := s.gang.vf
    let k := s.ctx vf
    let n : BitVec 10 := field (s.readS a) 0 10
    let r := s.record n
    let same (t : State) : Prop := s.SameV t [] ∧ s.SameM t [] ∧ s.StandsAt t (s.sp.pc + 4) ∧ t.gang = s.gang ∧ t.peers = s.peers ∧
      t.others = s.others ∧ s.SameBytes t
    (s.Ready { reads := [(.s a, false)], writes := [.s d], recs := [n] } →
      (recKind r ≠ 4 → exec (.wpSet d a p) s = .next (s.trap cREC_KIND)) ∧
      (recKind r = 4 → watchMalformed r = true → exec (.wpSet d a p) s = .next (s.trap cWATCH_RECORD)) ∧
      (recKind r = 4 → watchMalformed r = false →
        let taken : Prop := ∃ x y : Resident, x ∈ s.residents ∧ y ∈ s.residents ∧ x.gang.vf = vf ∧ y.gang.vf ≠ vf ∧
          y.gang.die = x.gang.die ∧ y.gang.core = x.gang.core ∧ (s.ctx y.gang.vf).watch ≠ []
        (taken → DoneS s (exec (.wpSet d a p) s) d 0) ∧
        (¬taken → ∃ t, exec (.wpSet d a p) s = .next t ∧ t.readS d = (if d = 0 then 0 else 1) ∧ s.SameS t [d] ∧ same t ∧
          ((t.ctx vf).watch.find? fun w => w.p == p) = some { p := p, record := r, gang := s.gang.idx, seq := s.gang.seq } ∧
          (∀ w, w ∈ k.watch → w.p ≠ p → w ∈ (t.ctx vf).watch) ∧ t.watchCount p = (0, 0)))) ∧
    (s.Ready {} →
      (∃ t, exec (.wpClr p) s = .next t ∧ (t.ctx vf).watch = (k.watch.filter fun w => w.p != p) ∧ same t ∧ s.SameS t []) ∧
      ∃ t, exec .wpClrAll s = .next t ∧ (t.ctx vf).watch = [] ∧ same t ∧ s.SameS t []) ∧
    (s.Ready { writes := [.s d] } →
      DoneS s (exec (.wpSt d p) s) d
        (if (k.watch.any fun w => w.p == p) = true then 1#1 ++ 0#15 ++ (s.watchCount p).1 ++ (s.watchCount p).2 else 0)) ∧
    (s.Ready { ok := d != 63, writes := [.s d, .s (d + 1)] } →
      ∃ t, exec (.wpStLog d) s = .next t ∧ same t ∧ s.SameS t [d, d + 1] ∧
        (∀ h rest, k.wlog = h :: rest → t.readS d = (if d = 0 then 0 else field h 0 64) ∧ t.readS (d + 1) = field h 64 64 ∧
          (t.ctx vf).wlog = rest ∧ (t.ctx vf).wlogOvf = k.wlogOvf) ∧
        (k.wlog = [] → t.readS d = 0 ∧ t.readS (d + 1) = k.wlogOvf.setWidth 64 ∧ (t.ctx vf).wlog = [] ∧
          (t.ctx vf).wlogOvf = 0)) ∧
    (s.gang.present = true → s.captured vf = false → s.grp.killed = false → s.grp.tracectl = 0 → s.grp.logs = [] →
      s.grp.flushes = [] →
      (s.grp.frame.active = true → exec (.watchLoadValueEvaluation s.self) s = .next s) ∧
      (s.grp.frame.active = false → ∀ e : Entry, (s.grp.flight.find? fun e => e.toEvaluate && e.writes.isEmpty) = some e →
        let hit (q : BitVec 4 × W256) (x : Acc) : Bool := (wLanes q.2).getLsbD x.lane && watchCmp q.2 (e.result.get x.lane)
        ∃ t, exec (.watchLoadValueEvaluation s.self) s = .next t ∧ (∀ x, x ∈ t.grp.flight → x.id ≠ e.id) ∧ s.SameS t [] ∧
          s.SameV t [] ∧ s.SameM t [] ∧ s.SameBytes t ∧
          let acts (act : BitVec 3) (p : BitVec 4) : Prop :=
            (act = 1 → ∃ du : Due, du ∈ t.grp.due ∧ du.cause = cWATCH_TRAP ∧ du.tkind = 3 ∧ du.pc = e.pc ∧
              du.detail = p.setWidth 64) ∧
            (act = 3 → ∀ y, y ∈ t.grp.allSplits → y.isFree = true ∨ y.held = true)
          (e.fired = [] → (∀ q x, q ∈ e.watch → x ∈ e.accs → wSrc q.2 = 2 → hit q x = false) →
            t.contexts = s.contexts ∧ t.grp.due = s.grp.due ∧ t.grp.splits = s.grp.splits) ∧
          (∀ (q : BitVec 4 × W256) (x : Acc), e.fired = [] → e.watch = [q] → e.accs = [x] → wSrc q.2 = 2 → hit q x = true →
            (s.watchCount q.1).1 + 1 = wCount q.2 → acts (wAct q.2) q.1) ∧
          ∀ f : Firing, e.fired = [f] → e.watch = [] → acts f.act f.p))

/-- Debug instructions. Without the capability for the target's virtual function they trap DBG_CAP, without such a target
DBG_TARGET. dbg.halt holds the lane's split, the group's or the gang's, and dbg.go releases it: status 0, or 5 where the
target is gone and 3 where nothing is held. dbg.step makes the lane's instruction the very next move, its lane alone in a held
split, or writes why it does not: 5 gone, 4 no entry, 3 not held, 1 stopped. dbg.rd is in flight until it gives the register
and 0, or 1 where the register is empty; dbg.wr writes it for a held target, and refuses an empty one unless forced, with the
status in the register after. The agent goes on at its next instruction (22 R336, R340 to R343; that DBG_CAP comes before DBG_TARGET: log
36; that a step of a lane of a stopped context ends at once with status 1: log 81; stated with the target's trace off, and release where no
split of its gang waits at a join or has a register to write when it goes on). -/
def Obligations.DebugInstructions : Prop :=
  ∀ (s : State) (d a : BitVec 6) (r : BitVec 9) (scope : BitVec 2),
    let x := s.readS a
    let use := dbgUse a true [] [.s d]
    let useRd := dbgUse a (d != 63) [] [.s d, .s (d + 1)]
    let useWr := dbgUse a (d != 63) [(.s d, false)] [.s (d + 1)]
    let target := s.findTarget s.gang.vf x (s.readS (a + 1))
    let no (u : Use) (i : Instr) : Prop := s.Ready u →
      (s.debugCap s.gang.vf (field x 32 7) = false → exec i s = .next (s.trap cDBG_CAP)) ∧
      (s.debugCap s.gang.vf (field x 32 7) = true → target = none → exec i s = .next (s.trap cDBG_TARGET))
    no use (.dbgHalt d a scope) ∧ no use (.dbgGo d a scope) ∧ no use (.dbgStep d a) ∧ no useRd (.dbgRd d a r) ∧
    no useWr (.dbgWr d a r) ∧ no useWr (.dbgWrF d a r) ∧
    (∀ (t : Target) (u : State), s.debugCap s.gang.vf (field x 32 7) = true → target = some t →
      s.advance.focus t.g = some u → (∀ g, g ∈ u.grp :: u.peers → g.tracectl = 0) →
      let inScope (v : State) (q : Split → Prop) : Prop :=
        if scope = 0 then ∀ y, y ∈ v.grp.allSplits → y.mask.getLsbD t.lane = true → q y
        else if scope = 1 then ∀ y, y ∈ v.grp.allSplits → q y
        else ∀ g y, g ∈ v.grp :: v.peers → g = v.grp ∨ g.idx ≠ v.grp.idx → y ∈ g.allSplits → q y
      let goesOn (w : State) : Prop := s.SameS w [d] ∧ s.SameV w [] ∧ s.SameM w [] ∧ w.k = s.k ∧ w.sp.pc = s.sp.pc + 4 ∧ s.SameBytes w
      (s.Ready use →
        (u.haltGone scope t.lane = true → DoneS s (exec (.dbgHalt d a scope) s) d 5) ∧
        (u.haltGone scope t.lane = false → (∃ y, y ∈ u.grp.allSplits ∧ y.mask.getLsbD t.lane = true) →
          ∃ w v, exec (.dbgHalt d a scope) s = .next w ∧ w.readS d = 0 ∧ goesOn w ∧ w.focus t.g = some v ∧
            (scope = 0 → ∃ y, y ∈ v.grp.allSplits ∧ y.mask.getLsbD t.lane = true ∧ y.held = true) ∧
            (scope ≠ 0 → inScope v fun y => y.isFree = true ∨ y.held = true)) ∧
        ((u.debugGo scope t.lane).1 = false → DoneS s (exec (.dbgGo d a scope) s) d 3) ∧
        ((u.debugGo scope t.lane).1 = true → ((u.grp :: u.peers).map (·.idx)).Nodup →
          (∀ g y, g ∈ u.grp :: u.peers → y ∈ g.allSplits → (∀ m b, y.st ≠ .waiting m b) ∧ ∀ r v, y.st ≠ .passed (some r) v) →
          ∃ w v, exec (.dbgGo d a scope) s = .next w ∧ w.readS d = 0 ∧ goesOn w ∧ w.focus t.g = some v ∧
            inScope v fun y => y.held = false) ∧
        ((s.ctx t.g.gang.vf).stopped = true → DoneS s (exec (.dbgStep d a) s) d 1) ∧
        ((s.ctx t.g.gang.vf).stopped = false →
          (u.grp.live.getLsbD t.lane = false → DoneS s (exec (.dbgStep d a) s) d 5) ∧
          (u.grp.live.getLsbD t.lane = true →
            (u.grp.splitOf t.lane = none → DoneS s (exec (.dbgStep d a) s) d 4) ∧
            ∀ j, u.grp.splitOf t.lane = some j →
              let y := u.grp.splits.get j
              (y.held = false → DoneS s (exec (.dbgStep d a) s) d 3) ∧
              (y.held = true → y.mask ≠ laneBit t.lane → u.grp.splits.firstFree = none →
                DoneS s (exec (.dbgStep d a) s) d 4) ∧
              (y.held = true → y.mask = laneBit t.lane ∨ u.grp.splits.firstFree ≠ none →
                ∃ w v i, exec (.dbgStep d a) s = .next w ∧
                  w.agenda = .stepLane t.g (BitVec.ofNat 6 t.lane) (some (s.self, d)) :: s.agenda ∧ goesOn w ∧ s.SameS w [] ∧
                  w.focus t.g = some v ∧ (v.grp.splits.get i).mask = laneBit t.lane ∧ (v.grp.splits.get i).held = true)))) ∧
      (s.Ready useRd → ∃ w e, exec (.dbgRd d a r) s = .next w ∧ e ∈ w.grp.flight ∧ e.op = .dbgRd t.g (BitVec.ofNat 6 t.lane) r ∧
        e.dest = Dest.scal d.toNat 2 ∧ (d ≠ 0 → w.grp.isEmpty (.s d) = true) ∧ w.grp.isEmpty (.s (d + 1)) = true ∧ goesOn w ∧
        s.SameS w [])) ∧
    (∀ (t : Target) (u : State) (force : Bool), s.debugCap s.gang.vf (field x 32 7) = true → target = some t →
      s.focus t.g = some u → s.Ready useWr → s.stepping = none →
      let q := u.debugWrite t.lane r (s.readS d) force
      ∃ w v, exec (if force then .dbgWrF d a r else .dbgWr d a r) s = .next w ∧ w.readS (d + 1) = q.1 ∧ w.sp.pc = s.sp.pc + 4 ∧
        s.SameBytes w ∧ w.focus t.g = some v ∧ v.grp.v = q.2.v ∧ v.grp.m = q.2.m ∧ v.grp.tsf = q.2.tsf ∧ v.grp.aef = q.2.aef ∧
        (t.g ≠ s.self → v.grp = q.2 ∧ s.SameS w [d + 1] ∧ s.SameV w [] ∧ s.SameM w [])) ∧
    (s.gang.present = true → s.captured s.gang.vf = false → d ≠ 63 →
      ∀ (id : Nat) (lanes : Mask) (e : Entry) (g : GroupRef) (lane : BitVec 6) (u : State), s.grp.entry id = some e →
        e.op = .dbgRd g lane r → e.dest = Dest.scal d.toNat 2 → e.cancelled = [] → s.focus g = some u →
        ∃ w, exec (.producerCompletion s.self id lanes) s = .next w ∧
          w.readS d = (if d = 0 then 0 else (u.debugRead lane.toNat r).1) ∧ w.readS (d + 1) = (u.debugRead lane.toNat r).2 ∧
          w.grp.isEmpty (.s d) = false ∧ w.grp.isEmpty (.s (d + 1)) = false ∧ (∀ y, y ∈ w.grp.flight → y.id ≠ id) ∧
          s.SameS w [d, d + 1] ∧ s.SameV w [] ∧ s.SameM w [] ∧ s.SameBytes w)

/-- What a debug instruction reads and writes of the group in focus, and the list of held splits. A register is read by its
code, 0 for one that is not declared with status 6; a vector or moment register is written in the lane of the target alone, and
only where its split is held, a scalar or special one where every split is; an empty one only by force; a mode that is no
legal mode is refused. dbg.ls gives the i-th held split of a context: its hit record and its target pair, or zeros past the
last (22 R338, R342, R344; that a pc or a mode is written to every split of the group, and that DBG_CAP comes before DBG_TARGET: log 36).
The register mirror does what the debug instructions do, on a target of its own context, with no capability asked: the
status goes to DMSTAT, the value of a read to DMDATA, from where a write takes it; a target that is not there is 7. A step leaves
BUSY set until it is done, and a command while BUSY is set has no effect; a step in a stopped context has status 1, which is the
model's choice (log 81) (22 R345; stated with the target's trace off, and release
where no split of its gang waits at a join or has a register to write when it goes on). -/
def Obligations.DebugRegisters : Prop :=
  ((∀ (s : State) (lane : Nat) (r : BitVec 9) (v : W64) (force : Bool),
     let g := s.grp
     let n := codeNum r
     let c (x : Reg) : W64 := if g.isEmpty x then 1 else 0
     let may (held : Bool) (x : Reg) (h : Group → Prop) : Prop :=
       (g.live.getLsbD lane = true → held = false → s.debugWrite lane r v force = (3, g)) ∧
       (g.live.getLsbD lane = true → held = true → g.isEmpty x = true → force = false → s.debugWrite lane r v force = (1, g)) ∧
       (g.live.getLsbD lane = true → held = true → g.isEmpty x = false ∨ force = true →
         (s.debugWrite lane r v force).1 = 0 ∧ (s.debugWrite lane r v force).2.isEmpty x = false ∧ h (s.debugWrite lane r v force).2)
     let laneHeld := match g.laneSplit lane with | some x => x.held | none => false
     (s.hasReg r = false → s.debugRead lane r = (0, 6) ∧ s.debugWrite lane r v force = (6, g)) ∧
     (codeFile r = 0 → n < s.gang.lrec.nv →
       s.debugRead lane r = ((g.vreg n lane).setWidth 64, c (.v n)) ∧
       (g.live.getLsbD lane = false → s.debugWrite lane r v force = (5, g)) ∧
       may laneHeld (.v n) fun h => h.vreg n lane = v.setWidth 32 ∧ h.s = g.s ∧ h.m = g.m ∧
         ∀ q l, l < 64 → lane < 64 → (q, l) ≠ (n, lane) → h.vreg q l = g.vreg q l) ∧
     (codeFile r = 2 → n < s.gang.lrec.nm →
       s.debugRead lane r = (g.mreg n lane, c (.m n)) ∧
       (g.live.getLsbD lane = false → s.debugWrite lane r v force = (5, g)) ∧
       may laneHeld (.m n) fun h => h.mreg n lane = v ∧ h.s = g.s ∧ h.v = g.v ∧
         ∀ q l, l < 64 → lane < 64 → (q, l) ≠ (n, lane) → h.mreg q l = g.mreg q l) ∧
     (codeFile r = 1 → n < 64 →
       s.debugRead lane r = (g.sreg (BitVec.ofNat 6 n), c (.s (BitVec.ofNat 6 n))) ∧
       (g.live = 0 → s.debugWrite lane r v force = (5, g)) ∧
       may g.allHeld (.s (BitVec.ofNat 6 n)) fun h => h.sreg (BitVec.ofNat 6 n) = (if n = 0 then 0 else v) ∧ h.v = g.v ∧ h.m = g.m ∧
         ∀ q, q ≠ BitVec.ofNat 6 n → h.sreg q = g.sreg q) ∧
     (codeFile r = 3 → ∀ y, g.laneSplit lane = some y → g.live ≠ 0 → g.allHeld = true →
       (n = 0 → s.debugRead lane r = (y.pc, 0) ∧ (s.debugWrite lane r v force).1 = 0 ∧
         ∀ z, z ∈ (s.debugWrite lane r v force).2.allSplits → z.isFree = true ∨ z.pc = v &&& ~~~3) ∧
       (n = 1 → s.debugRead lane r = (y.mode, 0) ∧
         (modeOk v = false → s.debugWrite lane r v force = (6, g)) ∧
         (modeOk v = true → (s.debugWrite lane r v force).1 = 0 ∧
           ∀ z, z ∈ (s.debugWrite lane r v force).2.allSplits → z.isFree = true ∨ z.mode = v)) ∧
       (n = 2 → s.debugRead lane r = (y.mask, 0) ∧ s.debugWrite lane r v force = (6, g)) ∧
       (n = 4 → s.debugRead lane r = (g.live, 0) ∧ s.debugWrite lane r v force = (6, g)) ∧
       (n = 5 → s.debugRead lane r = (g.tsf, 0) ∧ s.debugWrite lane r v force = (0, { g with tsf := v &&& 3 })) ∧
       (n = 6 → s.debugRead lane r = (g.aef, 0) ∧ s.debugWrite lane r v force = (0, { g with aef := v &&& 0x3F })))) ∧
   ∀ (s : State) (d a : BitVec 6),
     s.Ready { ok := d.toNat ≤ 60, reads := [(.s a, false)], writes := [.s d, .s (d + 1), .s (d + 2), .s (d + 3)] } →
     let x := s.readS a
     let named : BitVec 7 := field x 32 7
     let bad := field x 0 32 ≠ (0 : BitVec 32) ∨ x.getLsbD 39 = true ∨ field x 56 8 ≠ (0 : BitVec 8)
     (s.debugCap s.gang.vf named = false → exec (.dbgLs d a) s = .next (s.trap cDBG_CAP)) ∧
     (s.debugCap s.gang.vf named = true → bad → exec (.dbgLs d a) s = .next (s.trap cDBG_TARGET)) ∧
     (s.debugCap s.gang.vf named = true → ¬bad →
       let l := s.heldSplits (if named = 0 then s.gang.vf else named)
       ∃ t, exec (.dbgLs d a) s = .next t ∧ s.StandsAt t (s.sp.pc + 4) ∧ s.SameS t [d, d + 1, d + 2, d + 3] ∧ s.SameV t [] ∧
         s.SameM t [] ∧ s.OnlyRegs t ∧ s.SameBytes t ∧
         (l.length ≤ (field x 40 16 : BitVec 16).toNat →
           t.readS d = 0 ∧ t.readS (d + 1) = 0 ∧ t.readS (d + 2) = 0 ∧ t.readS (d + 3) = 0) ∧
         ∀ h, l[(field x 40 16 : BitVec 16).toNat]? = some h →
           t.readS d = (if d = 0 then 0 else field h.hit 0 64) ∧ t.readS (d + 1) = field h.hit 64 64 ∧
           field (t.readS (d + 2)) 0 32 = h.launch ∧ field (t.readS (d + 2)) 32 7 = named ∧
           field (t.readS (d + 3)) 0 32 = h.gang ∧ field (t.readS (d + 3)) 32 5 = h.grp ∧
           field (t.readS (d + 3)) 37 6 = BitVec.ofNat 6 h.lane)) ∧
  (∀ (s : State) (vf : BitVec 7) (r : BitVec 9) (scope : BitVec 2), (s.contexts.any fun c => c.vf == vf) = true →
     let c := s.ctx vf
     let target := s.findTarget vf c.dmt0 c.dmt1
     let gives (o : Out) (st : W64) : Prop := ∃ t, o = .next t ∧ t.ctx vf = { c with dmStat := st } ∧ t = { s with contexts := t.contexts }
     let commands : List Instr := [.dmHalt vf scope, .dmGo vf scope, .dmStep vf, .dmRd vf r, .dmWr vf r, .dmWrF vf r]
     (c.dmStat.getLsbD 63 = true → ∀ i, i ∈ commands → exec i s = .next s) ∧
     (c.dmStat.getLsbD 63 = false → (∀ t, target = some t → t.g.gang.vf ≠ vf) → ∀ i, i ∈ commands → gives (exec i s) 7) ∧
     ∀ (t : Target) (u : State), c.dmStat.getLsbD 63 = false → target = some t → t.g.gang.vf = vf → s.focus t.g = some u →
       (∀ g, g ∈ u.grp :: u.peers → g.tracectl = 0) →
       let done (o : Out) (st : W64) (p : State → State → Prop) : Prop := ∃ w v, o = .next w ∧ (w.ctx vf).dmStat = st ∧
         w.mem = s.mem ∧ w.bank = s.bank ∧ w.focus t.g = some v ∧ p w v
       let inScope (v : State) (q : Split → Prop) : Prop :=
         if scope = 0 then ∀ y, y ∈ v.grp.allSplits → y.mask.getLsbD t.lane = true → q y
         else if scope = 1 then ∀ y, y ∈ v.grp.allSplits → q y
         else ∀ g y, g ∈ v.grp :: v.peers → g = v.grp ∨ g.idx ≠ v.grp.idx → y ∈ g.allSplits → q y
       (u.haltGone scope t.lane = true → gives (exec (.dmHalt vf scope) s) 5) ∧
       (u.haltGone scope t.lane = false → (∃ y, y ∈ u.grp.allSplits ∧ y.mask.getLsbD t.lane = true) →
         done (exec (.dmHalt vf scope) s) 0 fun w v =>
           (scope = 0 → ∃ y, y ∈ v.grp.allSplits ∧ y.mask.getLsbD t.lane = true ∧ y.held = true) ∧
           (scope ≠ 0 → inScope v fun y => y.isFree = true ∨ y.held = true) ∧ v.grp.v = u.grp.v ∧ v.grp.s = u.grp.s ∧ v.grp.m = u.grp.m ∧
           (s.gang.present = true → s.SameS w [] ∧ s.SameV w [] ∧ s.SameM w [])) ∧
       ((u.debugGo scope t.lane).1 = false → gives (exec (.dmGo vf scope) s) 3) ∧
       ((u.debugGo scope t.lane).1 = true → ((u.grp :: u.peers).map (·.idx)).Nodup →
         (∀ g y, g ∈ u.grp :: u.peers → y ∈ g.allSplits → (∀ m b, y.st ≠ .waiting m b) ∧ ∀ x v, y.st ≠ .passed (some x) v) →
         done (exec (.dmGo vf scope) s) 0 fun w v => inScope v (fun y => y.held = false) ∧ v.grp.v = u.grp.v ∧ v.grp.s = u.grp.s ∧
           v.grp.m = u.grp.m ∧ (s.gang.present = true → s.SameS w [] ∧ s.SameV w [] ∧ s.SameM w [])) ∧
       (c.stopped = true → gives (exec (.dmStep vf) s) 1) ∧
       (c.stopped = false →
         (u.grp.live.getLsbD t.lane = false → gives (exec (.dmStep vf) s) 5) ∧
         (u.grp.live.getLsbD t.lane = true → u.grp.splitOf t.lane = none → gives (exec (.dmStep vf) s) 4) ∧
         ∀ j, u.grp.live.getLsbD t.lane = true → u.grp.splitOf t.lane = some j →
           ((u.grp.splits.get j).held = false → gives (exec (.dmStep vf) s) 3) ∧
           ((u.grp.splits.get j).held = true → (u.grp.splits.get j).mask = laneBit t.lane ∨ u.grp.splits.firstFree ≠ none →
             ∃ w v i, exec (.dmStep vf) s = .next w ∧ w.agenda = .stepLane t.g (BitVec.ofNat 6 t.lane) none :: s.agenda ∧
               w.mem = s.mem ∧ (w.ctx vf).dmStat = dmBUSY ∧ w.focus t.g = some v ∧ (v.grp.splits.get i).mask = laneBit t.lane ∧
               (v.grp.splits.get i).held = true)) ∧
       (∃ w, exec (.dmRd vf r) s = .next w ∧ w = { s with contexts := w.contexts } ∧
         w.ctx vf = { c with dmData := (u.debugRead t.lane r).1, dmStat := (u.debugRead t.lane r).2 }) ∧
       ∀ force : Bool, done (exec (if force then .dmWrF vf r else .dmWr vf r) s) (u.debugWrite t.lane r c.dmData force).1 fun w v =>
         v.grp = (u.debugWrite t.lane r c.dmData force).2 ∧ (s.gang.present = true → t.g ≠ s.self → w.grp = s.grp))

/-- Packets and samples. tr.mark puts a mark with its number and the scalar's value into the sink of its die where marks and
the trace are on and it fits, and has no other effect where they are not; a time stamp is put every 65,536 cycles while the
trace is on; where a packet does not fit it is dropped and the group owes a SYNC. While sampling is on a quadrant's next group
in slot order is sampled every N cycles: 32 bytes go into the die's buffer where they fit, and no register, split or operation
changes (22 R347 to R351; that sampling counts from the cycle of the write of SMCTL, and that a quadrant goes on from the slot after the last
one sampled: log 52; stated where no branch bits and no SYNC wait). -/
def Obligations.TraceAndSampling : Prop :=
  ∀ (s : State) (a : BitVec 6) (k : BitVec 9),
    let die := s.gang.die.toNat
    let kk := sinkAt s.sinks s.gang.die
    let head (kind n : Nat) : List Byte :=
      BitVec.ofNat 8 (kind * 32 + s.grp.slot.toNat) :: (toBytes 2 (s.grp.idx.toNat % 4 * 2 ^ 14 + s.gang.core.toNat * 2 ^ 7) ++ [BitVec.ofNat 8 n])
    let put (t : State) (b : List Byte) : Prop :=
      (kk.fits b.length = true → t.mem = writeRing kk.base kk.size kk.tail b s.mem ∧
        t.sinks = s.sinks.set die { kk with tail := kk.tail + BitVec.ofNat 64 b.length }) ∧
      (kk.fits b.length = false → t.mem = s.mem ∧ t.sinks = s.sinks ∧ t.grp.syncDue = true)
    let regs (t : State) : Prop := s.SameS t [] ∧ s.SameV t [] ∧ s.SameM t [] ∧ t.contexts = s.contexts ∧ t.bank = s.bank ∧ t.gang = s.gang
    (s.Ready { reads := [(.s a, false)] } →
      ((s.tracing && s.grp.tracectl.getLsbD 3) = false → Goes s (exec (.trMark a k) s) (s.sp.pc + 4)) ∧
      (s.tracing = true → s.grp.tracectl.getLsbD 3 = true → s.grp.quiet = false → s.grp.brBits = [] → ∃ t, exec (.trMark a k) s = .next t ∧
        put t (head 7 10 ++ (toBytes 2 k.toNat ++ toBytes 8 (s.readS a).toNat)) ∧ s.StandsAt t (s.sp.pc + 4) ∧ regs t)) ∧
    (s.gang.present = true → s.captured s.gang.vf = false →
      (s.tracing = false ∨ (s.cycles - s.grp.tsAt).toNat < 65536 → exec (.traceTs s.self) s = .next s) ∧
      (s.tracing = true → 65536 ≤ (s.cycles - s.grp.tsAt).toNat → s.grp.quiet = false → s.grp.brBits = [] → ∃ t, exec (.traceTs s.self) s = .next t ∧
        put t (head 6 8 ++ toBytes 8 s.time.toNat) ∧ t.grp.tsAt = s.grp.tsAt + 65536 ∧ t.grp.splits = s.grp.splits ∧ regs t)) ∧
    ∀ (dd : BitVec 3) (core : BitVec 7) (quad : BitVec 2),
      let x := (s.samplers[dd.toNat]?).getD Sampler.reset
      let key := 4 * core.toNat + quad.toNat
      let l := s.rotation dd core quad.toNat
      let b := sinkAt s.sampleSinks dd
      (x.period = none → exec (.sample dd core quad) s = .next s) ∧
      ∀ n, x.period = some n →
        ((s.cycles - x.start).toNat / n ≤ (x.taken.get key).toNat → exec (.sample dd core quad) s = .next s) ∧
        ((x.taken.get key).toNat < (s.cycles - x.start).toNat / n →
          ∃ t, exec (.sample dd core quad) s = .next t ∧ t.gang = s.gang ∧ t.grp = s.grp ∧ t.peers = s.peers ∧ t.others = s.others ∧
            t.contexts = s.contexts ∧ t.bank = s.bank ∧
            (dd.toNat < s.samplers.length → ((t.samplers[dd.toNat]?).getD Sampler.reset).taken.get key = x.taken.get key + 1) ∧
            (l = [] → t.mem = s.mem ∧ t.sampleSinks = s.sampleSinks) ∧
            (∀ r, (nextSlot (x.next.get key).toNat l).or (nextSlot 0 l) = some r →
              (b.fits 32 = true →
                t.mem = writeRing b.base b.size b.tail (toBytes 32 (s.sampleRecord r quad.toNat).toNat) s.mem ∧
                t.sampleSinks = s.sampleSinks.set dd.toNat { b with tail := b.tail + 32 }) ∧
              (b.fits 32 = false → t.mem = s.mem ∧ t.sampleSinks = s.sampleSinks)))

/-! ## Faults, invalidation and migration -/

/-- The host's fault queue, its answers and invalidation. FQHEAD takes what is written, and a record that waits goes into the
queue with vector 2 while it has room. RESUME and REFUSE of a record of the context, which is no migration, take it out of the
buffer. On RESUME a split parked on the page runs, and a held access is translated anew: performed in its turn, held again, or
due to trap. On REFUSE a split whose own fetch or operation was parked traps FILL_REFUSED at its PC, naming the faulting address,
one of the splits saved in the frame after the handler's return; a core's held access
carries that cause and its trap falls due, and an engine's part counts as refused. Another answer has no effect. An invalidation
drops what is cached of the page's translation in every core and die, leaf or not, or all, and marks the accesses that a dropped
leaf can have let through, of which a held access is none (18 R280, R283, R286, R290, R292, R293; the answers stated where the context's only group, which is not killed, is in focus and no
capture is asked for). -/
def Obligations.HostFaults : Prop :=
  ∀ (s : State) (vf : BitVec 7) (die : BitVec 3) (slot : BitVec 12) (v : W64), (s.contexts.any fun c => c.vf == vf) = true →
    let c := s.ctx vf
    let n := if 4 ≤ c.fqSize.toNat && c.fqSize.toNat ≤ 12 then c.fqSize.toNat else 4
    let regs (t : State) : Prop := s.SameS t [] ∧ s.SameV t [] ∧ s.SameM t [] ∧ t.gang = s.gang ∧ t.bank = s.bank
    (∃ t, exec (.fqhead vf v) s = .next t ∧ (t.ctx vf).fqHead = v ∧ regs t ∧ t.grp = s.grp ∧ t.faults = s.faults ∧
      (c.forward = [] → t.mem = s.mem ∧ t.msix = s.msix) ∧
      ∀ (q : BitVec 3 × BitVec 12) (f : FaultRec), c.forward = [q] → s.faultAt q.1 q.2 = some f →
        ((c.fqTail - v).toNat = 2 ^ n → (t.ctx vf).forward = [q] ∧ t.mem = s.mem ∧ t.msix = s.msix) ∧
        ((c.fqTail - v).toNat ≠ 2 ^ n → (t.ctx vf).forward = [] ∧ (t.ctx vf).fqTail = c.fqTail + 1 ∧ t.msix = s.msix ++ [(vf, 2)] ∧
          t.mem = SMap.setRange s.mem ((c.fqBase + BitVec.ofNat 64 (32 * (c.fqTail.toNat % 2 ^ n))).setWidth 52).toNat
            (toBytes 32 f.bits.toNat))) ∧
    ((∀ f, s.faultAt die slot = some f → f.vf ≠ vf ∨ f.kind = 1) →
      exec (.frespResume vf die slot) s = .next s ∧ exec (.frespRefuse vf die slot) s = .next s) ∧
    (∀ f, s.faultAt die slot = some f → f.vf = vf → f.kind ≠ 1 → s.gang.present = true → s.gang.vf = vf → s.grp.killed = false → s.peers = [] →
      c.stopped = false → (∀ r, r ∈ s.others → r.gang.vf ≠ vf) →
      let held := s.grp.flight.filter fun e => e.pages.contains f.va
      let u : State := { s.dropRecord f with grp := s.grp.unpark f.va }
      (∃ t, exec (.frespResume vf die slot) s = .next t ∧
        (∀ (j : BitVec 2) (va : W64) (own : Bool), (s.grp.splits.get j).st = .parked va own → pageOf va = f.va →
          (t.grp.splits.get j).st = .running) ∧
        (held = [] → (t.ctx vf).forward = c.forward.filter (fun q => q != (f.die, f.slot)) ∧
          t.faults = s.faults.filter (fun x => !(x.die == f.die && x.slot == f.slot)) ∧ regs t ∧ t.mem = s.mem ∧
          t.grp.flight = s.grp.flight ∧ t.grp.due = s.grp.due) ∧
        ∀ (e x : Entry) (w : State), held = [e] → e.op.whole = false →
          (e.op.isEngine = true → ∃ y, y ∈ t.grp.flight ∧ y.id = e.id ∧ y.err = e.err ∧
            ∀ q, q ∈ y.pages ↔ q ∈ e.pages ∧ u.outstanding q = true) ∧
          (e.op.isEngine = false → u.loadEntry { e with held := none } = (x, w) →
            x ∈ t.grp.flight ∧ x.id = e.id ∧ t.mem = w.mem ∧ (x.err = 0 → t.grp.due = w.grp.due) ∧
            (x.err ≠ 0 → ∃ d : Due, d ∈ t.grp.due ∧ d.cause = x.err ∧ d.id = e.id ∧ d.queued = true))) ∧
      ∃ t, exec (.frespRefuse vf die slot) s = .next t ∧ regs t ∧ t.mem = s.mem ∧
        t.faults = s.faults.filter (fun x => !(x.die == f.die && x.slot == f.slot)) ∧
        (∀ (j : BitVec 2) (va : W64) (own : Bool), (s.grp.splits.get j).isFree = false → (s.grp.splits.get j).st = .parked va own →
          pageOf va = f.va → (t.grp.splits.get j).st = .running ∧
          (own = true → ∃ d : Due, d ∈ t.grp.due ∧ d.cause = cFILL_REFUSED ∧ d.tkind = 0 ∧ d.split = j ∧
            d.pc = (s.grp.splits.get j).pc ∧ d.va = va)) ∧
        (∀ (j : BitVec 2) (va : W64), s.grp.frame.active = true → (s.grp.frame.splits.get j).isFree = false →
          (s.grp.frame.splits.get j).st = .parked va true → pageOf va = f.va →
          ∃ d : Due, d ∈ t.grp.frame.later ∧ d.cause = cFILL_REFUSED ∧ d.tkind = 0 ∧ d.split = j ∧
            d.pc = (s.grp.frame.splits.get j).pc ∧ d.va = va) ∧
        ∀ e : Entry, held = [e] →
          (e.op.isEngine = true → ∃ y, y ∈ t.grp.flight ∧ y.id = e.id ∧ y.refused = f.va :: e.refused ∧
            y.pages = e.pages.filter (· != f.va)) ∧
          (e.op.isEngine = false → ∃ y, y ∈ t.grp.flight ∧ y.id = e.id ∧ y.err = cFILL_REFUSED ∧
            y.pages = e.pages.filter (· != f.va) ∧ ∃ d : Due, d ∈ t.grp.due ∧ d.cause = cFILL_REFUSED ∧ d.id = e.id ∧ d.queued = true)) ∧
    ∀ va : W64,
      let covers (t : TlbEntry) : Bool := t.vf == vf && (va >>> pageBits t.level.toNat) == (t.page >>> pageBits t.level.toNat)
      let marked (t : State) (p : Acc → Prop) : Prop := s.gang.vf = vf → ∀ e, e ∈ s.grp.flight → e.held = none →
        (∃ a, a ∈ e.openAccs ∧ a.place = .virt ∧ p a) → { e with stale := true } ∈ t.grp.flight
      let passes (t : TableEntry) : Bool := t.vf == vf && (va >>> tableBits t.level.toNat) == (t.va >>> tableBits t.level.toNat)
      (∃ t, exec (.invalPage vf va) s = .next t ∧ t.tlb = s.tlb.filter (fun x => !covers x) ∧
        t.dieTlb = s.dieTlb.filter (fun x => !covers x) ∧ t.tables = s.tables.filter (fun x => !passes x) ∧ regs t ∧ t.mem = s.mem ∧
        t.contexts = s.contexts ∧ t.grp.splits = s.grp.splits ∧ marked t fun a => a.addr >>> 30 = va >>> 30) ∧
      ∃ t, exec (.invalAll vf) s = .next t ∧ t.tlb = s.tlb.filter (fun x => x.vf != vf) ∧
        t.dieTlb = s.dieTlb.filter (fun x => x.vf != vf) ∧ t.tables = s.tables.filter (fun x => x.vf != vf) ∧ regs t ∧ t.mem = s.mem ∧
        t.contexts = s.contexts ∧ t.grp.splits = s.grp.splits ∧ marked t fun _ => True

/-- Migration on touch and retries without a record. The page of a migration's record moves into a free tier-1 frame of its size:
every byte of the frame is the page's, and of its copy where the page is mirrored, the leaf names the frame with MOT and TIER
clear and D set, its must-be-zero bits zero, and every other bit, the permissions and MIRROR among them, as it was,
nothing of the page's translation stays cached, the frame is no longer free and a tier-2 frame it leaves is, and
the record is gone; while an access that the old translation let through is open nothing moves. Where no frame is free the
record becomes KIND 2 and goes to the host where its queue has room. A record of another kind stays. An access held without a
record is translated anew: in flight again, or due to trap; with a record it stays (18 R284, R285, 19 R309; stated for a group that is
not killed, where no access is held on the page that moves, no line of the page is uncorrectable, and D is set or no dirty log is on;
the free frames are those of log 69). -/
def Obligations.MigrationAndRetry : Prop :=
  (∀ (s : State) (die : BitVec 3) (slot : BitVec 12) (frame : Option (BitVec 52)),
    ((∀ f, s.faultAt die slot = some f → f.kind ≠ 1) → exec (.migrateOnTouchService die slot frame) s = .next s) ∧
    ∀ f, s.faultAt die slot = some f → f.kind = 1 → s.gang.present = true → (s.contexts.any fun c => c.vf == f.vf) = true →
      let c := s.ctx f.vf
      let n := if 4 ≤ c.fqSize.toNat && c.fqSize.toNat ≤ 12 then c.fqSize.toNat else 4
      let regs (t : State) : Prop := s.SameS t [] ∧ s.SameV t [] ∧ s.SameM t [] ∧ t.gang = s.gang ∧ t.bank = s.bank
      ∀ (pa at_ : BitVec 52) (level : Nat) (pte : BitVec 128),
        walk s.mem s.uncorrectable f.va 4 c.root = .leaf level pte at_ → pteMOT pte = true →
        ((∃ x, x ∈ s.tier1Free ∧ x.1.toNat = level) → exec (.migrateOnTouchService die slot none) s = .next s) ∧
        ((∀ x, x ∈ s.tier1Free → x.1.toNat ≠ level) → ∃ t, exec (.migrateOnTouchService die slot none) s = .next t ∧ regs t ∧
          t.grp = s.grp ∧ (∃ x, x ∈ t.faults ∧ x.die = die ∧ x.slot = slot ∧ x.kind = 2 ∧ x.va = f.va) ∧
          (c.forward = [] → (c.fqTail - c.fqHead).toNat = 2 ^ n → (t.ctx f.vf).forward = [(die, slot)] ∧ t.msix = s.msix) ∧
          (c.forward = [] → (c.fqTail - c.fqHead).toNat ≠ 2 ^ n → (t.ctx f.vf).forward = [] ∧ t.msix = s.msix ++ [(f.vf, 2)] ∧
            (t.ctx f.vf).fqTail = c.fqTail + 1)) ∧
        ((BitVec.ofNat 3 level, pa) ∉ s.tier1Free ∨ s.letThrough (pteAddr pte) (2 ^ pageBits level) = true →
          exec (.migrateOnTouchService die slot (some pa)) s = .next s) ∧
        ((BitVec.ofNat 3 level, pa) ∈ s.tier1Free → s.letThrough (pteAddr pte) (2 ^ pageBits level) = false →
          regionOf pa = .tier1 → pa.toNat % 2 ^ pageBits level = 0 → s.memWf = true → pteD pte = true ∨ c.dlOn = false →
          (∀ r g e, r ∈ s.residents → g ∈ r.groups → e ∈ g.flight → f.va ∉ e.pages) →
          (∀ l, l ∈ s.uncorrectable → lineIn (pteAddr pte) (2 ^ pageBits level) l = false) →
          let size := 2 ^ pageBits level
          let inside (a : Nat) (base : BitVec 52) : Prop := base.toNat ≤ a ∧ a < base.toNat + size
          let inLeaf (a : Nat) : Prop := at_.toNat ≤ a ∧ a < at_.toNat + 16
          ∃ t, exec (.migrateOnTouchService die slot (some pa)) s = .next t ∧ regs t ∧
            t.faults = s.faults.filter (fun x => !(x.die == f.die && x.slot == f.slot)) ∧
            t.tier1Free = s.tier1Free.erase (BitVec.ofNat 3 level, pa) ∧
            (regionOf (pteAddr pte) = .tier2 → t.tier2Free = s.tier2Free ++ [(BitVec.ofNat 3 level, pteAddr pte)]) ∧
            (let e := BitVec.ofNat 128 (ofBytes (SMap.getRange t.mem at_.toNat 16))
             pteAddr e = pa ∧ pteMOT e = false ∧ pteTier e = false ∧ pteD e = true ∧
               (∀ i, i < 128 → i < 3 ∨ (68 ≤ i ∧ i < 72) ∨ i = 73 ∨ (76 ≤ i ∧ i < 90) → e.getLsbD i = pte.getLsbD i) ∧
               ∀ i, (3 ≤ i ∧ i < 9) ∨ (52 ≤ i ∧ i < 68) ∨ 90 ≤ i → e.getLsbD i = false) ∧
            (∀ a, ¬inside a pa → ¬(pteMirror pte = true ∧ inside a (mirrorOf pa)) → ¬inLeaf a →
              SMap.get t.mem a = SMap.get s.mem a) ∧
            (∀ i, i < size → ¬inLeaf (pa.toNat + i) →
              SMap.get t.mem (pa.toNat + i) = SMap.get s.mem ((pteAddr pte).toNat + i)) ∧
            (pteMirror pte = true → ∀ i, i < size → ¬inLeaf ((mirrorOf pa).toNat + i) →
              SMap.get t.mem ((mirrorOf pa).toNat + i) = SMap.get s.mem ((pteAddr pte).toNat + i)) ∧
            (∀ x, x ∈ t.tlb ++ t.dieTlb → ¬(x.vf = f.vf ∧ (f.va >>> pageBits x.level.toNat) = (x.page >>> pageBits x.level.toNat))) ∧
            ∀ x, x ∈ t.tables → ¬(x.vf = f.vf ∧ (f.va >>> tableBits x.level.toNat) = (x.va >>> tableBits x.level.toNat)))) ∧
  ∀ (s : State) (id : Nat) (e x : Entry) (page : W64) (w : State), s.gang.present = true → s.captured s.gang.vf = false →
    s.grp.killed = false →
    (s.ctx s.gang.vf).stopped = false → s.grp.entry id = some e → e.held = some page →
    (∀ y va own, y ∈ s.grp.allSplits → y.st ≠ .parked va own) →
    (s.outstanding page = true → e.op.isEngine = false → exec (.faultBufferRetry s.self id) s = .next s) ∧
    (e.op.isEngine = true → ∃ t y, exec (.faultBufferRetry s.self id) s = .next t ∧ y ∈ t.grp.flight ∧ y.id = id ∧ y.err = e.err ∧
      (∀ q, q ∈ y.pages ↔ q ∈ e.pages ∧ s.outstanding q = true) ∧ s.SameS t [] ∧ s.SameV t [] ∧ s.SameM t [] ∧ s.SameBytes t) ∧
    (s.outstanding page = false → e.op.isEngine = false → e.op.whole = false → s.loadEntry { e with held := none } = (x, w) →
      ∃ t, exec (.faultBufferRetry s.self id) s = .next t ∧ x ∈ t.grp.flight ∧ x.id = id ∧ s.SameS t [] ∧ s.SameV t [] ∧
        s.SameM t [] ∧ t.mem = w.mem ∧ (x.err = 0 → t.grp.due = w.grp.due) ∧
        (x.err ≠ 0 → ∃ d : Due, d ∈ t.grp.due ∧ d.cause = x.err ∧ d.id = id ∧ d.queued = true))

/-! ## The fabric and the host -/

/-- Accesses of other modules and of the host. A message that the export table does not let through is refused and has no other
effect; else a store's bytes are stored and acknowledged, a load's bytes answered, and an atomic's old bytes answered and its
result stored; a load of a line that cannot be corrected, in memory or in the bank, is refused, which is the model's reading (log 48),
not R263's list. A host access reaches tier 1 within one line only, by physical address or through a context's mapping, and
stores its bytes or answers those there; a line that cannot be corrected gives none (16 R257, R261 to R263; stated where the lines
were last written under the key of the access, or under none). -/
def Obligations.RemoteAccesses : Prop :=
  (∀ (s : State) (m : RemoteMsg),
    let n : Nat := match m.kind with | .load n => n | .store b => b.length | .atomic _ f _ _ => typeBits f / 8
    let w : Bool := match m.kind with | .load _ => false | _ => true
    (s.reach m.sender m.offset n w = none → exec (.remoteAccess m) s = .next (s.reply (.refused m.sender))) ∧
    ∀ r, s.reach m.sender m.offset n w = some r →
      let fits : Prop := ∀ pa k, r = .phys pa k → s.KeyFits (some k) pa.toNat n
      (∀ b, m.kind = .store b → fits → ∃ t, exec (.remoteAccess m) s = .next t ∧ t.behind r n = b ∧ s.OnlyBehind t r n ∧
        t.replies = s.replies ++ [.acknowledged m.sender]) ∧
      (m.kind = .load n → n ≤ 64 → s.uncorrectable = [] → s.badBank = [] → fits → exec (.remoteAccess m) s = .next (s.reply (.data m.sender (s.behind r n)))) ∧
      (m.kind = .load n → ∀ pa k, r = .phys pa k → s.uncorrectable.contains (lineOf (pa + BitVec.ofNat 52 (n - 1))) = true →
        ∃ t, exec (.remoteAccess m) s = .next t ∧ t.mem = s.mem ∧ t.bank = s.bank ∧
          t.replies = s.replies ++ [.uncorrectable (lineOf (pa + BitVec.ofNat 52 (n - 1))), .refused m.sender]) ∧
      (m.kind = .load n → ∀ a, r = .bank a → (∃ l, l ∈ s.badBank ∧ lineMeets l.toNat a.toNat n = true) →
        ∃ t l, exec (.remoteAccess m) s = .next t ∧ l ∈ s.badBank ∧ lineMeets l.toNat a.toNat n = true ∧ t.mem = s.mem ∧ t.bank = s.bank ∧
          t.replies = s.replies ++ [.uncorrectableBank l, .refused m.sender]) ∧
      ∀ fn f x y, m.kind = .atomic fn f x y → s.uncorrectable = [] → s.badBank = [] → fits →
        ∃ t, exec (.remoteAccess m) s = .next t ∧ s.OnlyBehind t r n ∧ t.replies = s.replies ++ [.data m.sender (s.behind r n)] ∧
          t.behind r n = toBytes n (atomStep fn f (ofBytes (s.behind r n)) (x.toNat % 2 ^ (8 * n)) (y.toNat % 2 ^ (8 * n)))) ∧
  ∀ (s u : State) (mapping : Option (BitVec 7)) (addr : W64) (data : Option (List Byte)) (n : Nat),
    let len := match data with | some b => b.length | none => n
    (mapping = none → addr.toNat < 2 ^ 52 → s.hostAddr mapping addr data.isSome = (some (addr.setWidth 52, { }), s)) ∧
    (s.hostAddr mapping addr data.isSome = (none, u) → exec (.hostCxlMemAccess mapping addr data n) s = .next u) ∧
    ∀ pa m, s.hostAddr mapping addr data.isSome = (some (pa, m), u) →
      (regionOf pa ≠ .tier1 ∨ 64 < pa.toNat % 64 + len → exec (.hostCxlMemAccess mapping addr data n) s = .next u) ∧
      (regionOf pa = .tier1 → pa.toNat % 64 + len ≤ 64 → u.KeyFits m.key pa.toNat len →
        (∀ b, data = some b → ∃ t, exec (.hostCxlMemAccess mapping addr data n) s = .next t ∧
          SMap.getRange t.mem pa.toNat len = b ∧ (m.mirror = true → SMap.getRange t.mem (mirrorOf pa).toNat len = b) ∧
          (m.mirror = false → u.OnlyBehind t (.phys pa 0) len) ∧ t = { u with mem := t.mem, lineKeys := t.lineKeys }) ∧
        (data = none → u.uncorrectable = [] →
          exec (.hostCxlMemAccess mapping addr data n) s = .next (u.reply (.host (u.behind (.phys pa 0) len)))) ∧
        (data = none → u.uncorrectable.contains (lineOf pa) = true → m.mirror = false →
          ∃ t, exec (.hostCxlMemAccess mapping addr data n) s = .next t ∧ t.mem = u.mem ∧
            t.replies = u.replies ++ [.uncorrectable (lineOf pa)]))

/-- Pushes and permits of other modules, devices that are down, and time. A push that is malformed, or whose control block or slots the
sender does not reach, or the module cannot read, is refused (malformed pushes and returns above what is held: log 48; unreadable
control blocks: log 77); one without room is answered 0; else its records are stored, TAIL advances by their number, HEAD and CLAIM
stay, and the answer is the number and the old TAIL. A remote pmt.get is answered 1 and taken from PAVAIL where there are so
many and the table has an entry, else 0; a return above what is held is refused, else it goes back. The permits of a context
that is reset, or of a device that is down, go back where their control block can be read, and their entries are free. A device is
down from its declaration on, which is a move apart from the return of its permits (log 49). TIME is corrected by one nanosecond
towards fabric time, never back, and at most one in 10,000 (15 R249, 16 R263 to R266; the rounding of the slew is log 50's). -/
def Obligations.RemoteQueues : Prop :=
  ∀ (s : State) (sender : BitVec 12),
    (∀ p : RemotePush,
      let tail := s.qTail p.ctl
      let n := p.records.length
      (pushOk p = false ∨ s.ctlReached sender p.ctl = false ∨ s.bankOwner p.ctl.toNat 32 = none →
        exec (.remoteQpush sender p) s = .next (s.reply (.refused sender))) ∧
      (pushOk p = true → s.ctlReached sender p.ctl = true → (s.bankOwner p.ctl.toNat 32).isSome = true → p.ctl.toNat + 32 ≤ 2 ^ 29 →
        (2 ^ p.capLog.toNat < s.qUsed p.ctl + n →
          exec (.remoteQpush sender p) s = .next (s.reply (.data sender (toBytes 8 0)))) ∧
        (s.qUsed p.ctl + n ≤ 2 ^ p.capLog.toNat →
          (slotReaches s sender p tail 0 p.records = none → exec (.remoteQpush sender p) s = .next (s.reply (.refused sender))) ∧
          ∀ l, slotReaches s sender p tail 0 p.records = some l →
            (∀ x, x ∈ l → match x.1 with
              | .bank a => a.toNat + p.recBytes ≤ p.ctl.toNat ∨ p.ctl.toNat + 32 ≤ a.toNat
              | .phys _ _ => True) →
            ∃ t, exec (.remoteQpush sender p) s = .next t ∧ t.qTail p.ctl = tail + BitVec.ofNat 32 n ∧
              t.qHead p.ctl = s.qHead p.ctl ∧ t.qClaim p.ctl = s.qClaim p.ctl ∧ t.gang = s.gang ∧ t.grp = s.grp ∧
              (∀ x, l = [x] → t.behind x.1 p.recBytes = x.2) ∧
              t.replies = s.replies ++ [.data sender (toBytes 8 ((BitVec.ofNat 32 n : W32) ++ tail).toNat)]))) ∧
    (∀ p : RemotePmt,
      let x : W32 := p.count.setWidth 32
      let held := s.remoteHeld sender p
      let here := s.ctlReached sender p.ctl = true ∧ (s.bankOwner p.ctl.toNat 32).isSome = true
      let answer (b : Nat) : Out := .next (s.reply (.data sender (toBytes 8 b)))
      (¬here → exec (.remotePermit sender p) s = .next (s.reply (.refused sender))) ∧
      (here → p.get = true →
        (x = 0 → exec (.remotePermit sender p) s = answer 1) ∧
        (x ≠ 0 → (s.qAvail p.ctl).toNat < x.toNat → exec (.remotePermit sender p) s = answer 0) ∧
        (x ≠ 0 → held = 0 → 256 ≤ s.remoteHolders.length → exec (.remotePermit sender p) s = answer 0) ∧
        (x ≠ 0 → x.toNat ≤ (s.qAvail p.ctl).toNat → held ≠ 0 ∨ s.remoteHolders.length < 256 →
          ∃ t, exec (.remotePermit sender p) s = .next t ∧ t.qAvail p.ctl = s.qAvail p.ctl - x ∧
            t.remoteHeld sender p = held + x ∧ t.mem = s.mem ∧ t.grp = s.grp ∧
            t.replies = s.replies ++ [.data sender (toBytes 8 1)])) ∧
      (here → p.get = false →
        (held.toNat < x.toNat → exec (.remotePermit sender p) s = .next (s.reply (.refused sender))) ∧
        (x.toNat ≤ held.toNat → ∃ t, exec (.remotePermit sender p) s = .next t ∧ t.qAvail p.ctl = s.qAvail p.ctl + x ∧
          t.remoteHeld sender p = held - x ∧ t.mem = s.mem ∧ t.grp = s.grp ∧ t.replies = s.replies ++ [.acknowledged sender]))) ∧
    (∀ context : Option (BitVec 7),
      let mine (h : RemoteHolder) : Bool := h.device == sender && match context with | some c => h.context == c | none => true
      (context = none → s.down.contains sender = false → exec (.remotePermitReturn sender context) s = .next s) ∧
      (context ≠ none ∨ s.down.contains sender = true → ∃ t, exec (.remotePermitReturn sender context) s = .next t ∧
        t.remoteHolders = s.remoteHolders.filter (fun h => !mine h) ∧ t.mem = s.mem ∧ t.grp = s.grp ∧
        (context ≠ none → t.replies = s.replies ++ [.acknowledged sender]) ∧
        (s.remoteHolders.filter mine = [] → t.bank = s.bank) ∧
        ∀ h, s.remoteHolders.filter mine = [h] → (s.bankOwner h.ctl.toNat 32).isSome = true → s.badCtl h.ctl = false →
          t.qAvail h.ctl = s.qAvail h.ctl + h.count)) ∧
    (s.down.contains sender = false → sender ≠ s.device →
      exec (.fabricDown sender) s =
        .next { s with down := sender :: s.down, contexts := s.contexts.map fun c => c.acknowledged sender }) ∧
    (s.down.contains sender = true ∨ sender = s.device → exec (.fabricDown sender) s = .next s) ∧
    ∀ x : W64,
      (s.time.toNat < x.toNat → s.slewedAt.toNat + 10000 ≤ s.time.toNat → ∃ t, exec (.timeAlignment x) s = .next t ∧
        t.time = s.time + 1 ∧ t.slewedAt = s.time ∧ t.cycles = s.cycles ∧ s.SameS t [] ∧ s.SameV t [] ∧ s.SameM t [] ∧ s.SameBytes t) ∧
      (x.toNat ≤ s.time.toNat ∨ s.time.toNat < s.slewedAt.toNat + 10000 → exec (.timeAlignment x) s = .next s)

/-! ## Registers of the host, contexts and captures -/

/-- The registers of a context. LQTAIL takes an index no more than the slots of the queue above LQHEAD, and is else unchanged.
LQBASE, LQSIZE, PTROOT, RTBASE and LWIMG take what is written while no launch is uncompleted, and else keep their value; the
other registers always do, 32 bits of DLHEAD, 6 of SMCTL, and half an export entry for each of its two. CBIMG 0 makes the
codebook image zero, another value reads its 768 bytes; both only with no launch uncompleted. CTXCTL with RESET ends every
launch, leaves no gang, no fault record, no log, no armed predicate and nothing cached of the context, and sets RESETDONE, at once
where no other module has a return of permits to acknowledge; without, it sets CIRQ. None of
these but a reset touches a register or memory (14 R233, 16 R258, R262, R265, 18 R292, 19 R301, R309, 22 R340, R345, R347, R351; what
an unreadable image does is log 8, that a reset keeps keys and regions log 38, that a register holds all that was written log 54, and
that SMCTL starts its count and rotation anew log 52: the model's readings). -/
def Obligations.HostRegisters : Prop :=
  ∀ (s : State) (vf : BitVec 7) (v : W64) (die : BitVec 3) (i : BitVec 8), (s.contexts.any fun c => c.vf == vf) = true →
    let c := s.ctx vf
    let only (o : Out) (k : Context) : Prop := ∃ t, o = .next t ∧ t.ctx vf = k ∧ t = { s with contexts := t.contexts }
    let idle (o : Out) (k : Context) : Prop := only o (if c.launches = [] then k else c)
    let sink (o : Out) (k : Sink) : Prop := o = .next { s with sinks := s.sinks.set die.toNat k }
    let buffer (o : Out) (k : Sink) : Prop := o = .next { s with sampleSinks := s.sampleSinks.set die.toNat k }
    let w (r : RegName) : Out := exec (.registerWrite r v) s
    let a := sinkAt s.sinks die
    let b := sinkAt s.sampleSinks die
    (∀ x : W32, only (exec (.lqtail vf x) s) (if (x - c.lqHead).toNat ≤ c.lqSlots then { c with lqTail := x } else c)) ∧
    idle (w (.lqBase vf)) { c with lqBase := v } ∧ idle (w (.lqSize vf)) { c with lqSize := v } ∧
    idle (w (.ptRoot vf)) { c with ptRoot := v } ∧ idle (w (.rtBase vf)) { c with rtBase := v } ∧
    idle (w (.lwImg vf)) { c with lwImg := v } ∧ only (w (.fqBase vf)) { c with fqBase := v } ∧
    (c.forward = [] → only (w (.fqSize vf)) { c with fqSize := v }) ∧ only (w (.csBase vf)) { c with csBase := v } ∧
    only (w (.dlBase vf)) { c with dlBase := v } ∧ only (w (.dlSize vf)) { c with dlSize := v } ∧
    only (w (.dlHead vf)) { c with dlHead := v.setWidth 32 } ∧ only (w (.dbgMask vf)) { c with dbgMask := v } ∧
    only (w (.dmt0 vf)) { c with dmt0 := v } ∧ only (w (.dmt1 vf)) { c with dmt1 := v } ∧
    only (w (.dmData vf)) { c with dmData := v } ∧
    sink (w (.trBase die)) { a with base := v } ∧ sink (w (.trSize die)) { a with size := v } ∧ sink (w (.trHead die)) { a with head := v } ∧
    buffer (w (.smBase die)) { b with base := v } ∧ buffer (w (.smSize die)) { b with size := v } ∧
    buffer (w (.smHead die)) { b with head := v } ∧
    w (.smCtl die) = .next { s with
      samplers := s.samplers.set die.toNat { ctl := v.setWidth 6, start := s.cycles, taken := [], next := [] } } ∧
    (∃ t, w (.exportLo i) = .next t ∧ t = { s with exports := t.exports } ∧ field (t.exports.get i.toNat) 0 64 = v ∧
      field (t.exports.get i.toNat) 64 64 = (field (s.exports.get i.toNat) 64 64 : W64) ∧
      ∀ j, j ≠ i.toNat → t.exports.get j = s.exports.get j) ∧
    (∃ t, w (.exportHi i) = .next t ∧ t = { s with exports := t.exports } ∧ field (t.exports.get i.toNat) 64 64 = v ∧
      field (t.exports.get i.toNat) 0 64 = (field (s.exports.get i.toNat) 0 64 : W64) ∧
      ∀ j, j ≠ i.toNat → t.exports.get j = s.exports.get j) ∧
    w (.ctxCtl vf) = exec (.ctxctlReset vf v) s ∧
    (v.getLsbD 0 = false → only (exec (.ctxctlReset vf v) s) { c with cirq := v.getLsbD 1 }) ∧
    (v.getLsbD 0 = true → ∃ t, exec (.ctxctlReset vf v) s = .next t ∧
      (let k := t.ctx vf
       k.launches = [] ∧ k.resetDone = k.returns.isEmpty ∧ k.resetting = !k.returns.isEmpty ∧ k.watch = [] ∧ k.wlog = [] ∧ k.elog = [] ∧ k.ctxErr = 0 ∧ k.lqHead = 0 ∧
       k.lqTail = 0 ∧ k.nextSeq = 1 ∧ k.csStat = 0 ∧ k.stopped = false ∧ k.cirq = v.getLsbD 1 ∧ k.keys = c.keys ∧
       k.regions = c.regions) ∧
      (∀ f, f ∈ t.faults → f.vf ≠ vf) ∧ (∀ e, e ∈ t.evicted → e.image.gang.vf ≠ vf) ∧
      (∀ x, x ∈ t.bands → x.vf ≠ vf) ∧ (∀ x, x ∈ t.tlb ++ t.dieTlb → x.vf ≠ vf) ∧ (∀ x, x ∈ t.tables → x.vf ≠ vf) ∧
      (∀ x, x ∈ t.recCache → x.vf ≠ vf) ∧ (c.launches = [] → t.mem = s.mem) ∧
      (s.gang.present = true → s.gang.vf = vf → (∀ r, r ∈ s.others → r.gang.vf ≠ vf) → (∀ e, e ∈ s.evicted → e.image.gang.vf ≠ vf) →
        t.gang.present = false ∧ t.others = s.others)) ∧
    (c.launches ≠ [] → exec (.cbimg vf v) s = .next s) ∧
    (c.launches = [] →
      (v = 0 → only (exec (.cbimg vf v) s) { c with cbImg := 0, codebook := [] }) ∧
      (v ≠ 0 → ∀ (l : Option (List (List Byte))) (u : State),
        (s.updCtx vf fun c => { c with cbImg := v }).readChunks vf 16 (v &&& ~~~15) 48 = (l, u) →
        ∃ t, exec (.cbimg vf v) s = .next t ∧ t.mem = u.mem ∧ s.SameS t [] ∧ s.SameV t [] ∧ s.SameM t [] ∧
          (t.ctx vf).codebook = (match l with | some l => SMap.setRange [] 0 l.flatten | none => (u.ctx vf).codebook)))

/-- Capture, resume, discard, restore and dirty-page logging. CAPTURE from IDLE or RESTORED stops the context and is BUSY, or
NOSPACE where the save area is not mapped; once every group stands still the bytes of its image are written to the save area, CSSTAT is
CAPTURED, and of what is in flight only copies, gathers and landed loads under evaluation stay, the rest queued for replay, tile
operations too; where a byte cannot be written it is NOSPACE. RESUME of a captured context is IDLE and runs it on, the replay queue
injected again; DISCARD resets it; of another context
neither has an effect. RESTORE into a context without launch refuses where the bytes at CSBASE are those of no image as written,
wherever they were copied, a key not granted and gangs that fit nowhere, with nothing loaded; else the context holds what the image
held, nothing of it
is cached, and each gang has its registers and memory on the core it is sent to; a core that it does not fit is none it is sent to. LOGON starts the dirty log
anew, LOGOFF stops it, both not while BUSY (19 R301, R303 to R306, R309; the model's readings: the bytes that an image is written as and
that it is found by, log 21; the capture in two phases, with landed loads under evaluation left in flight, log 20; LQTAIL and LQHEAD
restored from the image, log 44). -/
def Obligations.CaptureAndRestore : Prop :=
  ∀ (s : State) (vf : BitVec 7), (s.contexts.any fun c => c.vf == vf) = true →
    let c := s.ctx vf
    let only (o : Out) (k : Context) : Prop := ∃ t, o = .next t ∧ t.ctx vf = k ∧ t = { s with contexts := t.contexts }
    let regs (t : State) : Prop := s.SameS t [] ∧ s.SameV t [] ∧ s.SameM t [] ∧ s.SameBytes t
    (c.csStat = 0 ∨ c.csStat = 3 →
      (s.saveMapped vf c.saveSize = false → only (exec (.capture vf) s) { c with csStat := 8 }) ∧
      (s.saveMapped vf c.saveSize = true → ∃ t, exec (.capture vf) s = .next t ∧ t.ctx vf = { c with csStat := 1, stopped := true } ∧
        regs t ∧ t.grp = { s.grp with inActive := t.grp.inActive } ∧ (s.gang.vf = vf → t.grp.inActive = false))) ∧
    (c.csStat = 1 →
      let area := (List.range c.saveSize).map (Config.imageByte s.free)
      let put := ({ s with free := s.free + 1 } : State).writeVirt vf none c.csBase area
      (s.still vf = false → exec (.capture vf) s = .next s) ∧
      (s.still vf = true → s.saveMapped vf c.saveSize = false ∨ put = none →
        ∃ t, exec (.capture vf) s = .next t ∧ t.ctx vf = { c with csStat := 8, stopped := false } ∧
          t = { s with free := t.free, contexts := t.contexts }) ∧
      ∀ w, s.still vf = true → s.saveMapped vf c.saveSize = true → put = some w →
        ∃ t img, exec (.capture vf) s = .next t ∧ t.ctx vf = { w.ctx vf with csStat := 2, stoppedAt := w.time } ∧
          s.SameS t [] ∧ s.SameV t [] ∧ s.SameM t [] ∧ t.mem = w.mem ∧ t.bank = w.bank ∧ t.gang = w.gang ∧
          t.images = img :: w.images ∧ img.area = area ∧ img.at_ = w.time ∧ img.ctx = t.ctx vf ∧
          (∀ r, r ∈ t.residents → r.gang.vf = vf → r ∈ img.gangs) ∧ (∀ r, r ∈ img.gangs → r ∈ t.residents ∧ r.gang.vf = vf) ∧
          (s.gang.vf = vf → ∀ e, e ∈ t.grp.flight → e.op.isTile = false ∧ (e.op.isEngine = true ∨ e.landedLoad = true)) ∧
          (s.gang.vf = vf → ∀ e, e ∈ s.grp.flight → e ∈ t.grp.flight ∨ e ∈ t.grp.rq ∨ e ∈ t.grp.behind)) ∧
    (c.csStat ≠ 0 → c.csStat ≠ 1 → c.csStat ≠ 3 → exec (.capture vf) s = .next s) ∧
    (s.captured vf = false → exec (.resume vf) s = .next s ∧ exec (.discard vf) s = .next s) ∧
    (s.captured vf = true → s.gang.present = true →
      (∃ t, exec (.discard vf) s = .next t ∧ (t.ctx vf).launches = [] ∧ (t.ctx vf).csStat = 0 ∧
        (t.ctx vf).resetDone = (t.ctx vf).returns.isEmpty ∧
        (c.launches = [] → t.mem = s.mem)) ∧
      ((∀ r g, r ∈ s.residents → g ∈ r.groups → g.rq = [] ∧ g.behind = []) → ∃ t, exec (.resume vf) s = .next t ∧
        t.ctx vf = { c with csStat := 0, stopped := false } ∧ regs t ∧ t.grp.flight = s.grp.flight ∧ t.grp.due = s.grp.due) ∧
      (s.gang.vf = vf → s.peers = [] → (∀ r, r ∈ s.others → r.gang.vf ≠ vf) →
        ∀ e : Entry, s.grp.rq = [e] → s.grp.behind = [] → e.err = 0 → e.op.whole = false → decode e.word ≠ none →
          ∃ t, exec (.resume vf) s = .next t ∧ t.grp.rq = [] ∧ (∃ x, x ∈ t.grp.flight ∧ x.id = e.id ∧ x.op = e.op) ∧
            (t.ctx vf).csStat = 0 ∧ (t.ctx vf).stopped = false)) ∧
    (∀ places, c.launches ≠ [] ∨ c.csStat = 1 → exec (.restore vf places) s = .next s) ∧
    (c.launches = [] → c.csStat ≠ 1 → ∀ places,
      let stands (x : ContextImage) : Prop := (s.readVirt vf none c.csBase x.area.length).1 = some x.area
      ((∀ x, x ∈ s.images → ¬stands x) → only (exec (.restore vf places) s) { c with csStat := 10 }) ∧
      ∀ img, img ∈ s.images → stands img → (∀ x, x ∈ s.images → stands x → x = img) →
        (((tableKeys s.mem 4 c.root).all c.keys.contains) = false → only (exec (.restore vf places) s) { c with csStat := 11 }) ∧
        (((tableKeys s.mem 4 c.root).all c.keys.contains) = true →
          let u := s.updCtx vf fun k => k.restored img.ctx
          ((∃ r, r ∈ img.ctx.regions ∧ s.bankFree r.1.toNat r.2.toNat = false) ∨ u.canPlace vf img [] img.gangs = false →
            only (exec (.restore vf places) s) { c with csStat := 9 }) ∧
          (img.bands = [] → img.gangs = [] → img.evicted = [] → img.ctx.regions = [] → img.bank = [] → s.gang.vf ≠ vf →
            (∀ q, q ∈ s.others → q.gang.vf ≠ vf) →
            ∃ t, exec (.restore vf places) s = .next t ∧ t.ctx vf = c.restored img.ctx ∧
              t = { s with
                contexts := t.contexts, tlb := s.tlb.filter fun x => x.vf != vf, dieTlb := s.dieTlb.filter fun x => x.vf != vf
                tables := s.tables.filter fun x => x.vf != vf, recCache := s.recCache.filter fun x => x.vf != vf }) ∧
          ∀ (r : Resident) (die : BitVec 3) (core : BitVec 7), img.bands = [] → img.gangs = [r] → img.evicted = [] →
            img.ctx.regions = [] → img.bank = [] → places = [{ seq := r.gang.seq, gang := r.gang.idx, die := die, core := core }] →
            s.gang.vf ≠ vf → (∀ q, q ∈ s.others → q.gang.vf ≠ vf) → (∀ g, g ∈ r.groups → g.rq = [] ∧ g.behind = []) → r.groups ≠ [] →
            (r.groups.map (·.idx)).Nodup → r.gang.present = true → s.gang.present = true → u.canPlace vf img [] img.gangs = true →
            let whole := ∀ x, x ∈ s.service.repaired → x.1 ≠ (die, core)
            let fits := u.fits { vf := vf, lrec := r.gang.lrec, segs := r.gang.pool.toNat } die core
            (fits = false ∨ ¬whole → exec (.restore vf places) s = .next s) ∧
            (fits = true → whole →
              ∃ t q, exec (.restore vf places) s = .next t ∧ t.ctx vf = c.restored img.ctx ∧ q ∈ t.others ∧ q.gang.vf = vf ∧
                q.gang.seq = r.gang.seq ∧ q.gang.idx = r.gang.idx ∧ q.gang.die = die ∧ q.gang.core = core ∧
                q.gang.gmem = r.gang.gmem ∧ q.gang.tvec = r.gang.tvec ∧ q.groups.length = r.groups.length ∧ regs t ∧
                (∀ x, x ∈ t.tlb ++ t.dieTlb → x.vf ≠ vf) ∧
                ∀ x, x ∈ r.groups → ∃ y, y ∈ q.groups ∧ y.idx = x.idx ∧ y.v = x.v ∧ y.s = x.s ∧ y.m = x.m ∧ y.live = x.live))) ∧
    (c.csStat ≠ 1 → only (exec (.logon vf) s) { c with dlTail := 0, dlHead := 0, dlOvf := false, dlOn := true } ∧
      only (exec (.logoff vf) s) { c with dlOn := false }) ∧
    (c.csStat = 1 → only (exec (.logon vf) s) c ∧ only (exec (.logoff vf) s) c)

/-! ## The service of the module -/

/-- Contexts destroyed, bank regions, cores that fail, and soft errors. A destroyed context has the registers of a new one and
no launch, gang or region, its regions' bytes are zero, and of it only what other modules have to acknowledge is left; a reserved
region is zeroed, the context's and counted in CSSIZE, where its bytes are free, and else nothing happens. A failing core's gangs
stop, and once they stand still they go on on a spare of its die, their registers and memory as they were and what the core
cached gone; where the die holds no spare, they leave with their images to be woken. An instruction executed again after a soft error
changes nothing; an error of the same operation again, while it is unretired, is a hard failure of its core (13 R228, 15 R255, 19 R302,
R310, 23 R362; stated for a gang without band and with nothing in flight; that a destroyed context gets the registers of a new one and
gives up its keys and regions is log 38). -/
def Obligations.Repairs : Prop :=
  (∀ (s : State) (vf : BitVec 7) (base : BitVec 29) (bytes : BitVec 27), (s.contexts.any fun c => c.vf == vf) = true →
    let c := s.ctx vf
    (∃ t, exec (.contextDestruction vf) s = .next t ∧
      (let k := t.ctx vf
       k = { Context.reset vf with returns := k.returns, resetting := !k.returns.isEmpty }) ∧
      (∀ r a, r ∈ c.regions → r.1.toNat ≤ a → a < r.1.toNat + r.2.toNat → SMap.get t.bank a = 0) ∧
      (∀ f, f ∈ t.faults → f.vf ≠ vf) ∧ (∀ e, e ∈ t.evicted → e.image.gang.vf ≠ vf) ∧ (∀ x, x ∈ t.bands → x.vf ≠ vf) ∧
      (c.launches = [] → t.mem = s.mem) ∧
      (s.gang.present = true → s.gang.vf = vf → (∀ r, r ∈ s.others → r.gang.vf ≠ vf) → (∀ e, e ∈ s.evicted → e.image.gang.vf ≠ vf) →
        t.gang.present = false ∧ t.others = s.others)) ∧
    (bytes = 0 ∨ s.bankFree base.toNat bytes.toNat = false → exec (.bankRegionReservation vf base bytes) s = .next s) ∧
    (bytes ≠ 0 → s.bankFree base.toNat bytes.toNat = true → ∃ t, exec (.bankRegionReservation vf base bytes) s = .next t ∧
      (t.ctx vf).regions = c.regions ++ [(base, bytes)] ∧ (t.ctx vf).csSize = c.saveSize + bytes.toNat ∧
      t = { s with bank := t.bank, contexts := t.contexts } ∧
      ∀ a, SMap.get t.bank a = if base.toNat ≤ a ∧ a < base.toNat + bytes.toNat then 0 else SMap.get s.bank a)) ∧
  ∀ (s : State) (die : BitVec 3) (core : BitVec 7) (g : GroupRef) (id : Nat),
    let v := s.service
    let spares := (v.spares.filter fun x => x.1 == die).length
    let failing := if v.failing.contains (die, core) = true then v.failing else (die, core) :: v.failing
    let here := s.gangsOn die core
    let ready := ({ s with service := { v with failing := failing } } : State).gangsStill here
    let done (o : Out) (w : Service) (p : State → Prop) : Prop := ∃ t, o = .next t ∧ t.service = w ∧
      t.tlb = s.tlb.filter (fun x => !(x.die == die && x.core == core)) ∧
      t.recCache = s.recCache.filter (fun x => !(x.die == die && x.core == core)) ∧ t.mem = s.mem ∧ t.bank = s.bank ∧
      t.contexts = s.contexts ∧ p t
    let onSpare : Service := { v with failing := v.failing.filter (· != (die, core)), spares := v.spares ++ [(die, core)] }
    let without : Service := { v with failing := v.failing.filter (· != (die, core)), failed := v.failed ++ [(die, core)] }
    (s.unretired (g, id) = false → exec (.softErrorReexecution g id) s = .next s) ∧
    (∀ t, s.focus g = some t → s.unretired (g, id) = true →
      let hurt : BitVec 3 × BitVec 7 := (t.gang.die, t.gang.core)
      (v.softErrors.contains (g, id) = false →
        exec (.softErrorReexecution g id) s =
          .next { s with service := { v with softErrors := (g, id) :: v.softErrors.filter s.unretired } }) ∧
      (v.softErrors.contains (g, id) = true → v.failing.contains hurt = false →
        exec (.softErrorReexecution g id) s = .next { s with service := { v with failing := hurt :: v.failing } }) ∧
      (v.softErrors.contains (g, id) = true → v.failing.contains hurt = true → exec (.softErrorReexecution g id) s = .next s)) ∧
    (coreCount ≤ core.toNat ∨ v.failed.contains (die, core) = true → exec (.coreRetirement die core) s = .next s) ∧
    (core.toNat < coreCount → v.failed.contains (die, core) = false → s.bands = [] →
      (ready = false → exec (.coreRetirement die core) s = .next { s with service := { v with failing := failing } }) ∧
      (here = [] → done (exec (.coreRetirement die core) s) (if spares < 4 then onSpare else without) fun t =>
        t.gang = s.gang ∧ t.grp = s.grp ∧ t.peers = s.peers ∧ t.others = s.others) ∧
      (ready = true → s.gang.present = true → s.gang.die = die → s.gang.core = core →
        (∀ r, r ∈ s.others → r.gang.die ≠ die ∨ r.gang.core ≠ core) →
        (∀ x, x ∈ s.grp :: s.peers → x.flight = [] ∧ x.behind = [] ∧ x.rq.length ≤ 16) →
        (spares < 4 → (∀ x, x ∈ s.grp :: s.peers → x.rq = []) → done (exec (.coreRetirement die core) s) onSpare fun t =>
          t.gang = { s.gang with window := t.gang.window } ∧ t.grp = { s.grp with syncDue := t.grp.syncDue } ∧
          t.others = s.others ∧ t.evicted = s.evicted) ∧
        (4 ≤ spares → done (exec (.coreRetirement die core) s) without fun t =>
          t.gang.present = false ∧ t.others = s.others ∧ t.evicted = s.evicted ++ [{
            image := { gang := s.gang, groups := (s.grp :: s.peers).map fun x =>
              { x with inActive := false, syncDue := x.syncDue || x.tracectl.getLsbD 0 } }
            woken := true, order := s.order, since := s.time, always := true }])))

/-- Power, resets and the freeze. Power-on clears everything but the firmware in flash and starts TIME at fabric time; PERST# and
the RESET command leave no gang, every context at its reset values with no key granted, the export table clear, nothing of
trace and sampling, and TIME, the device number, the firmware and repairs as they were, host memory too; under-voltage powers
off, and a thermal trip freezes with cause 0 and powers off at the next move. The pin and the FREEZE command freeze a running
module with their causes, its state as it stands, and the read-out answers the cause and the frozen state, and changes nothing. CYCLE counts
from 0 again on every core (04 R53, 16 R261, 22 R354, 23 R356 to R359; tier memory after a reset is free; cause 0 and the power-off as the next move of a thermal
trip are log 53, the bank, sinks and key store cleared by a reset log 47: the model's readings).
Management. Throttles change clocks alone; the power cap takes 1,500 to 4,800 W and refuses the rest; a sensor answers a value
that is free; a firmware image that is verified is held inactive, another leaves none, and activation exchanges the images and
the command processor, while nothing in flight changes; the device number is set; SPDM answers certificates, or the boot ROM, the
firmware, the export table and every key grant; a key is installed and granted only through a session; remaps, retraining and
lanes are noted and nothing else changes, but that an LPDDR 6 channel is noted only once no page is in it; there are 96 such
channels and twelve ports (00 R4, R5, 16 R261, R270, R271, 23 R357, R360, R361, R364; that an unverified image leaves none inactive, and
that a session replaces a key, is log 53). -/
def Obligations.PowerAndManagement : Prop :=
  (∀ (s : State) (x : W64),
     (s.power = .off → exec (.powerOn x) s = .next { State.reset with
       time := x, slewedAt := x, firmware := s.firmware, inactive := s.inactive, agenda := s.agenda, tick := s.tick, free := s.free
       order := s.order }) ∧
     (s.power ≠ .off → exec (.powerOn x) s = .next s) ∧
     (s.power = .off → exec .perst s = .next s ∧ exec .moduleReset s = .next s) ∧
     (s.power ≠ .off → ∃ t, exec .perst s = .next t ∧ exec .moduleReset s = .next t ∧ t.power = .on ∧ t.gang.present = false ∧
       t.others = [] ∧ t.evicted = [] ∧ t.bands = [] ∧ t.contexts = State.reset.contexts ∧ t.exports = [] ∧ t.faults = [] ∧
       t.tlb = [] ∧ t.dieTlb = [] ∧ t.tables = [] ∧ t.recCache = [] ∧ t.bank = [] ∧ t.time = s.time ∧ t.device = s.device ∧ t.firmware = s.firmware ∧ t.inactive = s.inactive ∧
       t.cycles = s.cycles ∧ t.lost = [] ∧ (∀ i, i < 1024 → SMap.get t.coreStart i = s.cycles) ∧
       t.sinks = State.reset.sinks ∧ t.samplers = State.reset.samplers ∧ t.watchCounts = [] ∧
       t.service.rowRemaps = s.service.rowRemaps ∧ t.service.channels = s.service.channels ∧ t.service.keyStore = [] ∧
       (∀ a : BitVec 52, regionOf a = .host → s.memWf = true → SMap.get t.mem a.toNat = SMap.get s.mem a.toNat)) ∧
     exec .undervoltagePowerOff s = .next { s with power := .off } ∧
     (s.power = .off → exec .thermalTrip s = .next s) ∧
     (s.power ≠ .off → ∃ t, exec .thermalTrip s = .next t ∧ (s.power = .on → t.power = .frozen 0) ∧ (s.power ≠ .on → t.power = s.power) ∧
       t.nextMove.1 = .event .undervoltagePowerOff ∧ t = { s with power := t.power, agenda := t.agenda }) ∧
     (s.power = .on → exec .obsfrzN s = .next { s with power := .frozen 1 } ∧ exec .freeze s = .next { s with power := .frozen 2 }) ∧
     (s.power ≠ .on → exec .obsfrzN s = .next s ∧ exec .freeze s = .next s) ∧
     (∀ c, s.power = .frozen c → exec .freezeReadout s = .next { s with replies := s.replies ++ [.frozen c s.readOut] }) ∧
     ((∀ c, s.power ≠ .frozen c) → exec .freezeReadout s = .next s)) ∧
  (∀ (s : State) (die : BitVec 3) (watts : BitVec 16) (sensor : BitVec 8) (image : W64) (n : BitVec 12) (vf : BitVec 7)
     (index : BitVec 13) (key : BitVec 512) (stack port : BitVec 4) (row spare : BitVec 32) (hbm retire : Bool)
     (channel : BitVec 16) (lane : BitVec 3),
     let answered (o : Out) (r : Reply) : Prop := o = .next { s with replies := s.replies ++ [r] }
     let serviced (o : Out) (p : Service → Prop) : Prop := ∃ t, o = .next t ∧ t = { s with service := t.service } ∧ p t.service
     let v := s.service
     serviced (exec (.thermalThrottle die) s) (fun w => w = { v with slowDies := w.slowDies } ∧
       ∀ i, i < 8 → w.slowDies.getLsbD i = (v.slowDies.getLsbD i || i == die.toNat)) ∧
     serviced (exec .powerCapThrottle s) (fun w => w = { v with clockSteps := w.clockSteps } ∧
       w.clockSteps.toNat = min 255 (v.clockSteps.toNat + 1)) ∧
     (1500 ≤ watts.toNat → watts.toNat ≤ 4800 → serviced (exec (.powerCapSet watts) s) fun w => w = { v with powerCap := watts }) ∧
     (watts.toNat < 1500 ∨ 4800 < watts.toNat → exec (.powerCapSet watts) s = .next s) ∧
     (∃ x, exec (.sensorRead sensor) s = .next { s with free := s.free + 1, replies := s.replies ++ [.sensor x] }) ∧
     exec (.firmwareUpdate image true) s = .next { s with inactive := some image, replies := s.replies ++ [.image true] } ∧
     exec (.firmwareUpdate image false) s = .next { s with inactive := none, replies := s.replies ++ [.image false] } ∧
     (∀ i, s.inactive = some i → exec .firmwareActivation s =
       .next { s with firmware := i, inactive := some s.firmware, onHd1 := !s.onHd1 }) ∧
     (s.inactive = none → exec .firmwareActivation s = .next s) ∧
     exec (.deviceNumberSet n) s = .next { s with device := n } ∧
     answered (exec (.spdmRequest false) s) .certificates ∧
     answered (exec (.spdmRequest true) s) (.measurements Config.bootRom s.firmware s.exports (s.contexts.map fun c => (c.vf, c.keys))) ∧
     answered (exec (.keyInstall vf index key false) s) (.keyInstalled false) ∧
     (∃ t, exec (.keyInstall vf index key true) s = .next t ∧ (index, key) ∈ t.service.keyStore ∧
       (∀ x, x ∈ v.keyStore → x.1 ≠ index → x ∈ t.service.keyStore) ∧ (∀ x, x ∈ t.service.keyStore → x.1 = index → x.2 = key) ∧
       ((s.contexts.any fun c => c.vf == vf) = true → index ∈ (t.ctx vf).keys ∧ ∀ i, i ∈ (s.ctx vf).keys → i ∈ (t.ctx vf).keys) ∧
       (∀ u, u ≠ vf → t.ctx u = s.ctx u) ∧ t.replies = s.replies ++ [.keyInstalled true] ∧ t.grp = s.grp ∧ t.mem = s.mem) ∧
     serviced (exec (.hbmRowRemap stack row spare) s) (fun w => w = { v with rowRemaps := (stack, row, spare) :: v.rowRemaps }) ∧
     (let noted (w : Service) : Prop := w = { v with channels := (hbm, channel, retire) :: v.channels }
      (hbm = true → serviced (exec (.channelRetrain hbm channel retire) s) noted) ∧
      (hbm = false → 96 ≤ channel.toNat → exec (.channelRetrain hbm channel retire) s = .next s) ∧
      (hbm = false → channel.toNat < 96 → s.channelPages channel = [] → serviced (exec (.channelRetrain hbm channel retire) s) noted) ∧
      (hbm = false → channel.toNat < 96 → s.channelPages channel ≠ [] → s.tier1Free = [] →
        exec (.channelRetrain hbm channel retire) s = .next s)) ∧
     (port.toNat < 12 →
       serviced (exec (.fabricLaneRetrain port lane true) s) (fun w => w = { v with lanes := w.lanes } ∧ (port, lane) ∉ w.lanes) ∧
       serviced (exec (.fabricLaneRetrain port lane false) s) (fun w => w = { v with lanes := w.lanes } ∧ (port, lane) ∈ w.lanes)) ∧
     (12 ≤ port.toNat → ∀ b, exec (.fabricLaneRetrain port lane b) s = .next s))
end

