-- ==== Sys2Proof/Laws/Encoding.lean ====
section
/-!
SUPPORT. Sys2Proof/Laws/Encoding.lean: reading a field back from a word that was put together from its fields.
-/

namespace Sys2Proof

/-- A field that lies below the last joint of a word is read from the lower part. -/
theorem field_cat_low {m n : Nat} (k : Nat) (a : BitVec m) (b : BitVec n) (s l : Nat) (h : s + l ≤ n) (hk : n ≤ k) :
    field (cat k a b) s l = field b s l := by
  ext i hi
  have hlt : s + i < n := by omega
  have hk' : s + i < k := by omega
  simp [field, cat, BitVec.getLsbD_append, hlt, hk']

/-- A field that lies above the last joint of a word is read from the upper part. -/
theorem field_cat_high {m n : Nat} (k : Nat) (a : BitVec m) (b : BitVec n) (s l : Nat) (h : n ≤ s) (hk : s + l ≤ k) :
    field (cat k a b) s l = field a (s - n) l := by
  ext i hi
  have hge : ¬ s + i < n := by omega
  have hk' : s + i < k := by omega
  have he : s + i - n = s - n + i := by omega
  simp [field, cat, BitVec.getLsbD_append, hge, he, hk']

/-- The whole of a field is the field. -/
theorem field_whole {n : Nat} (a : BitVec n) : field a 0 n = a := by
  ext i hi
  simp [field]

end Sys2Proof
end

