-- ==== Sys2Proof/Laws/Map.lean ====
section
/-!
SUPPORT. Sys2Proof/Laws/Map.lean: data by key: the canonical form is kept by every operation, and what reading after writing
gives.
-/

namespace Sys2Proof.Machine

/-- Every key of a map lies above a bound. -/
def SMap.above {w : Nat} (k : Nat) (m : SMap w) : Prop := ∀ p ∈ m, k < p.1

theorem SMap.wf_cons {w : Nat} (a : Nat) (v : BitVec w) (t : SMap w) :
    SMap.wf ((a, v) :: t) = true ↔ v ≠ 0 ∧ SMap.above a t ∧ SMap.wf t = true := by
  induction t generalizing a v with
  | nil => simp [SMap.wf, SMap.above]
  | cons p t ih =>
    obtain ⟨b, x⟩ := p
    simp only [SMap.wf, Bool.and_eq_true, bne_iff_ne, ne_eq, decide_eq_true_eq, ih b x, SMap.above, List.mem_cons,
      forall_eq_or_imp]
    constructor
    · rintro ⟨⟨hv, hab⟩, hx, hb, ht⟩
      exact ⟨hv, ⟨hab, fun p hp => Nat.lt_trans hab (hb p hp)⟩, hx, hb, ht⟩
    · rintro ⟨hv, ⟨hab, _⟩, hx, hb, ht⟩
      exact ⟨⟨hv, hab⟩, hx, hb, ht⟩

theorem SMap.wf_filter {w : Nat} (p : Nat × BitVec w → Bool) (m : SMap w) (h : SMap.wf m = true) :
    SMap.wf (m.filter p) = true := by
  induction m with
  | nil => rfl
  | cons c t ih =>
    obtain ⟨a, v⟩ := c
    obtain ⟨hv, ha, ht⟩ := (SMap.wf_cons a v t).1 h
    rw [List.filter_cons]
    split
    · exact (SMap.wf_cons _ _ _).2 ⟨hv, fun q hq => ha q (List.mem_filter.1 hq).1, ih ht⟩
    · exact ih ht

theorem SMap.mem_insert {w : Nat} (m : SMap w) (k : Nat) (v : BitVec w) (q : Nat × BitVec w)
    (h : q ∈ SMap.insert m k v) : q = (k, v) ∨ q ∈ m := by
  induction m with
  | nil => simpa [SMap.insert] using h
  | cons c t ih =>
    obtain ⟨a, x⟩ := c
    simp only [SMap.insert] at h
    split at h
    · simpa using h
    · split at h
      · rcases List.mem_cons.1 h with h | h
        · exact .inl h
        · exact .inr (List.mem_cons_of_mem _ h)
      · rcases List.mem_cons.1 h with h | h
        · exact .inr (h ▸ List.mem_cons_self ..)
        · exact (ih h).imp_right (List.mem_cons_of_mem _)

theorem SMap.wf_insert {w : Nat} (m : SMap w) (k : Nat) (v : BitVec w) (h : SMap.wf m = true) (hv : v ≠ 0) :
    SMap.wf (SMap.insert m k v) = true := by
  induction m with
  | nil => simpa [SMap.insert, SMap.wf] using hv
  | cons c t ih =>
    obtain ⟨a, x⟩ := c
    obtain ⟨hx, ha, ht⟩ := (SMap.wf_cons a x t).1 h
    simp only [SMap.insert]
    split
    · next hk =>
      refine (SMap.wf_cons _ _ _).2 ⟨hv, ?_, h⟩
      intro q hq
      rcases List.mem_cons.1 hq with rfl | hq
      · exact hk
      · exact Nat.lt_trans hk (ha q hq)
    · split
      · next hk => subst hk; exact (SMap.wf_cons _ _ _).2 ⟨hv, ha, ht⟩
      · next hk hne =>
        refine (SMap.wf_cons _ _ _).2 ⟨hx, ?_, ih ht⟩
        intro q hq
        rcases SMap.mem_insert t k v q hq with rfl | hq
        · show a < k; omega
        · exact ha q hq

theorem SMap.wf_set {w : Nat} (m : SMap w) (k : Nat) (v : BitVec w) (h : SMap.wf m = true) :
    SMap.wf (SMap.set m k v) = true := by
  unfold SMap.set
  split
  · exact SMap.wf_filter _ m h
  · next hv => exact SMap.wf_insert m k v h hv

theorem SMap.wf_setRange {w : Nat} (l : List (BitVec w)) (m : SMap w) (k : Nat) (h : SMap.wf m = true) :
    SMap.wf (SMap.setRange m k l) = true := by
  induction l generalizing m k with
  | nil => exact h
  | cons v t ih => exact ih _ _ (SMap.wf_set m k v h)

theorem SMap.get_erase {w : Nat} (m : SMap w) (k j : Nat) :
    SMap.get (m.erase k) j = if j = k then 0 else SMap.get m j := by
  induction m with
  | nil => simp [SMap.erase, SMap.get]
  | cons c t ih =>
    obtain ⟨a, v⟩ := c
    simp only [SMap.erase, List.filter_cons] at ih ⊢
    by_cases hak : a = k
    · subst hak
      simp only [bne_self_eq_false, Bool.false_eq_true, ↓reduceIte, ih, SMap.get]
      by_cases hj : j = a <;> simp [hj]
    · simp only [bne_iff_ne, ne_eq, hak, not_false_eq_true, ↓reduceIte, SMap.get, ih]
      by_cases hj : j = a
      · subst hj; simp [hak]
      · simp [hj]

theorem SMap.get_insert {w : Nat} (m : SMap w) (k : Nat) (v : BitVec w) (j : Nat) :
    SMap.get (SMap.insert m k v) j = if j = k then v else SMap.get m j := by
  induction m with
  | nil => simp [SMap.insert, SMap.get]
  | cons c t ih =>
    obtain ⟨a, x⟩ := c
    simp only [SMap.insert]
    split
    · simp [SMap.get]
    · split
      · next hk => subst hk; by_cases hj : j = k <;> simp [SMap.get, hj]
      · next hlt hne =>
        simp only [SMap.get, ih]
        by_cases hj : j = a
        · subst hj; simp [Ne.symm hne]
        · simp [hj]

/-- Reading after a write: the key written gives the value, every other key what it gave (06 R106, 18 R276). -/
theorem SMap.get_set {w : Nat} (m : SMap w) (k : Nat) (v : BitVec w) (j : Nat) :
    SMap.get (SMap.set m k v) j = if j = k then v else SMap.get m j := by
  unfold SMap.set
  split
  · next hv => rw [SMap.get_erase, hv]
  · exact SMap.get_insert m k v j

theorem SMap.get_setRange {w : Nat} (l : List (BitVec w)) (m : SMap w) (k j : Nat) :
    SMap.get (SMap.setRange m k l) j = if k ≤ j ∧ j < k + l.length then (l[j - k]?).getD 0 else SMap.get m j := by
  induction l generalizing m k with
  | nil => simp [SMap.setRange] <;> omega
  | cons v t ih =>
    simp only [SMap.setRange, ih, SMap.get_set, List.length_cons]
    by_cases h1 : j = k
    · subst h1
      have h : ¬ (j + 1 ≤ j ∧ j < j + 1 + t.length) := by omega
      simp [h]
    · by_cases h2 : k + 1 ≤ j ∧ j < k + 1 + t.length
      · have h3 : k ≤ j ∧ j < k + (t.length + 1) := by omega
        have h4 : j - k = (j - (k + 1)) + 1 := by omega
        simp [h2, h3, h4]
      · have h3 : ¬ (k ≤ j ∧ j < k + (t.length + 1)) := by omega
        rw [if_neg h2, if_neg h1, if_neg h3]
end Sys2Proof.Machine
end

