-- ==== Sys2Proof/Laws/State.lean ====
section
/-!
SUPPORT. Sys2Proof/Laws/State.lean: what each update of the state leaves as it was: one lemma per field per update.
-/

namespace Sys2Proof.Machine

/-! ## State.writeS -/

@[simp] theorem State.writeS_gang (s : State) (r : BitVec 6) (x : W64) : (s.writeS r x).gang = s.gang := rfl
@[simp] theorem State.writeS_k (s : State) (r : BitVec 6) (x : W64) : (s.writeS r x).k = s.k := rfl
@[simp] theorem State.writeS_peers (s : State) (r : BitVec 6) (x : W64) : (s.writeS r x).peers = s.peers := rfl
@[simp] theorem State.writeS_others (s : State) (r : BitVec 6) (x : W64) : (s.writeS r x).others = s.others := rfl
@[simp] theorem State.writeS_evicted (s : State) (r : BitVec 6) (x : W64) : (s.writeS r x).evicted = s.evicted := rfl
@[simp] theorem State.writeS_bands (s : State) (r : BitVec 6) (x : W64) : (s.writeS r x).bands = s.bands := rfl
@[simp] theorem State.writeS_contexts (s : State) (r : BitVec 6) (x : W64) : (s.writeS r x).contexts = s.contexts := rfl
@[simp] theorem State.writeS_images (s : State) (r : BitVec 6) (x : W64) : (s.writeS r x).images = s.images := rfl
@[simp] theorem State.writeS_mem (s : State) (r : BitVec 6) (x : W64) : (s.writeS r x).mem = s.mem := rfl
@[simp] theorem State.writeS_bank (s : State) (r : BitVec 6) (x : W64) : (s.writeS r x).bank = s.bank := rfl
@[simp] theorem State.writeS_lineKeys (s : State) (r : BitVec 6) (x : W64) : (s.writeS r x).lineKeys = s.lineKeys := rfl
@[simp] theorem State.writeS_tlb (s : State) (r : BitVec 6) (x : W64) : (s.writeS r x).tlb = s.tlb := rfl
@[simp] theorem State.writeS_dieTlb (s : State) (r : BitVec 6) (x : W64) : (s.writeS r x).dieTlb = s.dieTlb := rfl
@[simp] theorem State.writeS_tables (s : State) (r : BitVec 6) (x : W64) : (s.writeS r x).tables = s.tables := rfl
@[simp] theorem State.writeS_recCache (s : State) (r : BitVec 6) (x : W64) : (s.writeS r x).recCache = s.recCache := rfl
@[simp] theorem State.writeS_faults (s : State) (r : BitVec 6) (x : W64) : (s.writeS r x).faults = s.faults := rfl
@[simp] theorem State.writeS_tier1Free (s : State) (r : BitVec 6) (x : W64) :
    (s.writeS r x).tier1Free = s.tier1Free := rfl
@[simp] theorem State.writeS_tier2Free (s : State) (r : BitVec 6) (x : W64) :
    (s.writeS r x).tier2Free = s.tier2Free := rfl
@[simp] theorem State.writeS_uncorrectable (s : State) (r : BitVec 6) (x : W64) :
    (s.writeS r x).uncorrectable = s.uncorrectable := rfl
@[simp] theorem State.writeS_badBank (s : State) (r : BitVec 6) (x : W64) : (s.writeS r x).badBank = s.badBank := rfl
@[simp] theorem State.writeS_time (s : State) (r : BitVec 6) (x : W64) : (s.writeS r x).time = s.time := rfl
@[simp] theorem State.writeS_slewedAt (s : State) (r : BitVec 6) (x : W64) : (s.writeS r x).slewedAt = s.slewedAt := rfl
@[simp] theorem State.writeS_cycles (s : State) (r : BitVec 6) (x : W64) : (s.writeS r x).cycles = s.cycles := rfl
@[simp] theorem State.writeS_lost (s : State) (r : BitVec 6) (x : W64) : (s.writeS r x).lost = s.lost := rfl
@[simp] theorem State.writeS_coreStart (s : State) (r : BitVec 6) (x : W64) :
    (s.writeS r x).coreStart = s.coreStart := rfl
@[simp] theorem State.writeS_device (s : State) (r : BitVec 6) (x : W64) : (s.writeS r x).device = s.device := rfl
@[simp] theorem State.writeS_exports (s : State) (r : BitVec 6) (x : W64) : (s.writeS r x).exports = s.exports := rfl
@[simp] theorem State.writeS_remoteHolders (s : State) (r : BitVec 6) (x : W64) :
    (s.writeS r x).remoteHolders = s.remoteHolders := rfl
@[simp] theorem State.writeS_down (s : State) (r : BitVec 6) (x : W64) : (s.writeS r x).down = s.down := rfl
@[simp] theorem State.writeS_watchCounts (s : State) (r : BitVec 6) (x : W64) :
    (s.writeS r x).watchCounts = s.watchCounts := rfl
@[simp] theorem State.writeS_sinks (s : State) (r : BitVec 6) (x : W64) : (s.writeS r x).sinks = s.sinks := rfl
@[simp] theorem State.writeS_sampleSinks (s : State) (r : BitVec 6) (x : W64) :
    (s.writeS r x).sampleSinks = s.sampleSinks := rfl
@[simp] theorem State.writeS_samplers (s : State) (r : BitVec 6) (x : W64) : (s.writeS r x).samplers = s.samplers := rfl
@[simp] theorem State.writeS_exited (s : State) (r : BitVec 6) (x : W64) : (s.writeS r x).exited = s.exited := rfl
@[simp] theorem State.writeS_msix (s : State) (r : BitVec 6) (x : W64) : (s.writeS r x).msix = s.msix := rfl
@[simp] theorem State.writeS_replies (s : State) (r : BitVec 6) (x : W64) : (s.writeS r x).replies = s.replies := rfl
@[simp] theorem State.writeS_power (s : State) (r : BitVec 6) (x : W64) : (s.writeS r x).power = s.power := rfl
@[simp] theorem State.writeS_firmware (s : State) (r : BitVec 6) (x : W64) : (s.writeS r x).firmware = s.firmware := rfl
@[simp] theorem State.writeS_inactive (s : State) (r : BitVec 6) (x : W64) : (s.writeS r x).inactive = s.inactive := rfl
@[simp] theorem State.writeS_onHd1 (s : State) (r : BitVec 6) (x : W64) : (s.writeS r x).onHd1 = s.onHd1 := rfl
@[simp] theorem State.writeS_service (s : State) (r : BitVec 6) (x : W64) : (s.writeS r x).service = s.service := rfl
@[simp] theorem State.writeS_reserving (s : State) (r : BitVec 6) (x : W64) :
    (s.writeS r x).reserving = s.reserving := rfl
@[simp] theorem State.writeS_agenda (s : State) (r : BitVec 6) (x : W64) : (s.writeS r x).agenda = s.agenda := rfl
@[simp] theorem State.writeS_tick (s : State) (r : BitVec 6) (x : W64) : (s.writeS r x).tick = s.tick := rfl
@[simp] theorem State.writeS_free (s : State) (r : BitVec 6) (x : W64) : (s.writeS r x).free = s.free := rfl
@[simp] theorem State.writeS_order (s : State) (r : BitVec 6) (x : W64) : (s.writeS r x).order = s.order := rfl
@[simp] theorem State.writeS_stepping (s : State) (r : BitVec 6) (x : W64) : (s.writeS r x).stepping = s.stepping := rfl

/-! ## State.updSp -/

@[simp] theorem State.updSp_gang (s : State) (f : Split → Split) : (s.updSp f).gang = s.gang := rfl
@[simp] theorem State.updSp_k (s : State) (f : Split → Split) : (s.updSp f).k = s.k := rfl
@[simp] theorem State.updSp_peers (s : State) (f : Split → Split) : (s.updSp f).peers = s.peers := rfl
@[simp] theorem State.updSp_others (s : State) (f : Split → Split) : (s.updSp f).others = s.others := rfl
@[simp] theorem State.updSp_evicted (s : State) (f : Split → Split) : (s.updSp f).evicted = s.evicted := rfl
@[simp] theorem State.updSp_bands (s : State) (f : Split → Split) : (s.updSp f).bands = s.bands := rfl
@[simp] theorem State.updSp_contexts (s : State) (f : Split → Split) : (s.updSp f).contexts = s.contexts := rfl
@[simp] theorem State.updSp_images (s : State) (f : Split → Split) : (s.updSp f).images = s.images := rfl
@[simp] theorem State.updSp_mem (s : State) (f : Split → Split) : (s.updSp f).mem = s.mem := rfl
@[simp] theorem State.updSp_bank (s : State) (f : Split → Split) : (s.updSp f).bank = s.bank := rfl
@[simp] theorem State.updSp_lineKeys (s : State) (f : Split → Split) : (s.updSp f).lineKeys = s.lineKeys := rfl
@[simp] theorem State.updSp_tlb (s : State) (f : Split → Split) : (s.updSp f).tlb = s.tlb := rfl
@[simp] theorem State.updSp_dieTlb (s : State) (f : Split → Split) : (s.updSp f).dieTlb = s.dieTlb := rfl
@[simp] theorem State.updSp_tables (s : State) (f : Split → Split) : (s.updSp f).tables = s.tables := rfl
@[simp] theorem State.updSp_recCache (s : State) (f : Split → Split) : (s.updSp f).recCache = s.recCache := rfl
@[simp] theorem State.updSp_faults (s : State) (f : Split → Split) : (s.updSp f).faults = s.faults := rfl
@[simp] theorem State.updSp_tier1Free (s : State) (f : Split → Split) : (s.updSp f).tier1Free = s.tier1Free := rfl
@[simp] theorem State.updSp_tier2Free (s : State) (f : Split → Split) : (s.updSp f).tier2Free = s.tier2Free := rfl
@[simp] theorem State.updSp_uncorrectable (s : State) (f : Split → Split) :
    (s.updSp f).uncorrectable = s.uncorrectable := rfl
@[simp] theorem State.updSp_badBank (s : State) (f : Split → Split) : (s.updSp f).badBank = s.badBank := rfl
@[simp] theorem State.updSp_time (s : State) (f : Split → Split) : (s.updSp f).time = s.time := rfl
@[simp] theorem State.updSp_slewedAt (s : State) (f : Split → Split) : (s.updSp f).slewedAt = s.slewedAt := rfl
@[simp] theorem State.updSp_cycles (s : State) (f : Split → Split) : (s.updSp f).cycles = s.cycles := rfl
@[simp] theorem State.updSp_lost (s : State) (f : Split → Split) : (s.updSp f).lost = s.lost := rfl
@[simp] theorem State.updSp_coreStart (s : State) (f : Split → Split) : (s.updSp f).coreStart = s.coreStart := rfl
@[simp] theorem State.updSp_device (s : State) (f : Split → Split) : (s.updSp f).device = s.device := rfl
@[simp] theorem State.updSp_exports (s : State) (f : Split → Split) : (s.updSp f).exports = s.exports := rfl
@[simp] theorem State.updSp_remoteHolders (s : State) (f : Split → Split) :
    (s.updSp f).remoteHolders = s.remoteHolders := rfl
@[simp] theorem State.updSp_down (s : State) (f : Split → Split) : (s.updSp f).down = s.down := rfl
@[simp] theorem State.updSp_watchCounts (s : State) (f : Split → Split) : (s.updSp f).watchCounts = s.watchCounts := rfl
@[simp] theorem State.updSp_sinks (s : State) (f : Split → Split) : (s.updSp f).sinks = s.sinks := rfl
@[simp] theorem State.updSp_sampleSinks (s : State) (f : Split → Split) : (s.updSp f).sampleSinks = s.sampleSinks := rfl
@[simp] theorem State.updSp_samplers (s : State) (f : Split → Split) : (s.updSp f).samplers = s.samplers := rfl
@[simp] theorem State.updSp_exited (s : State) (f : Split → Split) : (s.updSp f).exited = s.exited := rfl
@[simp] theorem State.updSp_msix (s : State) (f : Split → Split) : (s.updSp f).msix = s.msix := rfl
@[simp] theorem State.updSp_replies (s : State) (f : Split → Split) : (s.updSp f).replies = s.replies := rfl
@[simp] theorem State.updSp_power (s : State) (f : Split → Split) : (s.updSp f).power = s.power := rfl
@[simp] theorem State.updSp_firmware (s : State) (f : Split → Split) : (s.updSp f).firmware = s.firmware := rfl
@[simp] theorem State.updSp_inactive (s : State) (f : Split → Split) : (s.updSp f).inactive = s.inactive := rfl
@[simp] theorem State.updSp_onHd1 (s : State) (f : Split → Split) : (s.updSp f).onHd1 = s.onHd1 := rfl
@[simp] theorem State.updSp_service (s : State) (f : Split → Split) : (s.updSp f).service = s.service := rfl
@[simp] theorem State.updSp_reserving (s : State) (f : Split → Split) : (s.updSp f).reserving = s.reserving := rfl
@[simp] theorem State.updSp_agenda (s : State) (f : Split → Split) : (s.updSp f).agenda = s.agenda := rfl
@[simp] theorem State.updSp_tick (s : State) (f : Split → Split) : (s.updSp f).tick = s.tick := rfl
@[simp] theorem State.updSp_free (s : State) (f : Split → Split) : (s.updSp f).free = s.free := rfl
@[simp] theorem State.updSp_order (s : State) (f : Split → Split) : (s.updSp f).order = s.order := rfl
@[simp] theorem State.updSp_stepping (s : State) (f : Split → Split) : (s.updSp f).stepping = s.stepping := rfl

/-! ## State.goto -/

@[simp] theorem State.goto_gang (s : State) (pc : W64) : (s.goto pc).gang = s.gang := rfl
@[simp] theorem State.goto_k (s : State) (pc : W64) : (s.goto pc).k = s.k := rfl
@[simp] theorem State.goto_peers (s : State) (pc : W64) : (s.goto pc).peers = s.peers := rfl
@[simp] theorem State.goto_others (s : State) (pc : W64) : (s.goto pc).others = s.others := rfl
@[simp] theorem State.goto_evicted (s : State) (pc : W64) : (s.goto pc).evicted = s.evicted := rfl
@[simp] theorem State.goto_bands (s : State) (pc : W64) : (s.goto pc).bands = s.bands := rfl
@[simp] theorem State.goto_contexts (s : State) (pc : W64) : (s.goto pc).contexts = s.contexts := rfl
@[simp] theorem State.goto_images (s : State) (pc : W64) : (s.goto pc).images = s.images := rfl
@[simp] theorem State.goto_mem (s : State) (pc : W64) : (s.goto pc).mem = s.mem := rfl
@[simp] theorem State.goto_bank (s : State) (pc : W64) : (s.goto pc).bank = s.bank := rfl
@[simp] theorem State.goto_lineKeys (s : State) (pc : W64) : (s.goto pc).lineKeys = s.lineKeys := rfl
@[simp] theorem State.goto_tlb (s : State) (pc : W64) : (s.goto pc).tlb = s.tlb := rfl
@[simp] theorem State.goto_dieTlb (s : State) (pc : W64) : (s.goto pc).dieTlb = s.dieTlb := rfl
@[simp] theorem State.goto_tables (s : State) (pc : W64) : (s.goto pc).tables = s.tables := rfl
@[simp] theorem State.goto_recCache (s : State) (pc : W64) : (s.goto pc).recCache = s.recCache := rfl
@[simp] theorem State.goto_faults (s : State) (pc : W64) : (s.goto pc).faults = s.faults := rfl
@[simp] theorem State.goto_tier1Free (s : State) (pc : W64) : (s.goto pc).tier1Free = s.tier1Free := rfl
@[simp] theorem State.goto_tier2Free (s : State) (pc : W64) : (s.goto pc).tier2Free = s.tier2Free := rfl
@[simp] theorem State.goto_uncorrectable (s : State) (pc : W64) : (s.goto pc).uncorrectable = s.uncorrectable := rfl
@[simp] theorem State.goto_badBank (s : State) (pc : W64) : (s.goto pc).badBank = s.badBank := rfl
@[simp] theorem State.goto_time (s : State) (pc : W64) : (s.goto pc).time = s.time := rfl
@[simp] theorem State.goto_slewedAt (s : State) (pc : W64) : (s.goto pc).slewedAt = s.slewedAt := rfl
@[simp] theorem State.goto_cycles (s : State) (pc : W64) : (s.goto pc).cycles = s.cycles := rfl
@[simp] theorem State.goto_lost (s : State) (pc : W64) : (s.goto pc).lost = s.lost := rfl
@[simp] theorem State.goto_coreStart (s : State) (pc : W64) : (s.goto pc).coreStart = s.coreStart := rfl
@[simp] theorem State.goto_device (s : State) (pc : W64) : (s.goto pc).device = s.device := rfl
@[simp] theorem State.goto_exports (s : State) (pc : W64) : (s.goto pc).exports = s.exports := rfl
@[simp] theorem State.goto_remoteHolders (s : State) (pc : W64) : (s.goto pc).remoteHolders = s.remoteHolders := rfl
@[simp] theorem State.goto_down (s : State) (pc : W64) : (s.goto pc).down = s.down := rfl
@[simp] theorem State.goto_watchCounts (s : State) (pc : W64) : (s.goto pc).watchCounts = s.watchCounts := rfl
@[simp] theorem State.goto_sinks (s : State) (pc : W64) : (s.goto pc).sinks = s.sinks := rfl
@[simp] theorem State.goto_sampleSinks (s : State) (pc : W64) : (s.goto pc).sampleSinks = s.sampleSinks := rfl
@[simp] theorem State.goto_samplers (s : State) (pc : W64) : (s.goto pc).samplers = s.samplers := rfl
@[simp] theorem State.goto_exited (s : State) (pc : W64) : (s.goto pc).exited = s.exited := rfl
@[simp] theorem State.goto_msix (s : State) (pc : W64) : (s.goto pc).msix = s.msix := rfl
@[simp] theorem State.goto_replies (s : State) (pc : W64) : (s.goto pc).replies = s.replies := rfl
@[simp] theorem State.goto_power (s : State) (pc : W64) : (s.goto pc).power = s.power := rfl
@[simp] theorem State.goto_firmware (s : State) (pc : W64) : (s.goto pc).firmware = s.firmware := rfl
@[simp] theorem State.goto_inactive (s : State) (pc : W64) : (s.goto pc).inactive = s.inactive := rfl
@[simp] theorem State.goto_onHd1 (s : State) (pc : W64) : (s.goto pc).onHd1 = s.onHd1 := rfl
@[simp] theorem State.goto_service (s : State) (pc : W64) : (s.goto pc).service = s.service := rfl
@[simp] theorem State.goto_reserving (s : State) (pc : W64) : (s.goto pc).reserving = s.reserving := rfl
@[simp] theorem State.goto_agenda (s : State) (pc : W64) : (s.goto pc).agenda = s.agenda := rfl
@[simp] theorem State.goto_tick (s : State) (pc : W64) : (s.goto pc).tick = s.tick := rfl
@[simp] theorem State.goto_free (s : State) (pc : W64) : (s.goto pc).free = s.free := rfl
@[simp] theorem State.goto_order (s : State) (pc : W64) : (s.goto pc).order = s.order := rfl
@[simp] theorem State.goto_stepping (s : State) (pc : W64) : (s.goto pc).stepping = s.stepping := rfl

/-! ## State.advance -/

@[simp] theorem State.advance_gang (s : State) : (s.advance).gang = s.gang := rfl
@[simp] theorem State.advance_k (s : State) : (s.advance).k = s.k := rfl
@[simp] theorem State.advance_peers (s : State) : (s.advance).peers = s.peers := rfl
@[simp] theorem State.advance_others (s : State) : (s.advance).others = s.others := rfl
@[simp] theorem State.advance_evicted (s : State) : (s.advance).evicted = s.evicted := rfl
@[simp] theorem State.advance_bands (s : State) : (s.advance).bands = s.bands := rfl
@[simp] theorem State.advance_contexts (s : State) : (s.advance).contexts = s.contexts := rfl
@[simp] theorem State.advance_images (s : State) : (s.advance).images = s.images := rfl
@[simp] theorem State.advance_mem (s : State) : (s.advance).mem = s.mem := rfl
@[simp] theorem State.advance_bank (s : State) : (s.advance).bank = s.bank := rfl
@[simp] theorem State.advance_lineKeys (s : State) : (s.advance).lineKeys = s.lineKeys := rfl
@[simp] theorem State.advance_tlb (s : State) : (s.advance).tlb = s.tlb := rfl
@[simp] theorem State.advance_dieTlb (s : State) : (s.advance).dieTlb = s.dieTlb := rfl
@[simp] theorem State.advance_tables (s : State) : (s.advance).tables = s.tables := rfl
@[simp] theorem State.advance_recCache (s : State) : (s.advance).recCache = s.recCache := rfl
@[simp] theorem State.advance_faults (s : State) : (s.advance).faults = s.faults := rfl
@[simp] theorem State.advance_tier1Free (s : State) : (s.advance).tier1Free = s.tier1Free := rfl
@[simp] theorem State.advance_tier2Free (s : State) : (s.advance).tier2Free = s.tier2Free := rfl
@[simp] theorem State.advance_uncorrectable (s : State) : (s.advance).uncorrectable = s.uncorrectable := rfl
@[simp] theorem State.advance_badBank (s : State) : (s.advance).badBank = s.badBank := rfl
@[simp] theorem State.advance_time (s : State) : (s.advance).time = s.time := rfl
@[simp] theorem State.advance_slewedAt (s : State) : (s.advance).slewedAt = s.slewedAt := rfl
@[simp] theorem State.advance_cycles (s : State) : (s.advance).cycles = s.cycles := rfl
@[simp] theorem State.advance_lost (s : State) : (s.advance).lost = s.lost := rfl
@[simp] theorem State.advance_coreStart (s : State) : (s.advance).coreStart = s.coreStart := rfl
@[simp] theorem State.advance_device (s : State) : (s.advance).device = s.device := rfl
@[simp] theorem State.advance_exports (s : State) : (s.advance).exports = s.exports := rfl
@[simp] theorem State.advance_remoteHolders (s : State) : (s.advance).remoteHolders = s.remoteHolders := rfl
@[simp] theorem State.advance_down (s : State) : (s.advance).down = s.down := rfl
@[simp] theorem State.advance_watchCounts (s : State) : (s.advance).watchCounts = s.watchCounts := rfl
@[simp] theorem State.advance_sinks (s : State) : (s.advance).sinks = s.sinks := rfl
@[simp] theorem State.advance_sampleSinks (s : State) : (s.advance).sampleSinks = s.sampleSinks := rfl
@[simp] theorem State.advance_samplers (s : State) : (s.advance).samplers = s.samplers := rfl
@[simp] theorem State.advance_exited (s : State) : (s.advance).exited = s.exited := rfl
@[simp] theorem State.advance_msix (s : State) : (s.advance).msix = s.msix := rfl
@[simp] theorem State.advance_replies (s : State) : (s.advance).replies = s.replies := rfl
@[simp] theorem State.advance_power (s : State) : (s.advance).power = s.power := rfl
@[simp] theorem State.advance_firmware (s : State) : (s.advance).firmware = s.firmware := rfl
@[simp] theorem State.advance_inactive (s : State) : (s.advance).inactive = s.inactive := rfl
@[simp] theorem State.advance_onHd1 (s : State) : (s.advance).onHd1 = s.onHd1 := rfl
@[simp] theorem State.advance_service (s : State) : (s.advance).service = s.service := rfl
@[simp] theorem State.advance_reserving (s : State) : (s.advance).reserving = s.reserving := rfl
@[simp] theorem State.advance_agenda (s : State) : (s.advance).agenda = s.agenda := rfl
@[simp] theorem State.advance_tick (s : State) : (s.advance).tick = s.tick := rfl
@[simp] theorem State.advance_free (s : State) : (s.advance).free = s.free := rfl
@[simp] theorem State.advance_order (s : State) : (s.advance).order = s.order := rfl
@[simp] theorem State.advance_stepping (s : State) : (s.advance).stepping = s.stepping := rfl

/-! ## State.updCtx -/

@[simp] theorem State.updCtx_gang (s : State) (vf : BitVec 7) (f : Context → Context) :
    (s.updCtx vf f).gang = s.gang := rfl
@[simp] theorem State.updCtx_grp (s : State) (vf : BitVec 7) (f : Context → Context) :
    (s.updCtx vf f).grp = s.grp := rfl
@[simp] theorem State.updCtx_k (s : State) (vf : BitVec 7) (f : Context → Context) : (s.updCtx vf f).k = s.k := rfl
@[simp] theorem State.updCtx_peers (s : State) (vf : BitVec 7) (f : Context → Context) :
    (s.updCtx vf f).peers = s.peers := rfl
@[simp] theorem State.updCtx_others (s : State) (vf : BitVec 7) (f : Context → Context) :
    (s.updCtx vf f).others = s.others := rfl
@[simp] theorem State.updCtx_evicted (s : State) (vf : BitVec 7) (f : Context → Context) :
    (s.updCtx vf f).evicted = s.evicted := rfl
@[simp] theorem State.updCtx_bands (s : State) (vf : BitVec 7) (f : Context → Context) :
    (s.updCtx vf f).bands = s.bands := rfl
@[simp] theorem State.updCtx_images (s : State) (vf : BitVec 7) (f : Context → Context) :
    (s.updCtx vf f).images = s.images := rfl
@[simp] theorem State.updCtx_mem (s : State) (vf : BitVec 7) (f : Context → Context) :
    (s.updCtx vf f).mem = s.mem := rfl
@[simp] theorem State.updCtx_bank (s : State) (vf : BitVec 7) (f : Context → Context) :
    (s.updCtx vf f).bank = s.bank := rfl
@[simp] theorem State.updCtx_lineKeys (s : State) (vf : BitVec 7) (f : Context → Context) :
    (s.updCtx vf f).lineKeys = s.lineKeys := rfl
@[simp] theorem State.updCtx_tlb (s : State) (vf : BitVec 7) (f : Context → Context) :
    (s.updCtx vf f).tlb = s.tlb := rfl
@[simp] theorem State.updCtx_dieTlb (s : State) (vf : BitVec 7) (f : Context → Context) :
    (s.updCtx vf f).dieTlb = s.dieTlb := rfl
@[simp] theorem State.updCtx_tables (s : State) (vf : BitVec 7) (f : Context → Context) :
    (s.updCtx vf f).tables = s.tables := rfl
@[simp] theorem State.updCtx_recCache (s : State) (vf : BitVec 7) (f : Context → Context) :
    (s.updCtx vf f).recCache = s.recCache := rfl
@[simp] theorem State.updCtx_faults (s : State) (vf : BitVec 7) (f : Context → Context) :
    (s.updCtx vf f).faults = s.faults := rfl
@[simp] theorem State.updCtx_tier1Free (s : State) (vf : BitVec 7) (f : Context → Context) :
    (s.updCtx vf f).tier1Free = s.tier1Free := rfl
@[simp] theorem State.updCtx_tier2Free (s : State) (vf : BitVec 7) (f : Context → Context) :
    (s.updCtx vf f).tier2Free = s.tier2Free := rfl
@[simp] theorem State.updCtx_uncorrectable (s : State) (vf : BitVec 7) (f : Context → Context) :
    (s.updCtx vf f).uncorrectable = s.uncorrectable := rfl
@[simp] theorem State.updCtx_badBank (s : State) (vf : BitVec 7) (f : Context → Context) :
    (s.updCtx vf f).badBank = s.badBank := rfl
@[simp] theorem State.updCtx_time (s : State) (vf : BitVec 7) (f : Context → Context) :
    (s.updCtx vf f).time = s.time := rfl
@[simp] theorem State.updCtx_slewedAt (s : State) (vf : BitVec 7) (f : Context → Context) :
    (s.updCtx vf f).slewedAt = s.slewedAt := rfl
@[simp] theorem State.updCtx_cycles (s : State) (vf : BitVec 7) (f : Context → Context) :
    (s.updCtx vf f).cycles = s.cycles := rfl
@[simp] theorem State.updCtx_lost (s : State) (vf : BitVec 7) (f : Context → Context) :
    (s.updCtx vf f).lost = s.lost := rfl
@[simp] theorem State.updCtx_coreStart (s : State) (vf : BitVec 7) (f : Context → Context) :
    (s.updCtx vf f).coreStart = s.coreStart := rfl
@[simp] theorem State.updCtx_device (s : State) (vf : BitVec 7) (f : Context → Context) :
    (s.updCtx vf f).device = s.device := rfl
@[simp] theorem State.updCtx_exports (s : State) (vf : BitVec 7) (f : Context → Context) :
    (s.updCtx vf f).exports = s.exports := rfl
@[simp] theorem State.updCtx_remoteHolders (s : State) (vf : BitVec 7) (f : Context → Context) :
    (s.updCtx vf f).remoteHolders = s.remoteHolders := rfl
@[simp] theorem State.updCtx_down (s : State) (vf : BitVec 7) (f : Context → Context) :
    (s.updCtx vf f).down = s.down := rfl
@[simp] theorem State.updCtx_watchCounts (s : State) (vf : BitVec 7) (f : Context → Context) :
    (s.updCtx vf f).watchCounts = s.watchCounts := rfl
@[simp] theorem State.updCtx_sinks (s : State) (vf : BitVec 7) (f : Context → Context) :
    (s.updCtx vf f).sinks = s.sinks := rfl
@[simp] theorem State.updCtx_sampleSinks (s : State) (vf : BitVec 7) (f : Context → Context) :
    (s.updCtx vf f).sampleSinks = s.sampleSinks := rfl
@[simp] theorem State.updCtx_samplers (s : State) (vf : BitVec 7) (f : Context → Context) :
    (s.updCtx vf f).samplers = s.samplers := rfl
@[simp] theorem State.updCtx_exited (s : State) (vf : BitVec 7) (f : Context → Context) :
    (s.updCtx vf f).exited = s.exited := rfl
@[simp] theorem State.updCtx_msix (s : State) (vf : BitVec 7) (f : Context → Context) :
    (s.updCtx vf f).msix = s.msix := rfl
@[simp] theorem State.updCtx_replies (s : State) (vf : BitVec 7) (f : Context → Context) :
    (s.updCtx vf f).replies = s.replies := rfl
@[simp] theorem State.updCtx_power (s : State) (vf : BitVec 7) (f : Context → Context) :
    (s.updCtx vf f).power = s.power := rfl
@[simp] theorem State.updCtx_firmware (s : State) (vf : BitVec 7) (f : Context → Context) :
    (s.updCtx vf f).firmware = s.firmware := rfl
@[simp] theorem State.updCtx_inactive (s : State) (vf : BitVec 7) (f : Context → Context) :
    (s.updCtx vf f).inactive = s.inactive := rfl
@[simp] theorem State.updCtx_onHd1 (s : State) (vf : BitVec 7) (f : Context → Context) :
    (s.updCtx vf f).onHd1 = s.onHd1 := rfl
@[simp] theorem State.updCtx_service (s : State) (vf : BitVec 7) (f : Context → Context) :
    (s.updCtx vf f).service = s.service := rfl
@[simp] theorem State.updCtx_reserving (s : State) (vf : BitVec 7) (f : Context → Context) :
    (s.updCtx vf f).reserving = s.reserving := rfl
@[simp] theorem State.updCtx_agenda (s : State) (vf : BitVec 7) (f : Context → Context) :
    (s.updCtx vf f).agenda = s.agenda := rfl
@[simp] theorem State.updCtx_tick (s : State) (vf : BitVec 7) (f : Context → Context) :
    (s.updCtx vf f).tick = s.tick := rfl
@[simp] theorem State.updCtx_free (s : State) (vf : BitVec 7) (f : Context → Context) :
    (s.updCtx vf f).free = s.free := rfl
@[simp] theorem State.updCtx_order (s : State) (vf : BitVec 7) (f : Context → Context) :
    (s.updCtx vf f).order = s.order := rfl
@[simp] theorem State.updCtx_stepping (s : State) (vf : BitVec 7) (f : Context → Context) :
    (s.updCtx vf f).stepping = s.stepping := rfl

/-! ## State.writePhys -/

@[simp] theorem State.writePhys_gang (s : State) (pa : BitVec 52) (b : List Byte) :
    (s.writePhys pa b).gang = s.gang := rfl
@[simp] theorem State.writePhys_grp (s : State) (pa : BitVec 52) (b : List Byte) : (s.writePhys pa b).grp = s.grp := rfl
@[simp] theorem State.writePhys_k (s : State) (pa : BitVec 52) (b : List Byte) : (s.writePhys pa b).k = s.k := rfl
@[simp] theorem State.writePhys_peers (s : State) (pa : BitVec 52) (b : List Byte) :
    (s.writePhys pa b).peers = s.peers := rfl
@[simp] theorem State.writePhys_others (s : State) (pa : BitVec 52) (b : List Byte) :
    (s.writePhys pa b).others = s.others := rfl
@[simp] theorem State.writePhys_evicted (s : State) (pa : BitVec 52) (b : List Byte) :
    (s.writePhys pa b).evicted = s.evicted := rfl
@[simp] theorem State.writePhys_bands (s : State) (pa : BitVec 52) (b : List Byte) :
    (s.writePhys pa b).bands = s.bands := rfl
@[simp] theorem State.writePhys_contexts (s : State) (pa : BitVec 52) (b : List Byte) :
    (s.writePhys pa b).contexts = s.contexts := rfl
@[simp] theorem State.writePhys_images (s : State) (pa : BitVec 52) (b : List Byte) :
    (s.writePhys pa b).images = s.images := rfl
@[simp] theorem State.writePhys_bank (s : State) (pa : BitVec 52) (b : List Byte) :
    (s.writePhys pa b).bank = s.bank := rfl
@[simp] theorem State.writePhys_lineKeys (s : State) (pa : BitVec 52) (b : List Byte) :
    (s.writePhys pa b).lineKeys = s.lineKeys := rfl
@[simp] theorem State.writePhys_tlb (s : State) (pa : BitVec 52) (b : List Byte) : (s.writePhys pa b).tlb = s.tlb := rfl
@[simp] theorem State.writePhys_dieTlb (s : State) (pa : BitVec 52) (b : List Byte) :
    (s.writePhys pa b).dieTlb = s.dieTlb := rfl
@[simp] theorem State.writePhys_tables (s : State) (pa : BitVec 52) (b : List Byte) :
    (s.writePhys pa b).tables = s.tables := rfl
@[simp] theorem State.writePhys_recCache (s : State) (pa : BitVec 52) (b : List Byte) :
    (s.writePhys pa b).recCache = s.recCache := rfl
@[simp] theorem State.writePhys_faults (s : State) (pa : BitVec 52) (b : List Byte) :
    (s.writePhys pa b).faults = s.faults := rfl
@[simp] theorem State.writePhys_tier1Free (s : State) (pa : BitVec 52) (b : List Byte) :
    (s.writePhys pa b).tier1Free = s.tier1Free := rfl
@[simp] theorem State.writePhys_tier2Free (s : State) (pa : BitVec 52) (b : List Byte) :
    (s.writePhys pa b).tier2Free = s.tier2Free := rfl
@[simp] theorem State.writePhys_uncorrectable (s : State) (pa : BitVec 52) (b : List Byte) :
    (s.writePhys pa b).uncorrectable = s.uncorrectable := rfl
@[simp] theorem State.writePhys_badBank (s : State) (pa : BitVec 52) (b : List Byte) :
    (s.writePhys pa b).badBank = s.badBank := rfl
@[simp] theorem State.writePhys_time (s : State) (pa : BitVec 52) (b : List Byte) :
    (s.writePhys pa b).time = s.time := rfl
@[simp] theorem State.writePhys_slewedAt (s : State) (pa : BitVec 52) (b : List Byte) :
    (s.writePhys pa b).slewedAt = s.slewedAt := rfl
@[simp] theorem State.writePhys_cycles (s : State) (pa : BitVec 52) (b : List Byte) :
    (s.writePhys pa b).cycles = s.cycles := rfl
@[simp] theorem State.writePhys_lost (s : State) (pa : BitVec 52) (b : List Byte) :
    (s.writePhys pa b).lost = s.lost := rfl
@[simp] theorem State.writePhys_coreStart (s : State) (pa : BitVec 52) (b : List Byte) :
    (s.writePhys pa b).coreStart = s.coreStart := rfl
@[simp] theorem State.writePhys_device (s : State) (pa : BitVec 52) (b : List Byte) :
    (s.writePhys pa b).device = s.device := rfl
@[simp] theorem State.writePhys_exports (s : State) (pa : BitVec 52) (b : List Byte) :
    (s.writePhys pa b).exports = s.exports := rfl
@[simp] theorem State.writePhys_remoteHolders (s : State) (pa : BitVec 52) (b : List Byte) :
    (s.writePhys pa b).remoteHolders = s.remoteHolders := rfl
@[simp] theorem State.writePhys_down (s : State) (pa : BitVec 52) (b : List Byte) :
    (s.writePhys pa b).down = s.down := rfl
@[simp] theorem State.writePhys_watchCounts (s : State) (pa : BitVec 52) (b : List Byte) :
    (s.writePhys pa b).watchCounts = s.watchCounts := rfl
@[simp] theorem State.writePhys_sinks (s : State) (pa : BitVec 52) (b : List Byte) :
    (s.writePhys pa b).sinks = s.sinks := rfl
@[simp] theorem State.writePhys_sampleSinks (s : State) (pa : BitVec 52) (b : List Byte) :
    (s.writePhys pa b).sampleSinks = s.sampleSinks := rfl
@[simp] theorem State.writePhys_samplers (s : State) (pa : BitVec 52) (b : List Byte) :
    (s.writePhys pa b).samplers = s.samplers := rfl
@[simp] theorem State.writePhys_exited (s : State) (pa : BitVec 52) (b : List Byte) :
    (s.writePhys pa b).exited = s.exited := rfl
@[simp] theorem State.writePhys_msix (s : State) (pa : BitVec 52) (b : List Byte) :
    (s.writePhys pa b).msix = s.msix := rfl
@[simp] theorem State.writePhys_replies (s : State) (pa : BitVec 52) (b : List Byte) :
    (s.writePhys pa b).replies = s.replies := rfl
@[simp] theorem State.writePhys_power (s : State) (pa : BitVec 52) (b : List Byte) :
    (s.writePhys pa b).power = s.power := rfl
@[simp] theorem State.writePhys_firmware (s : State) (pa : BitVec 52) (b : List Byte) :
    (s.writePhys pa b).firmware = s.firmware := rfl
@[simp] theorem State.writePhys_inactive (s : State) (pa : BitVec 52) (b : List Byte) :
    (s.writePhys pa b).inactive = s.inactive := rfl
@[simp] theorem State.writePhys_onHd1 (s : State) (pa : BitVec 52) (b : List Byte) :
    (s.writePhys pa b).onHd1 = s.onHd1 := rfl
@[simp] theorem State.writePhys_service (s : State) (pa : BitVec 52) (b : List Byte) :
    (s.writePhys pa b).service = s.service := rfl
@[simp] theorem State.writePhys_reserving (s : State) (pa : BitVec 52) (b : List Byte) :
    (s.writePhys pa b).reserving = s.reserving := rfl
@[simp] theorem State.writePhys_agenda (s : State) (pa : BitVec 52) (b : List Byte) :
    (s.writePhys pa b).agenda = s.agenda := rfl
@[simp] theorem State.writePhys_tick (s : State) (pa : BitVec 52) (b : List Byte) :
    (s.writePhys pa b).tick = s.tick := rfl
@[simp] theorem State.writePhys_free (s : State) (pa : BitVec 52) (b : List Byte) :
    (s.writePhys pa b).free = s.free := rfl
@[simp] theorem State.writePhys_order (s : State) (pa : BitVec 52) (b : List Byte) :
    (s.writePhys pa b).order = s.order := rfl
@[simp] theorem State.writePhys_stepping (s : State) (pa : BitVec 52) (b : List Byte) :
    (s.writePhys pa b).stepping = s.stepping := rfl

/-! ## State.writeBank -/

@[simp] theorem State.writeBank_gang (s : State) (a : BitVec 29) (b : List Byte) :
    (s.writeBank a b).gang = s.gang := rfl
@[simp] theorem State.writeBank_grp (s : State) (a : BitVec 29) (b : List Byte) : (s.writeBank a b).grp = s.grp := rfl
@[simp] theorem State.writeBank_k (s : State) (a : BitVec 29) (b : List Byte) : (s.writeBank a b).k = s.k := rfl
@[simp] theorem State.writeBank_peers (s : State) (a : BitVec 29) (b : List Byte) :
    (s.writeBank a b).peers = s.peers := rfl
@[simp] theorem State.writeBank_others (s : State) (a : BitVec 29) (b : List Byte) :
    (s.writeBank a b).others = s.others := rfl
@[simp] theorem State.writeBank_evicted (s : State) (a : BitVec 29) (b : List Byte) :
    (s.writeBank a b).evicted = s.evicted := rfl
@[simp] theorem State.writeBank_bands (s : State) (a : BitVec 29) (b : List Byte) :
    (s.writeBank a b).bands = s.bands := rfl
@[simp] theorem State.writeBank_contexts (s : State) (a : BitVec 29) (b : List Byte) :
    (s.writeBank a b).contexts = s.contexts := rfl
@[simp] theorem State.writeBank_images (s : State) (a : BitVec 29) (b : List Byte) :
    (s.writeBank a b).images = s.images := rfl
@[simp] theorem State.writeBank_mem (s : State) (a : BitVec 29) (b : List Byte) : (s.writeBank a b).mem = s.mem := rfl
@[simp] theorem State.writeBank_lineKeys (s : State) (a : BitVec 29) (b : List Byte) :
    (s.writeBank a b).lineKeys = s.lineKeys := rfl
@[simp] theorem State.writeBank_tlb (s : State) (a : BitVec 29) (b : List Byte) : (s.writeBank a b).tlb = s.tlb := rfl
@[simp] theorem State.writeBank_dieTlb (s : State) (a : BitVec 29) (b : List Byte) :
    (s.writeBank a b).dieTlb = s.dieTlb := rfl
@[simp] theorem State.writeBank_tables (s : State) (a : BitVec 29) (b : List Byte) :
    (s.writeBank a b).tables = s.tables := rfl
@[simp] theorem State.writeBank_recCache (s : State) (a : BitVec 29) (b : List Byte) :
    (s.writeBank a b).recCache = s.recCache := rfl
@[simp] theorem State.writeBank_faults (s : State) (a : BitVec 29) (b : List Byte) :
    (s.writeBank a b).faults = s.faults := rfl
@[simp] theorem State.writeBank_tier1Free (s : State) (a : BitVec 29) (b : List Byte) :
    (s.writeBank a b).tier1Free = s.tier1Free := rfl
@[simp] theorem State.writeBank_tier2Free (s : State) (a : BitVec 29) (b : List Byte) :
    (s.writeBank a b).tier2Free = s.tier2Free := rfl
@[simp] theorem State.writeBank_uncorrectable (s : State) (a : BitVec 29) (b : List Byte) :
    (s.writeBank a b).uncorrectable = s.uncorrectable := rfl
@[simp] theorem State.writeBank_badBank (s : State) (a : BitVec 29) (b : List Byte) :
    (s.writeBank a b).badBank = s.badBank := rfl
@[simp] theorem State.writeBank_time (s : State) (a : BitVec 29) (b : List Byte) :
    (s.writeBank a b).time = s.time := rfl
@[simp] theorem State.writeBank_slewedAt (s : State) (a : BitVec 29) (b : List Byte) :
    (s.writeBank a b).slewedAt = s.slewedAt := rfl
@[simp] theorem State.writeBank_cycles (s : State) (a : BitVec 29) (b : List Byte) :
    (s.writeBank a b).cycles = s.cycles := rfl
@[simp] theorem State.writeBank_lost (s : State) (a : BitVec 29) (b : List Byte) :
    (s.writeBank a b).lost = s.lost := rfl
@[simp] theorem State.writeBank_coreStart (s : State) (a : BitVec 29) (b : List Byte) :
    (s.writeBank a b).coreStart = s.coreStart := rfl
@[simp] theorem State.writeBank_device (s : State) (a : BitVec 29) (b : List Byte) :
    (s.writeBank a b).device = s.device := rfl
@[simp] theorem State.writeBank_exports (s : State) (a : BitVec 29) (b : List Byte) :
    (s.writeBank a b).exports = s.exports := rfl
@[simp] theorem State.writeBank_remoteHolders (s : State) (a : BitVec 29) (b : List Byte) :
    (s.writeBank a b).remoteHolders = s.remoteHolders := rfl
@[simp] theorem State.writeBank_down (s : State) (a : BitVec 29) (b : List Byte) :
    (s.writeBank a b).down = s.down := rfl
@[simp] theorem State.writeBank_watchCounts (s : State) (a : BitVec 29) (b : List Byte) :
    (s.writeBank a b).watchCounts = s.watchCounts := rfl
@[simp] theorem State.writeBank_sinks (s : State) (a : BitVec 29) (b : List Byte) :
    (s.writeBank a b).sinks = s.sinks := rfl
@[simp] theorem State.writeBank_sampleSinks (s : State) (a : BitVec 29) (b : List Byte) :
    (s.writeBank a b).sampleSinks = s.sampleSinks := rfl
@[simp] theorem State.writeBank_samplers (s : State) (a : BitVec 29) (b : List Byte) :
    (s.writeBank a b).samplers = s.samplers := rfl
@[simp] theorem State.writeBank_exited (s : State) (a : BitVec 29) (b : List Byte) :
    (s.writeBank a b).exited = s.exited := rfl
@[simp] theorem State.writeBank_msix (s : State) (a : BitVec 29) (b : List Byte) :
    (s.writeBank a b).msix = s.msix := rfl
@[simp] theorem State.writeBank_replies (s : State) (a : BitVec 29) (b : List Byte) :
    (s.writeBank a b).replies = s.replies := rfl
@[simp] theorem State.writeBank_power (s : State) (a : BitVec 29) (b : List Byte) :
    (s.writeBank a b).power = s.power := rfl
@[simp] theorem State.writeBank_firmware (s : State) (a : BitVec 29) (b : List Byte) :
    (s.writeBank a b).firmware = s.firmware := rfl
@[simp] theorem State.writeBank_inactive (s : State) (a : BitVec 29) (b : List Byte) :
    (s.writeBank a b).inactive = s.inactive := rfl
@[simp] theorem State.writeBank_onHd1 (s : State) (a : BitVec 29) (b : List Byte) :
    (s.writeBank a b).onHd1 = s.onHd1 := rfl
@[simp] theorem State.writeBank_service (s : State) (a : BitVec 29) (b : List Byte) :
    (s.writeBank a b).service = s.service := rfl
@[simp] theorem State.writeBank_reserving (s : State) (a : BitVec 29) (b : List Byte) :
    (s.writeBank a b).reserving = s.reserving := rfl
@[simp] theorem State.writeBank_agenda (s : State) (a : BitVec 29) (b : List Byte) :
    (s.writeBank a b).agenda = s.agenda := rfl
@[simp] theorem State.writeBank_tick (s : State) (a : BitVec 29) (b : List Byte) :
    (s.writeBank a b).tick = s.tick := rfl
@[simp] theorem State.writeBank_free (s : State) (a : BitVec 29) (b : List Byte) :
    (s.writeBank a b).free = s.free := rfl
@[simp] theorem State.writeBank_order (s : State) (a : BitVec 29) (b : List Byte) :
    (s.writeBank a b).order = s.order := rfl
@[simp] theorem State.writeBank_stepping (s : State) (a : BitVec 29) (b : List Byte) :
    (s.writeBank a b).stepping = s.stepping := rfl

/-! ## Group.updSplit -/

@[simp] theorem Group.updSplit_idx (g : Group) (k : BitVec 2) (f : Split → Split) : (g.updSplit k f).idx = g.idx := rfl
@[simp] theorem Group.updSplit_live (g : Group) (k : BitVec 2) (f : Split → Split) :
    (g.updSplit k f).live = g.live := rfl
@[simp] theorem Group.updSplit_v (g : Group) (k : BitVec 2) (f : Split → Split) : (g.updSplit k f).v = g.v := rfl
@[simp] theorem Group.updSplit_s (g : Group) (k : BitVec 2) (f : Split → Split) : (g.updSplit k f).s = g.s := rfl
@[simp] theorem Group.updSplit_m (g : Group) (k : BitVec 2) (f : Split → Split) : (g.updSplit k f).m = g.m := rfl
@[simp] theorem Group.updSplit_vEmpty (g : Group) (k : BitVec 2) (f : Split → Split) :
    (g.updSplit k f).vEmpty = g.vEmpty := rfl
@[simp] theorem Group.updSplit_sEmpty (g : Group) (k : BitVec 2) (f : Split → Split) :
    (g.updSplit k f).sEmpty = g.sEmpty := rfl
@[simp] theorem Group.updSplit_mEmpty (g : Group) (k : BitVec 2) (f : Split → Split) :
    (g.updSplit k f).mEmpty = g.mEmpty := rfl
@[simp] theorem Group.updSplit_overflow (g : Group) (k : BitVec 2) (f : Split → Split) :
    (g.updSplit k f).overflow = g.overflow := rfl
@[simp] theorem Group.updSplit_counters (g : Group) (k : BitVec 2) (f : Split → Split) :
    (g.updSplit k f).counters = g.counters := rfl
@[simp] theorem Group.updSplit_flight (g : Group) (k : BitVec 2) (f : Split → Split) :
    (g.updSplit k f).flight = g.flight := rfl
@[simp] theorem Group.updSplit_rq (g : Group) (k : BitVec 2) (f : Split → Split) : (g.updSplit k f).rq = g.rq := rfl
@[simp] theorem Group.updSplit_due (g : Group) (k : BitVec 2) (f : Split → Split) : (g.updSplit k f).due = g.due := rfl
@[simp] theorem Group.updSplit_frame (g : Group) (k : BitVec 2) (f : Split → Split) :
    (g.updSplit k f).frame = g.frame := rfl
@[simp] theorem Group.updSplit_tsf (g : Group) (k : BitVec 2) (f : Split → Split) : (g.updSplit k f).tsf = g.tsf := rfl
@[simp] theorem Group.updSplit_aef (g : Group) (k : BitVec 2) (f : Split → Split) : (g.updSplit k f).aef = g.aef := rfl
@[simp] theorem Group.updSplit_tracectl (g : Group) (k : BitVec 2) (f : Split → Split) :
    (g.updSplit k f).tracectl = g.tracectl := rfl
@[simp] theorem Group.updSplit_nextId (g : Group) (k : BitVec 2) (f : Split → Split) :
    (g.updSplit k f).nextId = g.nextId := rfl
@[simp] theorem Group.updSplit_killed (g : Group) (k : BitVec 2) (f : Split → Split) :
    (g.updSplit k f).killed = g.killed := rfl
@[simp] theorem Group.updSplit_retired (g : Group) (k : BitVec 2) (f : Split → Split) :
    (g.updSplit k f).retired = g.retired := rfl
@[simp] theorem Group.updSplit_inActive (g : Group) (k : BitVec 2) (f : Split → Split) :
    (g.updSplit k f).inActive = g.inActive := rfl
@[simp] theorem Group.updSplit_entered (g : Group) (k : BitVec 2) (f : Split → Split) :
    (g.updSplit k f).entered = g.entered := rfl
@[simp] theorem Group.updSplit_slot (g : Group) (k : BitVec 2) (f : Split → Split) :
    (g.updSplit k f).slot = g.slot := rfl
@[simp] theorem Group.updSplit_idle (g : Group) (k : BitVec 2) (f : Split → Split) :
    (g.updSplit k f).idle = g.idle := rfl
@[simp] theorem Group.updSplit_behind (g : Group) (k : BitVec 2) (f : Split → Split) :
    (g.updSplit k f).behind = g.behind := rfl
@[simp] theorem Group.updSplit_wasReady (g : Group) (k : BitVec 2) (f : Split → Split) :
    (g.updSplit k f).wasReady = g.wasReady := rfl
@[simp] theorem Group.updSplit_exitAt (g : Group) (k : BitVec 2) (f : Split → Split) :
    (g.updSplit k f).exitAt = g.exitAt := rfl
@[simp] theorem Group.updSplit_waitIn (g : Group) (k : BitVec 2) (f : Split → Split) :
    (g.updSplit k f).waitIn = g.waitIn := rfl
@[simp] theorem Group.updSplit_fabricErr (g : Group) (k : BitVec 2) (f : Split → Split) :
    (g.updSplit k f).fabricErr = g.fabricErr := rfl
@[simp] theorem Group.updSplit_fabricVa (g : Group) (k : BitVec 2) (f : Split → Split) :
    (g.updSplit k f).fabricVa = g.fabricVa := rfl
@[simp] theorem Group.updSplit_logs (g : Group) (k : BitVec 2) (f : Split → Split) :
    (g.updSplit k f).logs = g.logs := rfl
@[simp] theorem Group.updSplit_flushes (g : Group) (k : BitVec 2) (f : Split → Split) :
    (g.updSplit k f).flushes = g.flushes := rfl
@[simp] theorem Group.updSplit_brBits (g : Group) (k : BitVec 2) (f : Split → Split) :
    (g.updSplit k f).brBits = g.brBits := rfl
@[simp] theorem Group.updSplit_brSplit (g : Group) (k : BitVec 2) (f : Split → Split) :
    (g.updSplit k f).brSplit = g.brSplit := rfl
@[simp] theorem Group.updSplit_brCount (g : Group) (k : BitVec 2) (f : Split → Split) :
    (g.updSplit k f).brCount = g.brCount := rfl
@[simp] theorem Group.updSplit_syncDue (g : Group) (k : BitVec 2) (f : Split → Split) :
    (g.updSplit k f).syncDue = g.syncDue := rfl
@[simp] theorem Group.updSplit_quiet (g : Group) (k : BitVec 2) (f : Split → Split) :
    (g.updSplit k f).quiet = g.quiet := rfl
@[simp] theorem Group.updSplit_exitPc (g : Group) (k : BitVec 2) (f : Split → Split) :
    (g.updSplit k f).exitPc = g.exitPc := rfl
@[simp] theorem Group.updSplit_tsAt (g : Group) (k : BitVec 2) (f : Split → Split) :
    (g.updSplit k f).tsAt = g.tsAt := rfl
@[simp] theorem Group.updSplit_retiredAt (g : Group) (k : BitVec 2) (f : Split → Split) :
    (g.updSplit k f).retiredAt = g.retiredAt := rfl

/-! ## Group.setV -/

@[simp] theorem Group.setV_idx (g : Group) (r lane : Nat) (x : W32) : (g.setV r lane x).idx = g.idx := rfl
@[simp] theorem Group.setV_live (g : Group) (r lane : Nat) (x : W32) : (g.setV r lane x).live = g.live := rfl
@[simp] theorem Group.setV_s (g : Group) (r lane : Nat) (x : W32) : (g.setV r lane x).s = g.s := rfl
@[simp] theorem Group.setV_m (g : Group) (r lane : Nat) (x : W32) : (g.setV r lane x).m = g.m := rfl
@[simp] theorem Group.setV_vEmpty (g : Group) (r lane : Nat) (x : W32) : (g.setV r lane x).vEmpty = g.vEmpty := rfl
@[simp] theorem Group.setV_sEmpty (g : Group) (r lane : Nat) (x : W32) : (g.setV r lane x).sEmpty = g.sEmpty := rfl
@[simp] theorem Group.setV_mEmpty (g : Group) (r lane : Nat) (x : W32) : (g.setV r lane x).mEmpty = g.mEmpty := rfl
@[simp] theorem Group.setV_splits (g : Group) (r lane : Nat) (x : W32) : (g.setV r lane x).splits = g.splits := rfl
@[simp] theorem Group.setV_overflow (g : Group) (r lane : Nat) (x : W32) :
    (g.setV r lane x).overflow = g.overflow := rfl
@[simp] theorem Group.setV_counters (g : Group) (r lane : Nat) (x : W32) :
    (g.setV r lane x).counters = g.counters := rfl
@[simp] theorem Group.setV_flight (g : Group) (r lane : Nat) (x : W32) : (g.setV r lane x).flight = g.flight := rfl
@[simp] theorem Group.setV_rq (g : Group) (r lane : Nat) (x : W32) : (g.setV r lane x).rq = g.rq := rfl
@[simp] theorem Group.setV_due (g : Group) (r lane : Nat) (x : W32) : (g.setV r lane x).due = g.due := rfl
@[simp] theorem Group.setV_frame (g : Group) (r lane : Nat) (x : W32) : (g.setV r lane x).frame = g.frame := rfl
@[simp] theorem Group.setV_tsf (g : Group) (r lane : Nat) (x : W32) : (g.setV r lane x).tsf = g.tsf := rfl
@[simp] theorem Group.setV_aef (g : Group) (r lane : Nat) (x : W32) : (g.setV r lane x).aef = g.aef := rfl
@[simp] theorem Group.setV_tracectl (g : Group) (r lane : Nat) (x : W32) :
    (g.setV r lane x).tracectl = g.tracectl := rfl
@[simp] theorem Group.setV_nextId (g : Group) (r lane : Nat) (x : W32) : (g.setV r lane x).nextId = g.nextId := rfl
@[simp] theorem Group.setV_killed (g : Group) (r lane : Nat) (x : W32) : (g.setV r lane x).killed = g.killed := rfl
@[simp] theorem Group.setV_retired (g : Group) (r lane : Nat) (x : W32) : (g.setV r lane x).retired = g.retired := rfl
@[simp] theorem Group.setV_inActive (g : Group) (r lane : Nat) (x : W32) :
    (g.setV r lane x).inActive = g.inActive := rfl
@[simp] theorem Group.setV_entered (g : Group) (r lane : Nat) (x : W32) : (g.setV r lane x).entered = g.entered := rfl
@[simp] theorem Group.setV_slot (g : Group) (r lane : Nat) (x : W32) : (g.setV r lane x).slot = g.slot := rfl
@[simp] theorem Group.setV_idle (g : Group) (r lane : Nat) (x : W32) : (g.setV r lane x).idle = g.idle := rfl
@[simp] theorem Group.setV_behind (g : Group) (r lane : Nat) (x : W32) : (g.setV r lane x).behind = g.behind := rfl
@[simp] theorem Group.setV_wasReady (g : Group) (r lane : Nat) (x : W32) : (g.setV r lane x).wasReady = g.wasReady := rfl
@[simp] theorem Group.setV_exitAt (g : Group) (r lane : Nat) (x : W32) : (g.setV r lane x).exitAt = g.exitAt := rfl
@[simp] theorem Group.setV_waitIn (g : Group) (r lane : Nat) (x : W32) : (g.setV r lane x).waitIn = g.waitIn := rfl
@[simp] theorem Group.setV_fabricErr (g : Group) (r lane : Nat) (x : W32) :
    (g.setV r lane x).fabricErr = g.fabricErr := rfl
@[simp] theorem Group.setV_fabricVa (g : Group) (r lane : Nat) (x : W32) :
    (g.setV r lane x).fabricVa = g.fabricVa := rfl
@[simp] theorem Group.setV_logs (g : Group) (r lane : Nat) (x : W32) : (g.setV r lane x).logs = g.logs := rfl
@[simp] theorem Group.setV_flushes (g : Group) (r lane : Nat) (x : W32) : (g.setV r lane x).flushes = g.flushes := rfl
@[simp] theorem Group.setV_brBits (g : Group) (r lane : Nat) (x : W32) : (g.setV r lane x).brBits = g.brBits := rfl
@[simp] theorem Group.setV_brSplit (g : Group) (r lane : Nat) (x : W32) : (g.setV r lane x).brSplit = g.brSplit := rfl
@[simp] theorem Group.setV_brCount (g : Group) (r lane : Nat) (x : W32) : (g.setV r lane x).brCount = g.brCount := rfl
@[simp] theorem Group.setV_syncDue (g : Group) (r lane : Nat) (x : W32) : (g.setV r lane x).syncDue = g.syncDue := rfl
@[simp] theorem Group.setV_quiet (g : Group) (r lane : Nat) (x : W32) : (g.setV r lane x).quiet = g.quiet := rfl
@[simp] theorem Group.setV_exitPc (g : Group) (r lane : Nat) (x : W32) : (g.setV r lane x).exitPc = g.exitPc := rfl
@[simp] theorem Group.setV_tsAt (g : Group) (r lane : Nat) (x : W32) : (g.setV r lane x).tsAt = g.tsAt := rfl
@[simp] theorem Group.setV_retiredAt (g : Group) (r lane : Nat) (x : W32) :
    (g.setV r lane x).retiredAt = g.retiredAt := rfl

/-! ## Group.setM -/

@[simp] theorem Group.setM_idx (g : Group) (r lane : Nat) (x : W64) : (g.setM r lane x).idx = g.idx := rfl
@[simp] theorem Group.setM_live (g : Group) (r lane : Nat) (x : W64) : (g.setM r lane x).live = g.live := rfl
@[simp] theorem Group.setM_v (g : Group) (r lane : Nat) (x : W64) : (g.setM r lane x).v = g.v := rfl
@[simp] theorem Group.setM_s (g : Group) (r lane : Nat) (x : W64) : (g.setM r lane x).s = g.s := rfl
@[simp] theorem Group.setM_vEmpty (g : Group) (r lane : Nat) (x : W64) : (g.setM r lane x).vEmpty = g.vEmpty := rfl
@[simp] theorem Group.setM_sEmpty (g : Group) (r lane : Nat) (x : W64) : (g.setM r lane x).sEmpty = g.sEmpty := rfl
@[simp] theorem Group.setM_mEmpty (g : Group) (r lane : Nat) (x : W64) : (g.setM r lane x).mEmpty = g.mEmpty := rfl
@[simp] theorem Group.setM_splits (g : Group) (r lane : Nat) (x : W64) : (g.setM r lane x).splits = g.splits := rfl
@[simp] theorem Group.setM_overflow (g : Group) (r lane : Nat) (x : W64) :
    (g.setM r lane x).overflow = g.overflow := rfl
@[simp] theorem Group.setM_counters (g : Group) (r lane : Nat) (x : W64) :
    (g.setM r lane x).counters = g.counters := rfl
@[simp] theorem Group.setM_flight (g : Group) (r lane : Nat) (x : W64) : (g.setM r lane x).flight = g.flight := rfl
@[simp] theorem Group.setM_rq (g : Group) (r lane : Nat) (x : W64) : (g.setM r lane x).rq = g.rq := rfl
@[simp] theorem Group.setM_due (g : Group) (r lane : Nat) (x : W64) : (g.setM r lane x).due = g.due := rfl
@[simp] theorem Group.setM_frame (g : Group) (r lane : Nat) (x : W64) : (g.setM r lane x).frame = g.frame := rfl
@[simp] theorem Group.setM_tsf (g : Group) (r lane : Nat) (x : W64) : (g.setM r lane x).tsf = g.tsf := rfl
@[simp] theorem Group.setM_aef (g : Group) (r lane : Nat) (x : W64) : (g.setM r lane x).aef = g.aef := rfl
@[simp] theorem Group.setM_tracectl (g : Group) (r lane : Nat) (x : W64) :
    (g.setM r lane x).tracectl = g.tracectl := rfl
@[simp] theorem Group.setM_nextId (g : Group) (r lane : Nat) (x : W64) : (g.setM r lane x).nextId = g.nextId := rfl
@[simp] theorem Group.setM_killed (g : Group) (r lane : Nat) (x : W64) : (g.setM r lane x).killed = g.killed := rfl
@[simp] theorem Group.setM_retired (g : Group) (r lane : Nat) (x : W64) : (g.setM r lane x).retired = g.retired := rfl
@[simp] theorem Group.setM_inActive (g : Group) (r lane : Nat) (x : W64) :
    (g.setM r lane x).inActive = g.inActive := rfl
@[simp] theorem Group.setM_entered (g : Group) (r lane : Nat) (x : W64) : (g.setM r lane x).entered = g.entered := rfl
@[simp] theorem Group.setM_slot (g : Group) (r lane : Nat) (x : W64) : (g.setM r lane x).slot = g.slot := rfl
@[simp] theorem Group.setM_idle (g : Group) (r lane : Nat) (x : W64) : (g.setM r lane x).idle = g.idle := rfl
@[simp] theorem Group.setM_behind (g : Group) (r lane : Nat) (x : W64) : (g.setM r lane x).behind = g.behind := rfl
@[simp] theorem Group.setM_wasReady (g : Group) (r lane : Nat) (x : W64) : (g.setM r lane x).wasReady = g.wasReady := rfl
@[simp] theorem Group.setM_exitAt (g : Group) (r lane : Nat) (x : W64) : (g.setM r lane x).exitAt = g.exitAt := rfl
@[simp] theorem Group.setM_waitIn (g : Group) (r lane : Nat) (x : W64) : (g.setM r lane x).waitIn = g.waitIn := rfl
@[simp] theorem Group.setM_fabricErr (g : Group) (r lane : Nat) (x : W64) :
    (g.setM r lane x).fabricErr = g.fabricErr := rfl
@[simp] theorem Group.setM_fabricVa (g : Group) (r lane : Nat) (x : W64) :
    (g.setM r lane x).fabricVa = g.fabricVa := rfl
@[simp] theorem Group.setM_logs (g : Group) (r lane : Nat) (x : W64) : (g.setM r lane x).logs = g.logs := rfl
@[simp] theorem Group.setM_flushes (g : Group) (r lane : Nat) (x : W64) : (g.setM r lane x).flushes = g.flushes := rfl
@[simp] theorem Group.setM_brBits (g : Group) (r lane : Nat) (x : W64) : (g.setM r lane x).brBits = g.brBits := rfl
@[simp] theorem Group.setM_brSplit (g : Group) (r lane : Nat) (x : W64) : (g.setM r lane x).brSplit = g.brSplit := rfl
@[simp] theorem Group.setM_brCount (g : Group) (r lane : Nat) (x : W64) : (g.setM r lane x).brCount = g.brCount := rfl
@[simp] theorem Group.setM_syncDue (g : Group) (r lane : Nat) (x : W64) : (g.setM r lane x).syncDue = g.syncDue := rfl
@[simp] theorem Group.setM_quiet (g : Group) (r lane : Nat) (x : W64) : (g.setM r lane x).quiet = g.quiet := rfl
@[simp] theorem Group.setM_exitPc (g : Group) (r lane : Nat) (x : W64) : (g.setM r lane x).exitPc = g.exitPc := rfl
@[simp] theorem Group.setM_tsAt (g : Group) (r lane : Nat) (x : W64) : (g.setM r lane x).tsAt = g.tsAt := rfl
@[simp] theorem Group.setM_retiredAt (g : Group) (r lane : Nat) (x : W64) :
    (g.setM r lane x).retiredAt = g.retiredAt := rfl

/-! ## Group.setS -/

@[simp] theorem Group.setS_idx (g : Group) (r : BitVec 6) (x : W64) : (g.setS r x).idx = g.idx := by
  unfold Group.setS; split <;> rfl
@[simp] theorem Group.setS_live (g : Group) (r : BitVec 6) (x : W64) : (g.setS r x).live = g.live := by
  unfold Group.setS; split <;> rfl
@[simp] theorem Group.setS_v (g : Group) (r : BitVec 6) (x : W64) : (g.setS r x).v = g.v := by
  unfold Group.setS; split <;> rfl
@[simp] theorem Group.setS_m (g : Group) (r : BitVec 6) (x : W64) : (g.setS r x).m = g.m := by
  unfold Group.setS; split <;> rfl
@[simp] theorem Group.setS_vEmpty (g : Group) (r : BitVec 6) (x : W64) : (g.setS r x).vEmpty = g.vEmpty := by
  unfold Group.setS; split <;> rfl
@[simp] theorem Group.setS_sEmpty (g : Group) (r : BitVec 6) (x : W64) : (g.setS r x).sEmpty = g.sEmpty := by
  unfold Group.setS; split <;> rfl
@[simp] theorem Group.setS_mEmpty (g : Group) (r : BitVec 6) (x : W64) : (g.setS r x).mEmpty = g.mEmpty := by
  unfold Group.setS; split <;> rfl
@[simp] theorem Group.setS_splits (g : Group) (r : BitVec 6) (x : W64) : (g.setS r x).splits = g.splits := by
  unfold Group.setS; split <;> rfl
@[simp] theorem Group.setS_overflow (g : Group) (r : BitVec 6) (x : W64) : (g.setS r x).overflow = g.overflow := by
  unfold Group.setS; split <;> rfl
@[simp] theorem Group.setS_counters (g : Group) (r : BitVec 6) (x : W64) : (g.setS r x).counters = g.counters := by
  unfold Group.setS; split <;> rfl
@[simp] theorem Group.setS_flight (g : Group) (r : BitVec 6) (x : W64) : (g.setS r x).flight = g.flight := by
  unfold Group.setS; split <;> rfl
@[simp] theorem Group.setS_rq (g : Group) (r : BitVec 6) (x : W64) : (g.setS r x).rq = g.rq := by
  unfold Group.setS; split <;> rfl
@[simp] theorem Group.setS_due (g : Group) (r : BitVec 6) (x : W64) : (g.setS r x).due = g.due := by
  unfold Group.setS; split <;> rfl
@[simp] theorem Group.setS_frame (g : Group) (r : BitVec 6) (x : W64) : (g.setS r x).frame = g.frame := by
  unfold Group.setS; split <;> rfl
@[simp] theorem Group.setS_tsf (g : Group) (r : BitVec 6) (x : W64) : (g.setS r x).tsf = g.tsf := by
  unfold Group.setS; split <;> rfl
@[simp] theorem Group.setS_aef (g : Group) (r : BitVec 6) (x : W64) : (g.setS r x).aef = g.aef := by
  unfold Group.setS; split <;> rfl
@[simp] theorem Group.setS_tracectl (g : Group) (r : BitVec 6) (x : W64) : (g.setS r x).tracectl = g.tracectl := by
  unfold Group.setS; split <;> rfl
@[simp] theorem Group.setS_nextId (g : Group) (r : BitVec 6) (x : W64) : (g.setS r x).nextId = g.nextId := by
  unfold Group.setS; split <;> rfl
@[simp] theorem Group.setS_killed (g : Group) (r : BitVec 6) (x : W64) : (g.setS r x).killed = g.killed := by
  unfold Group.setS; split <;> rfl
@[simp] theorem Group.setS_retired (g : Group) (r : BitVec 6) (x : W64) : (g.setS r x).retired = g.retired := by
  unfold Group.setS; split <;> rfl
@[simp] theorem Group.setS_inActive (g : Group) (r : BitVec 6) (x : W64) : (g.setS r x).inActive = g.inActive := by
  unfold Group.setS; split <;> rfl
@[simp] theorem Group.setS_entered (g : Group) (r : BitVec 6) (x : W64) : (g.setS r x).entered = g.entered := by
  unfold Group.setS; split <;> rfl
@[simp] theorem Group.setS_slot (g : Group) (r : BitVec 6) (x : W64) : (g.setS r x).slot = g.slot := by
  unfold Group.setS; split <;> rfl
@[simp] theorem Group.setS_idle (g : Group) (r : BitVec 6) (x : W64) : (g.setS r x).idle = g.idle := by
  unfold Group.setS; split <;> rfl
@[simp] theorem Group.setS_behind (g : Group) (r : BitVec 6) (x : W64) : (g.setS r x).behind = g.behind := by
  unfold Group.setS; split <;> rfl
@[simp] theorem Group.setS_wasReady (g : Group) (r : BitVec 6) (x : W64) : (g.setS r x).wasReady = g.wasReady := by
  unfold Group.setS; split <;> rfl
@[simp] theorem Group.setS_exitAt (g : Group) (r : BitVec 6) (x : W64) : (g.setS r x).exitAt = g.exitAt := by
  unfold Group.setS; split <;> rfl
@[simp] theorem Group.setS_waitIn (g : Group) (r : BitVec 6) (x : W64) : (g.setS r x).waitIn = g.waitIn := by
  unfold Group.setS; split <;> rfl
@[simp] theorem Group.setS_fabricErr (g : Group) (r : BitVec 6) (x : W64) : (g.setS r x).fabricErr = g.fabricErr := by
  unfold Group.setS; split <;> rfl
@[simp] theorem Group.setS_fabricVa (g : Group) (r : BitVec 6) (x : W64) : (g.setS r x).fabricVa = g.fabricVa := by
  unfold Group.setS; split <;> rfl
@[simp] theorem Group.setS_logs (g : Group) (r : BitVec 6) (x : W64) : (g.setS r x).logs = g.logs := by
  unfold Group.setS; split <;> rfl
@[simp] theorem Group.setS_flushes (g : Group) (r : BitVec 6) (x : W64) : (g.setS r x).flushes = g.flushes := by
  unfold Group.setS; split <;> rfl
@[simp] theorem Group.setS_brBits (g : Group) (r : BitVec 6) (x : W64) : (g.setS r x).brBits = g.brBits := by
  unfold Group.setS; split <;> rfl
@[simp] theorem Group.setS_brSplit (g : Group) (r : BitVec 6) (x : W64) : (g.setS r x).brSplit = g.brSplit := by
  unfold Group.setS; split <;> rfl
@[simp] theorem Group.setS_brCount (g : Group) (r : BitVec 6) (x : W64) : (g.setS r x).brCount = g.brCount := by
  unfold Group.setS; split <;> rfl
@[simp] theorem Group.setS_syncDue (g : Group) (r : BitVec 6) (x : W64) : (g.setS r x).syncDue = g.syncDue := by
  unfold Group.setS; split <;> rfl
@[simp] theorem Group.setS_quiet (g : Group) (r : BitVec 6) (x : W64) : (g.setS r x).quiet = g.quiet := by
  unfold Group.setS; split <;> rfl
@[simp] theorem Group.setS_exitPc (g : Group) (r : BitVec 6) (x : W64) : (g.setS r x).exitPc = g.exitPc := by
  unfold Group.setS; split <;> rfl
@[simp] theorem Group.setS_tsAt (g : Group) (r : BitVec 6) (x : W64) : (g.setS r x).tsAt = g.tsAt := by
  unfold Group.setS; split <;> rfl
@[simp] theorem Group.setS_retiredAt (g : Group) (r : BitVec 6) (x : W64) : (g.setS r x).retiredAt = g.retiredAt := by
  unfold Group.setS; split <;> rfl

/-! ## The split table -/

@[simp] theorem SplitTable.get_set (t : SplitTable) (k : BitVec 2) (x : Split) : (t.set k x).get k = x := by
  obtain rfl | rfl | rfl | rfl : k = 0 ∨ k = 1 ∨ k = 2 ∨ k = 3 := by revert k; decide
  all_goals rfl

theorem SplitTable.get_set_ne (t : SplitTable) (k j : BitVec 2) (x : Split) (h : j ≠ k) : (t.set k x).get j = t.get j := by
  have hk : k = 0 ∨ k = 1 ∨ k = 2 ∨ k = 3 := by clear h; revert k; decide
  have hj : j = 0 ∨ j = 1 ∨ j = 2 ∨ j = 3 := by clear h hk; revert j; decide
  rcases hk with rfl | rfl | rfl | rfl <;> rcases hj with rfl | rfl | rfl | rfl <;>
    first | rfl | exact absurd rfl h

/-! ## The executing split -/

@[simp] theorem State.updSp_sp (s : State) (f : Split → Split) : (s.updSp f).sp = f s.sp := by
  simp [State.updSp, State.sp, Group.updSplit]

@[simp] theorem State.goto_pc (s : State) (pc : W64) : (s.goto pc).sp.pc = pc := by simp [State.goto]
@[simp] theorem State.goto_mode (s : State) (pc : W64) : (s.goto pc).mode = s.mode := by simp [State.goto, State.mode]
@[simp] theorem State.goto_mask (s : State) (pc : W64) : (s.goto pc).sp.mask = s.sp.mask := by simp [State.goto]
@[simp] theorem State.advance_pc (s : State) : s.advance.sp.pc = s.sp.pc + 4 := by simp [State.advance]
@[simp] theorem State.advance_mode (s : State) : s.advance.mode = s.mode := by simp [State.advance]
@[simp] theorem State.writeS_sp (s : State) (r : BitVec 6) (x : W64) : (s.writeS r x).sp = s.sp := by
  simp [State.writeS, State.sp]

/-! ## Scalar registers (04 R41) -/

@[simp] theorem Group.sreg_zero (g : Group) : g.sreg 0 = 0 := rfl

theorem Group.sreg_setS (g : Group) (r q : BitVec 6) (x : W64) :
    (g.setS r x).sreg q = if q = r ∧ r ≠ 0 then x else g.sreg q := by
  unfold Group.setS Group.sreg
  by_cases hr : r = 0
  · subst hr; by_cases hq : q = 0 <;> simp [hq]
  · by_cases hq : q = 0
    · subst hq
      simp only [↓reduceIte]
      split
      · next h => exact absurd h.1.symm hr
      · rfl
    · simp only [hr, hq, ↓reduceIte, SMap.get_set, BitVec.toNat_inj]
      by_cases h : q = r
      · subst h; rw [if_pos rfl, if_pos ⟨rfl, hr⟩]
      · simp [h]

theorem State.readS_writeS (s : State) (r q : BitVec 6) (x : W64) :
    (s.writeS r x).readS q = if q = r ∧ r ≠ 0 then x else s.readS q := Group.sreg_setS s.grp r q x

@[simp] theorem State.readS_updSp (s : State) (f : Split → Split) (q : BitVec 6) :
    (s.updSp f).readS q = s.readS q := rfl
@[simp] theorem State.readS_goto (s : State) (pc : W64) (q : BitVec 6) : (s.goto pc).readS q = s.readS q := rfl
@[simp] theorem State.readS_advance (s : State) (q : BitVec 6) : s.advance.readS q = s.readS q := rfl

/-! ## Vector registers (04 R44) -/

theorem Group.vreg_setV (g : Group) (r q l i : Nat) (x : W32) (hl : l < 64) (hi : i < 64) :
    (g.setV r l x).vreg q i = if q = r ∧ i = l then x else g.vreg q i := by
  unfold Group.setV Group.vreg
  rw [SMap.get_set]
  have : (64 * q + i = 64 * r + l) ↔ (q = r ∧ i = l) := by omega
  simp [this]

/-- What a list of lane values leaves in every lane: the last value given for it, else what it held. -/
theorem Group.vreg_putV (r q i : Nat) (f : Nat → W32) (l : List Nat) (g : Group) (hl : ∀ j ∈ l, j < 64) (hi : i < 64) :
    (g.putV r (l.map fun j => (j, f j))).vreg q i = if q = r ∧ i ∈ l then f i else g.vreg q i := by
  induction l generalizing g with
  | nil => simp [Group.putV]
  | cons j t ih =>
    simp only [List.map_cons, Group.putV]
    rw [ih _ fun x hx => hl x (List.mem_cons_of_mem _ hx), Group.vreg_setV _ _ _ _ _ _ (hl j (List.mem_cons_self ..)) hi]
    by_cases hq : q = r <;> by_cases ht : i ∈ t <;> by_cases hj : i = j <;> simp_all

theorem lanesOf_lt {m : Mask} {l : Nat} (h : l ∈ lanesOf m) : l < 64 := List.mem_range.1 (List.mem_filter.1 h).1

theorem mem_lanesOf {m : Mask} {l : Nat} : l ∈ lanesOf m ↔ l < 64 ∧ m.getLsbD l = true := by simp [lanesOf]

end Sys2Proof.Machine
end

