-- ==== Sys2Proof/Laws/Issue.lean ====
section
/-!
SUPPORT. Sys2Proof/Laws/Issue.lean: an instruction that stands ready has its effect, and each other outcome of an issue.
-/

namespace Sys2Proof.Machine

/-- No SYNC is written where none is due (22 R349). -/
theorem State.traceSync_quiet (s : State) (h : (s.tracing && s.grp.syncDue) = false) : s.traceSync = s := by
  simp [State.traceSync, h]

/-- Where no predicate looks at the PC, an instruction has its effect alone (22 R332). -/
theorem State.watchThen_quiet (s : State) (f : State → State) (h : s.pcQuiet = true) : s.watchThen f = f s := by
  simp [State.watchThen, h]

/-- A ready instruction has its effect. -/
theorem State.issue_of_ready (s : State) (u : Use) (f : State → State) (h : s.Ready u) : s.issue u f = f s := by
  obtain ⟨hc, hd, ht, hr, hf, hy, hp, he, hu⟩ := h
  simp [State.issue, hc, hd, State.traceSync_quiet s ht, hr, hf, hy, he, hu, State.watchThen_quiet s f hp]

/-- A ready typed instruction of an accepted type has its effect (05 R67). -/
theorem State.typed_of_ready (s : State) (acc : BitVec 5 → Bool) (u : Use) (f : State → State) (h : s.Ready u)
    (ha : acc s.ty = true) : s.typed acc u f = f s := by
  simp [State.typed, State.issue_of_ready s u _ h, ha]

/-- A ready typed instruction of another type traps and has no other effect (05 R67). -/
theorem State.typed_refused (s : State) (acc : BitVec 5 → Bool) (u : Use) (f : State → State) (h : s.Ready u)
    (ha : acc s.ty = false) : s.typed acc u f = s.trap cTYPE_UNSUPPORTED := by
  simp [State.typed, State.issue_of_ready s u _ h, ha]

/-- A ready scalar instruction writes its destination and goes on (05 R81). -/
theorem State.scalar_of_ready (s : State) (u : Use) (d : BitVec 6) (f : State → W64) (h : s.Ready u) :
    s.scalar u d f = (s.writeS d (f s)).advance := State.issue_of_ready s u _ h

/-- An instruction of a split that may not issue changes nothing. -/
theorem State.issue_of_not_canIssue (s : State) (u : Use) (f : State → State) (h : s.canIssue = false) :
    s.issue u f = s := by simp [State.issue, h]

/-- A trap that is due is taken before any instruction (18 R288). -/
theorem State.issue_of_due (s : State) (u : Use) (f : State → State) (h : s.canIssue = true)
    (hd : s.grp.due.isEmpty = false) : s.issue u f = s.takeDue := by simp [State.issue, h, hd]

/-- A handler's instruction inside a handler has its effect (18 R295). -/
theorem State.inHandler_of_ready (s : State) (u : Use) (f : State → State) (h : s.Ready u)
    (ha : s.grp.frame.active = true) : s.inHandler u f = f s := by
  simp [State.inHandler, State.issue_of_ready s u _ h, ha]

/-- A step of an agent acts with the group it names in focus (95). -/
theorem State.onGroup_of_focus (s t : State) (r : GroupRef) (f : State → State) (hc : s.captured r.gang.vf = false)
    (h : s.focus r = some t) : s.onGroup r f = f t := by simp [State.onGroup, hc, h]

/-- The group in focus, named, is in focus already (03 R20). -/
theorem State.focus_self (s : State) (h : s.gang.present = true) : s.focus s.self = some s := by
  simp [State.focus, State.focusGang, State.focusGroup, State.self, Gang.isRef, h]

/-- A change made in the group in focus. -/
theorem State.onGroup_self (s : State) (f : State → State) (h : s.gang.present = true)
    (hc : s.captured s.gang.vf = false) : s.onGroup s.self f = f s :=
  State.onGroup_of_focus s s s.self f hc (State.focus_self s h)

end Sys2Proof.Machine
end

