-- ==== Sys2Proof/Laws/Kept.lean ====
section
/-!
SUPPORT. Sys2Proof/Laws/Kept.lean: every shared operation keeps the memories in their canonical form: one lemma per
operation, named after it.
-/

-- one theorem after another: in parallel they take more memory than the package may
set_option Elab.async false


namespace Sys2Proof.Machine

/-- Both memories are in their canonical form. -/
def State.Wf (s : State) : Prop := Memory.wf s.mem = true ∧ Memory.wf s.bank = true

/-- An outcome that goes on does so with memories in their canonical form. -/
def Out.Wf : Host.Outcome State Fault Refusal → Prop
  | .next t => t.Wf
  | _ => True

/-- So for an operation that may have no result, -/
def OptWf : Option State → Prop
  | some t => t.Wf
  | none => True

/-- that may give a status instead, -/
def ExcWf {ε : Type} : Except ε State → Prop
  | .ok t => t.Wf
  | .error _ => True

/-- for the pass of an engine, -/
def Pass.Wf {α : Type} : Pass α → Prop
  | .ok _ _ s => s.Wf
  | .held _ s => s.Wf
  | .fault _ s => s.Wf

/-- for a fetch, -/
def Fetched.Wf : Fetched → Prop
  | .word _ s => s.Wf
  | .stop s => s.Wf

/-- for the fetch of a record, -/
def RecFetch.Wf : RecFetch → Prop
  | .ok s => s.Wf
  | .hold _ _ _ s => s.Wf
  | .trap _ _ s => s.Wf
  | .wait => True

/-- and for what a step of a waiting split does. -/
def StepWf : Option (State × W64) → Prop
  | some x => x.1.Wf
  | none => True

theorem State.memWf_iff (s : State) : s.memWf = true ↔ s.Wf := by simp [State.memWf, State.Wf]

/-! ## Folds and lists of bytes -/

theorem foldl_wf {α : Type} (f : State → α → State) (hf : ∀ t x, t.Wf → (f t x).Wf) (l : List α) (s : State)
    (h : s.Wf) : (l.foldl f s).Wf := by
  induction l generalizing s with
  | nil => exact h
  | cons x t ih => exact ih _ (hf s x h)

theorem foldl_map_wf {α : Type} (f : Memory → α → Memory) (hf : ∀ m x, Memory.wf m = true → Memory.wf (f m x) = true)
    (l : List α) (m : Memory) (h : Memory.wf m = true) : Memory.wf (l.foldl f m) = true := by
  induction l generalizing m with
  | nil => exact h
  | cons x t ih => exact ih _ (hf m x h)

theorem getD_wf (o : Option State) (d : State) (h0 : OptWf o) (h1 : d.Wf) : (o.getD d).Wf := by
  cases o <;> grind -linarith -ring -lia -order -ac [OptWf]

theorem bind_wf (o : Option State) (f : State → Option State) (h0 : OptWf o) (h1 : ∀ t, t.Wf → OptWf (f t)) :
    OptWf (o.bind f) := by
  cases o <;> grind -linarith -ring -lia -order -ac [OptWf]

theorem writeRing_wf (base size tail : W64) (b : List Byte) (m : Memory) (h : Memory.wf m = true) :
    Memory.wf (writeRing base size tail b m) = true := by
  fun_induction writeRing <;> grind -linarith -ring -lia -order -ac [Memory.wf, SMap.wf_set]

theorem copyRange_wf (m : Memory) (src dst n : Nat) (h : Memory.wf m = true) :
    Memory.wf (copyRange m src dst n) = true :=
  foldl_map_wf _ (fun _ _ ht => SMap.wf_set _ _ _ ht) _ _ (SMap.wf_filter _ m h)

theorem putTiers_wf (l : List (BitVec 52 × Byte)) (m : Memory) (h : Memory.wf m = true) :
    Memory.wf (putTiers l m) = true := by
  fun_induction putTiers <;> grind -linarith -ring -lia -order -ac [Memory.wf, SMap.wf_set]

/-! ## Memory -/

theorem State.updCtx_wf (s : State) (vf : BitVec 7) (f : Context → Context) (h0 : s.Wf) : (State.updCtx s vf f).Wf :=
    by
  unfold State.updCtx
  exact h0

theorem State.raiseMsix_wf (s : State) (vf : BitVec 7) (vec : BitVec 2) (h0 : s.Wf) : (State.raiseMsix s vf vec).Wf :=
    by
  unfold State.raiseMsix
  exact h0

theorem State.fresh_wf (s : State) (h0 : s.Wf) : (State.fresh s).2.Wf := by unfold State.fresh; exact h0

theorem State.writePhys_wf (s : State) (pa : BitVec 52) (b : List Byte) (h0 : s.Wf) : (State.writePhys s pa b).Wf :=
    by
  unfold State.writePhys
  grind -linarith -ring -lia -order -ac (splits := 30) [Memory.wf, SMap.wf_setRange, SMap.wf_filter, SMap.wf_set, writeRing_wf, getD_wf, State.Wf,
    Out.Wf, OptWf, ExcWf, Pass.Wf, Fetched.Wf]

theorem State.writeBank_wf (s : State) (a : BitVec 29) (b : List Byte) (h0 : s.Wf) : (State.writeBank s a b).Wf := by
  unfold State.writeBank
  grind -linarith -ring -lia -order -ac (splits := 30) [Memory.wf, SMap.wf_setRange, SMap.wf_filter, SMap.wf_set, writeRing_wf, getD_wf, State.Wf,
    Out.Wf, OptWf, ExcWf, Pass.Wf, Fetched.Wf]

theorem State.readAny_wf (s : State) (pa : BitVec 52) (n : Nat) (h0 : s.Wf) : (State.readAny s pa n).2.Wf := by
  unfold State.readAny
  grind -linarith -ring -lia -order -ac [State.Wf, State.fresh_wf]

theorem State.rekey_wf (s : State) (line : BitVec 46) (k : BitVec 13) (h0 : s.Wf) : (State.rekey s line k).Wf := by
  unfold State.rekey
  grind -linarith -ring -lia -order -ac [State.Wf, Out.Wf, OptWf, ExcWf, Pass.Wf, Fetched.Wf, RecFetch.Wf, StepWf, State.writePhys_wf]

theorem State.writeKeyed_wf (s : State) (pa : BitVec 52) (key : Option (BitVec 13)) (b : List Byte) (h0 : s.Wf) :
    (State.writeKeyed s pa key b).Wf := by
  unfold State.writeKeyed
  split
  · exact State.writePhys_wf _ _ _ h0
  · exact State.writePhys_wf _ _ _ (foldl_wf _ (fun t x ht => State.rekey_wf _ _ _ ht) _ _ h0)

theorem State.readLine_wf (s : State) (pa : BitVec 52) (n : Nat) (v : Via) (h0 : s.Wf) : (State.readLine s pa n
    v).2.Wf := by
  unfold State.readLine
  grind -linarith -ring -lia -order -ac [State.Wf, Out.Wf, OptWf, ExcWf, Pass.Wf, Fetched.Wf, RecFetch.Wf, StepWf, State.writePhys_wf]

theorem State.writeBoth_wf (s : State) (pa : BitVec 52) (v : Via) (b : List Byte) (h0 : s.Wf) : (State.writeBoth s pa
    v b).Wf := by
  unfold State.writeBoth
  grind -linarith -ring -lia -order -ac [State.Wf, Out.Wf, OptWf, ExcWf, Pass.Wf, Fetched.Wf, RecFetch.Wf, StepWf, State.writeKeyed_wf]

theorem State.fabric_wf (s : State) (pa : BitVec 52) (h0 : s.Wf) : (State.fabric s pa).2.Wf := by
  unfold State.fabric
  grind -linarith -ring -lia -order -ac [State.Wf, State.fresh_wf]

theorem State.readPa_wf (s : State) (pa : BitVec 52) (n : Nat) (v : Via) (h0 : s.Wf) : (State.readPa s pa n v).2.Wf
    := by
  unfold State.readPa
  repeat' split
  all_goals grind -linarith -ring -lia -order -ac [State.Wf, Out.Wf, OptWf, ExcWf, Pass.Wf, Fetched.Wf, RecFetch.Wf, StepWf, State.fabric_wf,
      State.readAny_wf, State.readLine_wf]

theorem State.writePa_wf (s : State) (pa : BitVec 52) (v : Via) (b : List Byte) (h0 : s.Wf) : (State.writePa s pa v
    b).2.Wf := by
  unfold State.writePa
  grind -linarith -ring -lia -order -ac [State.Wf, Out.Wf, OptWf, ExcWf, Pass.Wf, Fetched.Wf, RecFetch.Wf, StepWf, State.fabric_wf,
      State.writeBoth_wf]

theorem State.logDirty_wf (s : State) (vf : BitVec 7) (va : W64) (level : Nat) (h0 : s.Wf) : (State.logDirty s vf va
    level).Wf := by
  unfold State.logDirty
  grind -linarith -ring -lia -order -ac [State.Wf, State.updCtx_wf, State.writePhys_wf]

theorem State.cacheTables_wf (s : State) (vf : BitVec 7) (core : CoreId) (va : W64) (h0 : s.Wf) : (State.cacheTables
    s vf core va).Wf := by
  unfold State.cacheTables
  grind -linarith -ring -lia -order -ac [State.Wf, Out.Wf, OptWf, ExcWf, Pass.Wf, Fetched.Wf, RecFetch.Wf, StepWf]

theorem State.cacheLeaf_wf (s : State) (t : TlbEntry) (h0 : s.Wf) : (State.cacheLeaf s t).Wf := by
  unfold State.cacheLeaf
  grind -linarith -ring -lia -order -ac [State.Wf, Out.Wf, OptWf, ExcWf, Pass.Wf, Fetched.Wf, RecFetch.Wf, StepWf]

theorem State.markLeaf_wf (s : State) (vf : BitVec 7) (core : CoreId) (va : W64) (level : Nat) (e : BitVec 128) (at_
    : BitVec 52) (w : Bool) (h0 : s.Wf) : (State.markLeaf s vf core va level e at_ w).Wf := by
  unfold State.markLeaf
  grind -linarith -ring -lia -order -ac [State.Wf, Out.Wf, OptWf, ExcWf, Pass.Wf, Fetched.Wf, RecFetch.Wf, StepWf, State.logDirty_wf,
      State.writePhys_wf, State.cacheLeaf_wf]

theorem State.useLeaf_wf (s : State) (vf : BitVec 7) (core : CoreId) (va : W64) (acc : Access) (level : Nat) (e :
    BitVec 128) (at_ : BitVec 52) (h0 : s.Wf) : (State.useLeaf s vf core va acc level e at_).2.Wf := by
  unfold State.useLeaf
  grind -linarith -ring -lia -order -ac [State.Wf, State.markLeaf_wf]

theorem State.translate_wf (s : State) (vf : BitVec 7) (core : CoreId) (va : W64) (acc : Access) (h0 : s.Wf) :
    (State.translate s vf core va acc).2.Wf := by
  unfold State.translate
  repeat' split
  all_goals grind -linarith -ring -lia -order -ac [State.Wf, Out.Wf, OptWf, ExcWf, Pass.Wf, Fetched.Wf, RecFetch.Wf, StepWf, State.useLeaf_wf,
      State.cacheTables_wf]

theorem State.readVirt_wf (s : State) (vf : BitVec 7) (core : CoreId) (y3 : W64) (y4 : Nat) (h0 : s.Wf) :
    (State.readVirt s vf core y3 y4).2.Wf := by
  revert h0
  fun_induction State.readVirt <;> intro h0 <;> grind -linarith -ring -lia -order -ac [State.Wf, Out.Wf, OptWf, ExcWf, Pass.Wf, Fetched.Wf,
      RecFetch.Wf, StepWf, State.readPa_wf, State.translate_wf]

theorem State.placeVirt_wf (s : State) (vf : BitVec 7) (core : CoreId) (y3 : W64) (y4 : List Byte) (h0 : s.Wf) :
    (State.placeVirt s vf core y3 y4).2.Wf := by
  revert h0
  fun_induction State.placeVirt <;> intro h0 <;> grind -linarith -ring -lia -order -ac [State.Wf, Out.Wf, OptWf, ExcWf, Pass.Wf, Fetched.Wf,
      RecFetch.Wf, StepWf, State.translate_wf]

theorem State.writePlaces_wf (y0 : List (BitVec 52 × Via × Byte)) (y1 : State) (h0 : y1.Wf) : (State.writePlaces y0
    y1).2.Wf := by
  revert h0
  fun_induction State.writePlaces <;> intro h0 <;> grind -linarith -ring -lia -order -ac [State.Wf, Out.Wf, OptWf, ExcWf, Pass.Wf, Fetched.Wf,
      RecFetch.Wf, StepWf, State.writePa_wf]

theorem State.writeVirt_wf (s : State) (vf : BitVec 7) (core : CoreId) (va : W64) (b : List Byte) (h0 : s.Wf) : OptWf
    (State.writeVirt s vf core va b) := by
  unfold State.writeVirt
  repeat' split
  all_goals grind -linarith -ring -lia -order -ac [State.Wf, Out.Wf, OptWf, ExcWf, Pass.Wf, Fetched.Wf, RecFetch.Wf, StepWf, State.placeVirt_wf,
      State.writePlaces_wf]

/-! ## Access -/

theorem State.setCopy_wf (s : State) (n : BitVec 10) (r : W256) (h0 : s.Wf) : (State.setCopy s n r).Wf := by
  unfold State.setCopy
  grind -linarith -ring -lia -order -ac [State.Wf, Out.Wf, OptWf, ExcWf, Pass.Wf, Fetched.Wf, RecFetch.Wf, StepWf]

theorem State.translateAll_wf (s : State) (a : Access) (y2 : List Acc) (h0 : s.Wf) : (State.translateAll s a y2).2.Wf
    := by
  revert h0
  fun_induction State.translateAll <;> intro h0 <;> grind -linarith -ring -lia -order -ac [State.Wf, State.translate_wf]

theorem forwardLoop_wf (vf : BitVec 7) (y1 : List (BitVec 3 × BitVec 12)) (y2 : State) (h0 : y2.Wf) : (forwardLoop vf
    y1 y2).Wf := by
  revert h0
  fun_induction forwardLoop <;> intro h0 <;> grind -linarith -ring -lia -order -ac [State.Wf, State.updCtx_wf, State.writePhys_wf, State.raiseMsix_wf]

theorem State.forward_wf (s : State) (vf : BitVec 7) (h0 : s.Wf) : (State.forward s vf).Wf := by
  unfold State.forward
  grind -linarith -ring -lia -order -ac [State.Wf, forwardLoop_wf]

theorem State.postFault_wf (s : State) (split : BitVec 2) (part : Nat) (va : W64) (level : BitVec 3) (mot : Bool)
    (src : BitVec 3) (w : Bool) (h0 : s.Wf) : (State.postFault s split part va level mot src w).Wf := by
  unfold State.postFault
  repeat' split
  all_goals grind -linarith -ring -lia -order -ac [State.Wf, Out.Wf, OptWf, ExcWf, Pass.Wf, Fetched.Wf, RecFetch.Wf, StepWf, State.fresh_wf,
      State.forward_wf, State.updCtx_wf]

theorem State.translateEntry_wf (s : State) (e : Entry) (h0 : s.Wf) : (State.translateEntry s e).2.Wf := by
  unfold State.translateEntry
  grind -linarith -ring -lia -order -ac [State.Wf, State.translateAll_wf, State.postFault_wf]

theorem State.loadEntry_wf (s : State) (e : Entry) (h0 : s.Wf) : (State.loadEntry s e).2.Wf := by
  unfold State.loadEntry
  grind -linarith -ring -lia -order -ac [State.Wf, State.translateEntry_wf]

theorem State.readGmem_wf (s : State) (a : Nat) (n : Nat) (h0 : s.Wf) : (State.readGmem s a n).2.Wf := by
  unfold State.readGmem
  grind -linarith -ring -lia -order -ac [State.Wf, Out.Wf, OptWf, ExcWf, Pass.Wf, Fetched.Wf, RecFetch.Wf, StepWf]

theorem State.readBankLine_wf (s : State) (a : BitVec 29) (n : Nat) (h0 : s.Wf) : (State.readBankLine s a n).2.Wf :=
    by
  unfold State.readBankLine
  grind -linarith -ring -lia -order -ac [State.Wf, Out.Wf, OptWf, ExcWf, Pass.Wf, Fetched.Wf, RecFetch.Wf, StepWf]

theorem orUncorrectable_wf (x : Option (List Byte) × State) (h0 : x.2.Wf) : (orUncorrectable x).2.Wf := h0

theorem State.readAcc_wf (s : State) (a : Acc) (h0 : s.Wf) : (State.readAcc s a).2.Wf := by
  unfold State.readAcc
  split
  · exact h0
  · exact orUncorrectable_wf _ (State.readGmem_wf _ _ _ h0)
  · exact orUncorrectable_wf _ (State.readBankLine_wf _ _ _ h0)
  · exact State.readPa_wf _ _ _ _ h0

theorem State.writeAcc_wf (s : State) (a : Acc) (b : List Byte) (h0 : s.Wf) : (State.writeAcc s a b).2.Wf := by
  unfold State.writeAcc
  grind -linarith -ring -lia -order -ac [State.Wf, Out.Wf, OptWf, ExcWf, Pass.Wf, Fetched.Wf, RecFetch.Wf, StepWf, State.writeBank_wf,
      State.writePa_wf]

theorem State.readAccs_wf (s : State) (y1 : List Acc) (h0 : s.Wf) : (State.readAccs s y1).2.Wf := by
  revert h0
  fun_induction State.readAccs <;> intro h0 <;> grind -linarith -ring -lia -order -ac [State.Wf, State.readAcc_wf]

/-! ## Focus -/

theorem State.keeping_wf (s : State) (t : State) (l : List Reg) (h0 : s.Wf) (h1 : t.Wf) : (State.keeping s t l).Wf :=
    by
  unfold State.keeping
  grind -linarith -ring -lia -order -ac [State.Wf]

theorem State.writeS_wf (s : State) (r : BitVec 6) (y2 : W64) (h0 : s.Wf) : (State.writeS s r y2).Wf := by
  unfold State.writeS
  grind -linarith -ring -lia -order -ac [State.Wf, Out.Wf, OptWf, ExcWf, Pass.Wf, Fetched.Wf, RecFetch.Wf, StepWf]

theorem State.writeV_wf (s : State) (r : Nat) (f : Nat → W32) (h0 : s.Wf) : (State.writeV s r f).Wf := by
  unfold State.writeV
  exact h0

theorem State.writePair_wf (s : State) (r : Nat) (f : Nat → W64) (h0 : s.Wf) : (State.writePair s r f).Wf := by
  unfold State.writePair
  exact h0

theorem State.writeM_wf (s : State) (r : Nat) (f : Nat → W64) (h0 : s.Wf) : (State.writeM s r f).Wf := by
  unfold State.writeM
  exact h0

theorem State.updSp_wf (s : State) (f : Split → Split) (h0 : s.Wf) : (State.updSp s f).Wf := by
  unfold State.updSp
  exact h0

theorem State.goto_wf (s : State) (pc : W64) (h0 : s.Wf) : (State.goto s pc).Wf := by unfold State.goto; exact h0

theorem State.issuing_wf (s : State) (h0 : s.Wf) : (State.issuing s).Wf := by
  unfold State.issuing
  exact h0

theorem State.waitIn_wf (s : State) (st : SplitState) (h0 : s.Wf) : (State.waitIn s st).Wf := by
  unfold State.waitIn
  exact h0

theorem State.advance_wf (s : State) (h0 : s.Wf) : (State.advance s).Wf := by unfold State.advance; exact h0

theorem State.focusGang_wf (s : State) (r : GangRef) (h0 : s.Wf) : OptWf (State.focusGang s r) := by
  unfold State.focusGang
  grind -linarith -ring -lia -order -ac [State.Wf, OptWf]

theorem State.focusGroup_wf (s : State) (i : BitVec 5) (h0 : s.Wf) : OptWf (State.focusGroup s i) := by
  unfold State.focusGroup
  grind -linarith -ring -lia -order -ac [State.Wf, OptWf]

theorem State.focus_wf (s : State) (r : GroupRef) (h0 : s.Wf) : OptWf (State.focus s r) := by
  unfold State.focus
  exact bind_wf _ _ (State.focusGang_wf s r.gang h0) fun t ht => State.focusGroup_wf t r.group ht

theorem State.at_wf (s : State) (r : GroupRef) (f : State → State) (h0 : s.Wf) (h1 : ∀ t, t.Wf → (f t ).Wf) :
    (State.at s r f).Wf := by
  unfold State.at
  grind -linarith -ring -lia -order -ac [State.Wf, OptWf, State.focus_wf]

theorem State.onGroup_wf (s : State) (r : GroupRef) (f : State → State) (h0 : s.Wf) (h1 : ∀ t, t.Wf → (f t ).Wf) :
    (State.onGroup s r f).Wf := by
  unfold State.onGroup
  grind -linarith -ring -lia -order -ac [State.Wf, OptWf, State.focus_wf]

theorem State.onImage_wf (s : State) (r : GroupRef) (f : State → State) (h0 : s.Wf) (h1 : ∀ t, t.Wf → (f t).Wf) :
    (State.onImage s r f).Wf := by
  unfold State.onImage
  repeat' split
  all_goals grind -linarith -ring -lia -order -ac [State.Wf, Out.Wf, OptWf, ExcWf, Pass.Wf, Fetched.Wf, RecFetch.Wf, StepWf, State.focus_wf]

theorem State.onFlight_wf (s : State) (r : GroupRef) (f : State → State) (h0 : s.Wf) (h1 : ∀ t, t.Wf → (f t).Wf) :
    (State.onFlight s r f).Wf := by
  unfold State.onFlight
  grind -linarith -ring -lia -order -ac [State.Wf, Out.Wf, OptWf, ExcWf, Pass.Wf, Fetched.Wf, RecFetch.Wf, StepWf, State.focus_wf, State.onImage_wf,
      State.onGroup_wf]

theorem State.mapGang_wf (s : State) (f : Group → Group) (h0 : s.Wf) : (State.mapGang s f).Wf := by
  unfold State.mapGang
  exact h0

theorem State.mapWhere_wf (s : State) (p : Gang → Bool) (f : Group → Group) (h0 : s.Wf) : (State.mapWhere s p f).Wf :=
    by
  unfold State.mapWhere
  grind -linarith -ring -lia -order -ac [State.Wf, State.mapGang_wf]

theorem State.pend_wf (s : State) (d : Due) (h0 : s.Wf) : (State.pend s d).Wf := by
  unfold State.pend; split <;> exact h0

theorem State.saved_wf (s : State) (p : Piece) (pc : W64) (h0 : s.Wf) : (State.saved s p pc).Wf := by
  unfold State.saved
  grind -linarith -ring -lia -order -ac [State.Wf, Out.Wf, OptWf, ExcWf, Pass.Wf, Fetched.Wf, RecFetch.Wf, StepWf,
    State.pend_wf]

theorem State.saveWrite_wf (s : State) (vf : BitVec 7) (offset : Nat) (b : List Byte) (h0 : s.Wf) : (State.saveWrite s
    vf offset b).Wf := by
  unfold State.saveWrite
  grind -linarith -ring -lia -order -ac (splits := 30) [Memory.wf, SMap.wf_setRange, SMap.wf_filter, SMap.wf_set,
    writeRing_wf, getD_wf, State.Wf, Out.Wf, OptWf, ExcWf, Pass.Wf, Fetched.Wf, RecFetch.Wf, StepWf,
    State.writeVirt_wf]

/-! ## Trace -/

theorem State.putSink_wf (s : State) (die : BitVec 3) (b : List Byte) (h0 : s.Wf) : (State.putSink s die b).Wf := by
  unfold State.putSink
  grind -linarith -ring -lia -order -ac (splits := 30) [Memory.wf, SMap.wf_setRange, SMap.wf_filter, SMap.wf_set, writeRing_wf, getD_wf, State.Wf,
    Out.Wf, OptWf, ExcWf, Pass.Wf, Fetched.Wf, State.mapWhere_wf]

theorem State.emit_wf (s : State) (kind : Nat) (payload : List Byte) (h0 : s.Wf) : (State.emit s kind payload).Wf :=
    by
  unfold State.emit
  grind -linarith -ring -lia -order -ac [State.Wf, State.putSink_wf]

theorem State.flushBits_wf (s : State) (h0 : s.Wf) : (State.flushBits s).Wf := by
  unfold State.flushBits
  grind -linarith -ring -lia -order -ac [State.Wf, State.emit_wf]

theorem State.packet_wf (s : State) (kind : Nat) (payload : List Byte) (h0 : s.Wf) : (State.packet s kind payload).Wf
    := by
  unfold State.packet
  grind -linarith -ring -lia -order -ac [State.Wf, State.emit_wf, State.flushBits_wf]

theorem State.traceSync_wf (s : State) (h0 : s.Wf) : (State.traceSync s).Wf := by
  unfold State.traceSync
  grind -linarith -ring -lia -order -ac [State.Wf, State.packet_wf]

theorem State.traceBit_wf (s : State) (taken : Bool) (h0 : s.Wf) : (State.traceBit s taken).Wf := by
  unfold State.traceBit
  grind -linarith -ring -lia -order -ac [State.Wf, State.flushBits_wf]

theorem State.traceInd_wf (s : State) (k : BitVec 2) (target : W64) (h0 : s.Wf) : (State.traceInd s k target).Wf := by
  unfold State.traceInd
  grind -linarith -ring -lia -order -ac [State.Wf, State.packet_wf]

theorem State.traceSplit_wf (s : State) (source : Nat) (new : Nat) (reason : Nat) (mask : Mask) (pc : W64) (h0 : s.Wf)
    : (State.traceSplit s source new reason mask pc).Wf := by
  unfold State.traceSplit
  grind -linarith -ring -lia -order -ac [State.Wf, State.packet_wf]

theorem State.traceExc_wf (s : State) (k : BitVec 2) (cause : BitVec 9) (kind : Nat) (pc : W64) (h0 : s.Wf) :
    (State.traceExc s k cause kind pc).Wf := by
  unfold State.traceExc
  grind -linarith -ring -lia -order -ac [State.Wf, State.packet_wf]

theorem tracePromotions_wf (before : Group) (y1 : List (BitVec 2 × Split)) (y2 : State) (h0 : y2.Wf) :
    (tracePromotions before y1 y2).Wf := by
  revert h0
  fun_induction tracePromotions <;> intro h0 <;> grind -linarith -ring -lia -order -ac [State.Wf, State.traceSplit_wf]

theorem State.traceFreed_wf (s : State) (k : BitVec 2) (mask : Mask) (gone : List (BitVec 2 × Split)) (reason : Nat)
    (h0 : s.Wf) : (State.traceFreed s k mask gone reason).Wf := by
  unfold State.traceFreed
  grind -linarith -ring -lia -order -ac [State.Wf, Out.Wf, OptWf, ExcWf, Pass.Wf, Fetched.Wf, RecFetch.Wf, StepWf, State.packet_wf]

theorem traceMerges_wf (before : Group) (y1 : List (BitVec 2 × Split)) (y2 : State) (h0 : y2.Wf) : (traceMerges
    before y1 y2).Wf := by
  revert h0
  fun_induction traceMerges <;> intro h0 <;> grind -linarith -ring -lia -order -ac [State.Wf, Out.Wf, OptWf, ExcWf, Pass.Wf, Fetched.Wf, RecFetch.Wf,
      StepWf, State.traceFreed_wf]

theorem State.traceMerge_wf (s : State) (before : Group) (k : BitVec 2) (reason : Nat) (h0 : s.Wf) :
    (State.traceMerge s before k reason).Wf := by
  unfold State.traceMerge
  grind -linarith -ring -lia -order -ac [State.Wf, Out.Wf, OptWf, ExcWf, Pass.Wf, Fetched.Wf, RecFetch.Wf, StepWf, State.traceFreed_wf,
      tracePromotions_wf, traceMerges_wf]

/-! ## Watch -/

theorem State.setWatchCount_wf (s : State) (p : BitVec 4) (n : BitVec 16) (f : W32) (h0 : s.Wf) : (State.setWatchCount
    s p n f).Wf := by
  unfold State.setWatchCount
  exact h0

theorem State.evaluate_wf (s : State) (vals : Sources) (y2 : List (BitVec 4 × W256)) (h0 : s.Wf) : (State.evaluate s
    vals y2).1.Wf := by
  revert h0
  fun_induction State.evaluate <;> intro h0 <;> grind -linarith -ring -lia -order -ac [State.Wf, State.setWatchCount_wf]

theorem State.logHit_wf (s : State) (h : BitVec 128) (h0 : s.Wf) : (State.logHit s h).Wf := by
  unfold State.logHit
  grind -linarith -ring -lia -order -ac [State.Wf, Out.Wf, OptWf, ExcWf, Pass.Wf, Fetched.Wf, RecFetch.Wf, StepWf, State.updCtx_wf]

theorem State.holdLane_wf (s : State) (k : BitVec 2) (lane : Nat) (h : Stop) (h0 : s.Wf) : (State.holdLane s k lane
    h).Wf := by
  unfold State.holdLane
  repeat' split
  all_goals grind -linarith -ring -lia -order -ac [State.Wf, Out.Wf, OptWf, ExcWf, Pass.Wf, Fetched.Wf, RecFetch.Wf, StepWf, State.traceSplit_wf]

theorem State.logFirings_wf (s : State) (fs : List Firing) (act : BitVec 3) (split : BitVec 2) (skid : Nat) (pc : W64)
    (h0 : s.Wf) : (State.logFirings s fs act split skid pc).1.Wf := by
  unfold State.logFirings
  have h : (List.foldl State.logHit s (fs.map fun f => s.hitRecord f act split skid pc)).Wf :=
    foldl_wf _ (fun t x ht => State.logHit_wf t x ht) _ _ h0
  dsimp only
  split
  · exact h
  · exact State.saved_wf _ _ _ h

theorem State.halt_wf (s : State) (act : BitVec 3) (k : BitVec 2) (lane : Nat) (src : BitVec 4) (h : Stop) (h0 :
    s.Wf) : (State.halt s act k lane src h).Wf := by
  unfold State.halt
  repeat' split
  all_goals grind -linarith -ring -lia -order -ac [State.Wf, Out.Wf, OptWf, ExcWf, Pass.Wf, Fetched.Wf, RecFetch.Wf, StepWf, State.holdLane_wf,
      State.mapGang_wf]

theorem State.actOn_wf (s : State) (fs : List Firing) (k : BitVec 2) (skid : Nat) (pc : W64) (h0 : s.Wf) :
    (State.actOn s fs k skid pc).Wf := by
  unfold State.actOn
  grind -linarith -ring -lia -order -ac [State.Wf, State.logFirings_wf, State.halt_wf]

theorem State.watchAll_wf (s : State) (vals : Sources) (pc : W64) (h0 : s.Wf) : (State.watchAll s vals pc).Wf := by
  unfold State.watchAll
  grind -linarith -ring -lia -order -ac [State.Wf, State.evaluate_wf, State.actOn_wf]

theorem State.watch_wf (s : State) (src : BitVec 4) (vals : List (Nat × W64)) (pc : W64) (h0 : s.Wf) : (State.watch s
    src vals pc).Wf := by
  unfold State.watch
  grind -linarith -ring -lia -order -ac [State.Wf, State.watchAll_wf]

theorem State.watchPc_wf (s : State) (h0 : s.Wf) : (State.watchPc s).1.Wf := by
  unfold State.watchPc
  grind -linarith -ring -lia -order -ac [State.Wf, State.evaluate_wf]

/-! ## Ops -/

theorem State.recordError_wf (s : State) (cause : BitVec 9) (pc : W64) (h0 : s.Wf) : (State.recordError s cause pc).Wf
    := by
  unfold State.recordError
  grind -linarith -ring -lia -order -ac [State.Wf, State.updCtx_wf, State.raiseMsix_wf]

theorem State.appendLog_wf (s : State) (l : List (BitVec 128)) (h0 : s.Wf) : (State.appendLog s l).Wf := by
  unfold State.appendLog
  grind -linarith -ring -lia -order -ac [State.Wf, Out.Wf, OptWf, ExcWf, Pass.Wf, Fetched.Wf, RecFetch.Wf, StepWf,
    State.saved_wf, State.updCtx_wf]

theorem State.flushLogs_wf (s : State) (h0 : s.Wf) : (State.flushLogs s).Wf := by
  unfold State.flushLogs
  grind -linarith -ring -lia -order -ac [State.Wf, Out.Wf, OptWf, ExcWf, Pass.Wf, Fetched.Wf, RecFetch.Wf, StepWf,
    State.appendLog_wf]

theorem State.sendFlushes_wf (s : State) (h0 : s.Wf) : (State.sendFlushes s).Wf := by
  unfold State.sendFlushes
  grind -linarith -ring -lia -order -ac [State.Wf, Out.Wf, OptWf, ExcWf, Pass.Wf, Fetched.Wf, RecFetch.Wf, StepWf, State.updCtx_wf]

theorem State.afterEntry_wf (s : State) (h0 : s.Wf) : (State.afterEntry s).Wf := by
  unfold State.afterEntry
  grind -linarith -ring -lia -order -ac [State.Wf, Out.Wf, OptWf, ExcWf, Pass.Wf, Fetched.Wf, RecFetch.Wf, StepWf, State.sendFlushes_wf,
      State.flushLogs_wf]

theorem State.logError_wf (s : State) (id : Nat) (cause : BitVec 9) (lane : Nat) (split : BitVec 2) (pc : W64) (h0 :
    s.Wf) : (State.logError s id cause lane split pc).Wf := by
  unfold State.logError
  grind -linarith -ring -lia -order -ac [State.Wf, Out.Wf, OptWf, ExcWf, Pass.Wf, Fetched.Wf, RecFetch.Wf, StepWf,
    State.appendLog_wf]

theorem State.checkGangBars_wf (y0 : List (Nat × SyncBar)) (y1 : State) (h0 : y1.Wf) : (State.checkGangBars y0 y1).Wf
    := by
  revert h0
  fun_induction State.checkGangBars <;> intro h0 <;> grind -linarith -ring -lia -order -ac [State.Wf, State.mapGang_wf]

theorem State.setBandBar_wf (s : State) (band : Band) (b : Nat) (y3 : SyncBar) (h0 : s.Wf) : (State.setBandBar s band
    b y3).Wf := by
  unfold State.setBandBar
  grind -linarith -ring -lia -order -ac [State.Wf, Out.Wf, OptWf, ExcWf, Pass.Wf, Fetched.Wf, RecFetch.Wf, StepWf, State.writeBank_wf]

theorem State.checkBandBars_wf (band : Band) (y1 : List (Nat × SyncBar)) (y2 : State) (h0 : y2.Wf) :
    (State.checkBandBars band y1 y2).Wf := by
  revert h0
  fun_induction State.checkBandBars <;> intro h0 <;> grind -linarith -ring -lia -order -ac [State.Wf, Out.Wf, OptWf, ExcWf, Pass.Wf, Fetched.Wf,
      RecFetch.Wf, StepWf, State.mapWhere_wf, State.setBandBar_wf]

theorem State.checkBars_wf (s : State) (h0 : s.Wf) : (State.checkBars s).Wf := by
  unfold State.checkBars
  grind -linarith -ring -lia -order -ac [State.Wf, State.checkGangBars_wf, State.checkBandBars_wf]

theorem State.killGroup_wf (s : State) (cause : BitVec 9) (pc : W64) (h0 : s.Wf) : (State.killGroup s cause pc).Wf :=
    by
  unfold State.killGroup
  grind -linarith -ring -lia -order -ac [State.Wf, Out.Wf, OptWf, ExcWf, Pass.Wf, Fetched.Wf, RecFetch.Wf, StepWf, State.traceExc_wf,
      State.recordError_wf, State.afterEntry_wf, State.updCtx_wf, State.checkBars_wf]

theorem State.takeTrap_wf (s : State) (d : Due) (h0 : s.Wf) : (State.takeTrap s d).Wf := by
  unfold State.takeTrap
  grind -linarith -ring -lia -order -ac [State.Wf, Out.Wf, OptWf, ExcWf, Pass.Wf, Fetched.Wf, RecFetch.Wf, StepWf, State.killGroup_wf,
      State.traceExc_wf, State.traceInd_wf]

theorem State.trap_wf (s : State) (cause : BitVec 9) (h0 : s.Wf) : (State.trap s cause).Wf := by
  unfold State.trap
  grind -linarith -ring -lia -order -ac [State.Wf, State.takeTrap_wf]

theorem State.trapVa_wf (s : State) (cause : BitVec 9) (va : W64) (h0 : s.Wf) : (State.trapVa s cause va).Wf := by
  unfold State.trapVa
  grind -linarith -ring -lia -order -ac [State.Wf, State.takeTrap_wf]

theorem State.trapRec_wf (s : State) (cause : BitVec 9) (r : W256) (h0 : s.Wf) : (State.trapRec s cause r).Wf := by
  unfold State.trapRec
  grind -linarith -ring -lia -order -ac [State.Wf, State.trapVa_wf]

theorem State.takeDue_wf (s : State) (h0 : s.Wf) : (State.takeDue s).Wf := by
  unfold State.takeDue
  grind -linarith -ring -lia -order -ac [State.Wf, Out.Wf, OptWf, ExcWf, Pass.Wf, Fetched.Wf, RecFetch.Wf, StepWf,
    State.traceSync_wf, State.killGroup_wf, State.takeTrap_wf]

theorem State.launchEntry_wf (s : State) (e : Entry) (h0 : s.Wf) : (State.launchEntry s e).Wf := by
  unfold State.launchEntry
  grind -linarith -ring -lia -order -ac [State.Wf, State.pend_wf]

theorem State.changeRecord_wf (s : State) (e : Entry) (n : BitVec 10) (r : W256) (h0 : s.Wf) : (State.changeRecord s
    e n r).Wf := by
  unfold State.changeRecord
  repeat' split
  all_goals grind -linarith -ring -lia -order -ac [State.Wf, Out.Wf, OptWf, ExcWf, Pass.Wf, Fetched.Wf, RecFetch.Wf, StepWf, State.setCopy_wf,
      State.loadEntry_wf, State.launchEntry_wf]

theorem State.loadWhole_wf (s : State) (e : Entry) (h0 : s.Wf) : (State.loadWhole s e).2.Wf := by
  unfold State.loadWhole
  repeat' split
  all_goals grind -linarith -ring -lia -order -ac [State.Wf, Out.Wf, OptWf, ExcWf, Pass.Wf, Fetched.Wf, RecFetch.Wf, StepWf, State.readAccs_wf,
      State.changeRecord_wf, State.updCtx_wf]

theorem State.refuseWhole_wf (s : State) (e : Entry) (h0 : s.Wf) : (State.refuseWhole s e).Wf := by
  unfold State.refuseWhole
  grind -linarith -ring -lia -order -ac [State.Wf, Out.Wf, OptWf, ExcWf, Pass.Wf, Fetched.Wf, RecFetch.Wf, StepWf,
    State.pend_wf]

theorem State.reinject_wf (s : State) (e : Entry) (h0 : s.Wf) : (State.reinject s e).Wf := by
  unfold State.reinject
  grind -linarith -ring -lia -order -ac [State.Wf, Out.Wf, OptWf, ExcWf, Pass.Wf, Fetched.Wf, RecFetch.Wf, StepWf,
    State.loadEntry_wf, State.loadWhole_wf, State.refuseWhole_wf, State.launchEntry_wf]

theorem State.reinjectAll_wf (y0 : List Entry) (y1 : State) (h0 : y1.Wf) : (State.reinjectAll y0 y1).Wf := by
  revert h0
  fun_induction State.reinjectAll <;> intro h0 <;> grind -linarith -ring -lia -order -ac [State.Wf, Out.Wf, OptWf, ExcWf, Pass.Wf, Fetched.Wf,
      RecFetch.Wf, StepWf, State.killGroup_wf, State.takeTrap_wf, State.reinject_wf]

theorem State.recheck_wf (s : State) (gone : Mask) (h0 : s.Wf) : (State.recheck s gone).Wf := by
  unfold State.recheck
  grind -linarith -ring -lia -order -ac [State.Wf, State.traceMerge_wf, State.takeTrap_wf]

theorem State.returnFromTrap_wf (s : State) (h0 : s.Wf) : (State.returnFromTrap s).Wf := by
  unfold State.returnFromTrap
  grind -linarith -ring -lia -order -ac [State.Wf, State.traceInd_wf, State.reinjectAll_wf, State.recheck_wf]

theorem State.fetchRecord_wf (s : State) (n : BitVec 10) (h0 : s.Wf) : RecFetch.Wf (State.fetchRecord s n) := by
  unfold State.fetchRecord
  repeat' split
  all_goals grind -linarith -ring -lia -order -ac [State.Wf, Out.Wf, OptWf, ExcWf, Pass.Wf, Fetched.Wf, RecFetch.Wf, StepWf, State.translateAll_wf,
      State.readAccs_wf, State.setCopy_wf]

theorem State.block_wf (s : State) (u : Use) (h0 : s.Wf) : (State.block s u).Wf := by
  unfold State.block
  grind -linarith -ring -lia -order -ac [State.Wf, State.updSp_wf]

theorem State.fillRecord_wf (s : State) (n : BitVec 10) (h0 : s.Wf) : (State.fillRecord s n).Wf := by
  unfold State.fillRecord
  repeat' split
  all_goals grind -linarith -ring -lia -order -ac [State.Wf, Out.Wf, OptWf, ExcWf, Pass.Wf, Fetched.Wf, RecFetch.Wf, StepWf, State.updSp_wf,
      State.fetchRecord_wf, State.postFault_wf, State.trapVa_wf]

theorem State.watchThen_wf (s : State) (f : State → State) (h0 : s.Wf) (h1 : ∀ t, t.Wf → (f t ).Wf) : (State.watchThen
    s f).Wf := by
  unfold State.watchThen
  grind -linarith -ring -lia -order -ac (splits := 30) [Memory.wf, SMap.wf_setRange, SMap.wf_filter, SMap.wf_set, writeRing_wf, getD_wf, State.Wf,
    Out.Wf, OptWf, ExcWf, Pass.Wf, Fetched.Wf, State.watchPc_wf, State.logFirings_wf, State.updSp_wf,
    State.takeTrap_wf, State.halt_wf]

theorem State.killAt_wf (s : State) (cause : BitVec 9) (h0 : s.Wf) : (State.killAt s cause).Wf := by
  unfold State.killAt
  grind -linarith -ring -lia -order -ac [State.Wf, Out.Wf, OptWf, ExcWf, Pass.Wf, Fetched.Wf, RecFetch.Wf, StepWf,
    State.traceSync_wf, State.watchPc_wf, State.logFirings_wf, State.killGroup_wf]

theorem State.issue_wf (s : State) (u : Use) (f : State → State) (h0 : s.Wf) (h1 : ∀ t, t.Wf → (f t).Wf) :
    (State.issue s u f).Wf := by
  unfold State.issue
  repeat' split
  all_goals grind -linarith -ring -lia -order -ac [State.Wf, Out.Wf, OptWf, ExcWf, Pass.Wf, Fetched.Wf, RecFetch.Wf, StepWf, State.takeDue_wf,
      State.traceSync_wf, State.killAt_wf, State.watchThen_wf, State.trap_wf, State.block_wf, State.fillRecord_wf]

/-! ## Flags -/

theorem State.logCauses_wf (s : State) (id : Nat) (l : List (Nat × Rep)) (pc : W64) (y4 : List Nat) (h0 : s.Wf) :
    (State.logCauses s id l pc y4).Wf := by
  revert h0
  fun_induction State.logCauses <;> intro h0 <;> grind -linarith -ring -lia -order -ac [State.Wf, Out.Wf, OptWf, ExcWf, Pass.Wf, Fetched.Wf,
      RecFetch.Wf, StepWf, State.logError_wf]

theorem State.reportAs_wf (s : State) (id : Nat) (l : List (Nat × Rep)) (pc : W64) (h0 : s.Wf) : (State.reportAs s id
    l pc).Wf := by
  unfold State.reportAs
  grind -linarith -ring -lia -order -ac [State.Wf, Out.Wf, OptWf, ExcWf, Pass.Wf, Fetched.Wf, RecFetch.Wf, StepWf, State.logCauses_wf]

theorem State.report_wf (s : State) (l : List (Nat × Rep)) (pc : W64) (h0 : s.Wf) : (State.report s l pc).Wf := by
  unfold State.report
  grind -linarith -ring -lia -order -ac [State.Wf, Out.Wf, OptWf, ExcWf, Pass.Wf, Fetched.Wf, RecFetch.Wf, StepWf, State.reportAs_wf]

theorem State.finish_wf (s : State) (l : List (Nat × Rep)) (h0 : s.Wf) : (State.finish s l).Wf := by
  unfold State.finish
  grind -linarith -ring -lia -order -ac [State.Wf, State.watch_wf, State.advance_wf, State.report_wf]

/-! ## Operands -/

theorem State.writeLanes_wf (s : State) (t : BitVec 5) (r : BitVec 7) (out : List (Nat × Nat)) (h0 : s.Wf) :
    (State.writeLanes s t r out).Wf := by
  unfold State.writeLanes
  grind -linarith -ring -lia -order -ac [State.Wf]

theorem State.vecOp_wf (s : State) (t : BitVec 5) (d : BitVec 7) (srcs : List (BitVec 7)) (f : List Nat → Res) (h0 :
    s.Wf) : (State.vecOp s t d srcs f).Wf := by
  unfold State.vecOp
  grind -linarith -ring -lia -order -ac [State.Wf, State.finish_wf, State.writeLanes_wf]

theorem State.typed_wf (s : State) (accept : BitVec 5 → Bool) (u : Use) (f : State → State) (h0 : s.Wf) (h1 : ∀ t,
    t.Wf → (f t ).Wf) : (State.typed s accept u f).Wf := by
  unfold State.typed
  grind -linarith -ring -lia -order -ac [State.Wf, State.issue_wf, State.trap_wf]

/-! ## Control -/

theorem State.branch_wf (s : State) (taken : Bool) (d : BitVec 18) (h0 : s.Wf) : (State.branch s taken d).Wf := by
  unfold State.branch
  grind -linarith -ring -lia -order -ac [State.Wf, State.goto_wf, State.traceBit_wf]

theorem State.divide_wf (s : State) (lanes : Mask) (target : W64) (h0 : s.Wf) : (State.divide s lanes target).Wf := by
  unfold State.divide
  repeat' split
  all_goals grind -linarith -ring -lia -order -ac [State.Wf, Out.Wf, OptWf, ExcWf, Pass.Wf, Fetched.Wf, RecFetch.Wf, StepWf, State.trap_wf,
      State.killGroup_wf, State.advance_wf, State.traceSplit_wf]

theorem State.exitLanes_wf (s : State) (lanes : Mask) (h0 : s.Wf) : (State.exitLanes s lanes).Wf := by
  unfold State.exitLanes
  grind -linarith -ring -lia -order -ac [State.Wf, State.recheck_wf, State.advance_wf]

theorem State.jump_wf (s : State) (t : W64) (h0 : s.Wf) : (State.jump s t).Wf := by
  unfold State.jump
  grind -linarith -ring -lia -order -ac [State.Wf, State.trap_wf, State.goto_wf, State.traceInd_wf]

theorem State.joinThen_wf (s : State) (y1 : Mask) (advance : Bool) (f : State → State) (h0 : s.Wf) (h1 : ∀ t, t.Wf →
    (f t).Wf) : (State.joinThen s y1 advance f).Wf := by
  unfold State.joinThen
  repeat' split
  all_goals grind -linarith -ring -lia -order -ac [State.Wf, Out.Wf, OptWf, ExcWf, Pass.Wf, Fetched.Wf, RecFetch.Wf, StepWf, State.trap_wf,
      State.traceMerge_wf]

theorem State.wake_wf (s : State) (k : BitVec 2) (status : W64) (h0 : s.Wf) : (State.wake s k status).Wf := by
  unfold State.wake
  grind -linarith -ring -lia -order -ac [State.Wf, State.advance_wf, State.writeS_wf, State.updSp_wf]

/-! ## Scalar -/

theorem State.scalar_wf (s : State) (u : Use) (d : BitVec 6) (f : State → W64) (h0 : s.Wf) : (State.scalar s u d f).Wf
    := by
  unfold State.scalar
  grind -linarith -ring -lia -order -ac [State.Wf, State.issue_wf, State.advance_wf, State.writeS_wf]

theorem State.scalar2_wf (s : State) (d : BitVec 6) (a : BitVec 6) (b : BitVec 6) (y4 : BitVec 1) (y : BitVec 1) (f :
    W64 → W64 → W64) (h0 : s.Wf) : (State.scalar2 s d a b y4 y f).Wf := by
  unfold State.scalar2
  grind -linarith -ring -lia -order -ac [State.Wf, Out.Wf, OptWf, ExcWf, Pass.Wf, Fetched.Wf, RecFetch.Wf, StepWf, State.scalar_wf]

theorem State.scalar1_wf (s : State) (d : BitVec 6) (a : BitVec 6) (y3 : BitVec 1) (f : W64 → W64) (h0 : s.Wf) :
    (State.scalar1 s d a y3 f).Wf := by
  unfold State.scalar1
  grind -linarith -ring -lia -order -ac [State.Wf, Out.Wf, OptWf, ExcWf, Pass.Wf, Fetched.Wf, RecFetch.Wf, StepWf, State.scalar_wf]

theorem State.setSpecial_wf (s : State) (n : BitVec 5) (v : W64) (h0 : s.Wf) : (State.setSpecial s n v).Wf := by
  unfold State.setSpecial
  grind -linarith -ring -lia -order -ac [State.Wf, State.updCtx_wf, State.flushBits_wf]

/-! ## Vector -/

theorem State.compare_wf (s : State) (d : BitVec 6) (a : BitVec 7) (b : BitVec 7) (y4 : BitVec 1) (y : BitVec 1) (rel
    : Option Ordering → Bool) (h0 : s.Wf) : (State.compare s d a b y4 y rel).Wf := by
  unfold State.compare
  grind -linarith -ring -lia -order -ac [State.Wf, Out.Wf, OptWf, ExcWf, Pass.Wf, Fetched.Wf, RecFetch.Wf, StepWf, State.typed_wf, State.advance_wf,
      State.writeS_wf]

theorem State.vec2_wf (s : State) (acc : BitVec 5 → Bool) (d : BitVec 7) (a : BitVec 7) (b : BitVec 7) (y5 : BitVec
    1) (y : BitVec 1) (f : Alu → List Nat → Res) (h0 : s.Wf) : (State.vec2 s acc d a b y5 y f).Wf := by
  unfold State.vec2
  grind -linarith -ring -lia -order -ac [State.Wf, Out.Wf, OptWf, ExcWf, Pass.Wf, Fetched.Wf, RecFetch.Wf, StepWf, State.typed_wf, State.vecOp_wf]

theorem State.vec3_wf (s : State) (acc : BitVec 5 → Bool) (d : BitVec 7) (a : BitVec 7) (b : BitVec 7) (y5 : BitVec
    1) (y : BitVec 1) (f : Alu → List Nat → Res) (h0 : s.Wf) : (State.vec3 s acc d a b y5 y f).Wf := by
  unfold State.vec3
  grind -linarith -ring -lia -order -ac [State.Wf, Out.Wf, OptWf, ExcWf, Pass.Wf, Fetched.Wf, RecFetch.Wf, StepWf, State.typed_wf, State.vecOp_wf]

theorem State.vec1_wf (s : State) (acc : BitVec 5 → Bool) (d : BitVec 7) (a : BitVec 7) (y4 : BitVec 1) (f : Alu →
    List Nat → Res) (h0 : s.Wf) : (State.vec1 s acc d a y4 f).Wf := by
  unfold State.vec1
  grind -linarith -ring -lia -order -ac [State.Wf, Out.Wf, OptWf, ExcWf, Pass.Wf, Fetched.Wf, RecFetch.Wf, StepWf, State.typed_wf, State.vecOp_wf]

theorem State.vecI_wf (s : State) (d : BitVec 7) (a : BitVec 7) (w : BitVec 1) (i : BitVec 10) (f : Alu → List Nat →
    Res) (h0 : s.Wf) : (State.vecI s d a w i f).Wf := by
  unfold State.vecI
  grind -linarith -ring -lia -order -ac [State.Wf, State.typed_wf, State.vecOp_wf]

theorem State.vecNum_wf (s : State) (d : BitVec 7) (a : BitVec 7) (w : BitVec 1) (i : BitVec 10) (f : Int → Int → Int) (h0 : s.Wf) : (State.vecNum s d a w i f).Wf := by
  unfold State.vecNum
  grind -linarith -ring -lia -order -ac [State.Wf, State.typed_wf, State.vecOp_wf]

/-! ## Convert -/

theorem State.pack_wf (s : State) (d : BitVec 7) (a : BitVec 7) (y3 : BitVec 1) (n : Nat) (k : Nat) (ok : Bool) (f :
    List Nat → List Nat) (h0 : s.Wf) : (State.pack s d a y3 n k ok f).Wf := by
  unfold State.pack
  grind -linarith -ring -lia -order -ac [State.Wf, Out.Wf, OptWf, ExcWf, Pass.Wf, Fetched.Wf, RecFetch.Wf, StepWf, State.issue_wf, State.advance_wf]

theorem State.sfu_wf (s : State) (acc : BitVec 5 → Bool) (d : BitVec 7) (a : BitVec 7) (y4 : BitVec 1) (f : Fmt →
    BitVec 2 → Bool → FV → Res) (h0 : s.Wf) : (State.sfu s acc d a y4 f).Wf := by
  unfold State.sfu
  grind -linarith -ring -lia -order -ac [State.Wf, Out.Wf, OptWf, ExcWf, Pass.Wf, Fetched.Wf, RecFetch.Wf, StepWf, State.vec1_wf]

/-! ## Lane -/

theorem State.together_wf (s : State) (b : BitVec 6) (f : State → State) (h0 : s.Wf) (h1 : ∀ t, t.Wf → (f t ).Wf) :
    (State.together s b f).Wf := by
  unfold State.together
  grind -linarith -ring -lia -order -ac [State.Wf, State.joinThen_wf]

theorem State.permute_wf (s : State) (d : BitVec 7) (a : BitVec 7) (b : BitVec 6) (y4 : BitVec 1) (y : BitVec 1)
    (fill : State → Nat → Nat) (h0 : s.Wf) : (State.permute s d a b y4 y fill).Wf := by
  unfold State.permute
  grind -linarith -ring -lia -order -ac [State.Wf, Out.Wf, OptWf, ExcWf, Pass.Wf, Fetched.Wf, RecFetch.Wf, StepWf, State.issue_wf, State.together_wf,
      State.advance_wf, State.writeLanes_wf]

theorem State.finishLanes_wf (s : State) (reps : List (Nat × Rep)) (h0 : s.Wf) : (State.finishLanes s reps).Wf := by
  unfold State.finishLanes
  grind -linarith -ring -lia -order -ac [State.Wf, State.watch_wf, State.advance_wf, State.report_wf]

theorem State.reduce_wf (s : State) (d : BitVec 6) (a : BitVec 7) (b : BitVec 6) (y4 : BitVec 1) (y : BitVec 1) (f :
    Alu → List Nat → Res) (ident : BitVec 5 → Nat) (h0 : s.Wf) : (State.reduce s d a b y4 y f ident).Wf := by
  unfold State.reduce
  grind -linarith -ring -lia -order -ac [State.Wf, Out.Wf, OptWf, ExcWf, Pass.Wf, Fetched.Wf, RecFetch.Wf, StepWf, State.typed_wf, State.together_wf,
      State.finishLanes_wf, State.writeS_wf]

/-! ## Fetch -/

theorem State.fetch_wf (s : State) (h0 : s.Wf) : Fetched.Wf (State.fetch s) := by
  unfold State.fetch
  grind -linarith -ring -lia -order -ac [State.Wf, Out.Wf, OptWf, ExcWf, Pass.Wf, Fetched.Wf, RecFetch.Wf, StepWf,
    State.translate_wf, State.trapVa_wf, State.traceSync_wf, State.updSp_wf, State.postFault_wf, State.readPa_wf]

theorem State.dropTlb_wf (s : State) (vf : BitVec 7) (die : BitVec 3) (core : BitVec 7) (va : W64) (h0 : s.Wf) :
    (State.dropTlb s vf die core va).Wf := by
  unfold State.dropTlb
  exact h0

theorem State.dropDie_wf (s : State) (vf : BitVec 7) (die : BitVec 3) (va : W64) (h0 : s.Wf) : (State.dropDie s vf
    die va).Wf := by
  unfold State.dropDie
  grind -linarith -ring -lia -order -ac [State.Wf, Out.Wf, OptWf, ExcWf, Pass.Wf, Fetched.Wf, RecFetch.Wf, StepWf]

theorem State.hostStore_wf (s : State) (pa : BitVec 52) (b : List Byte) (h0 : s.Wf) : (State.hostStore s pa b).Wf :=
    by
  unfold State.hostStore
  grind -linarith -ring -lia -order -ac [State.Wf, Out.Wf, OptWf, ExcWf, Pass.Wf, Fetched.Wf, RecFetch.Wf, StepWf, State.writePhys_wf]

theorem State.spoilBank_wf (s : State) (line : BitVec 23) (h0 : s.Wf) : (State.spoilBank s line).Wf := by
  unfold State.spoilBank
  grind -linarith -ring -lia -order -ac [State.Wf, Out.Wf, OptWf, ExcWf, Pass.Wf, Fetched.Wf, RecFetch.Wf, StepWf]

theorem State.spoilGmem_wf (s : State) (g : GangRef) (line : Nat) (h0 : s.Wf) : (State.spoilGmem s g line).Wf := by
  unfold State.spoilGmem
  repeat' split
  all_goals grind -linarith -ring -lia -order -ac [State.Wf, Out.Wf, OptWf, ExcWf, Pass.Wf, Fetched.Wf, RecFetch.Wf, StepWf, State.focusGang_wf]

theorem State.spoilTile_wf (s : State) (g : GangRef) (record : Nat) (h0 : s.Wf) : (State.spoilTile s g record).Wf :=
    by
  unfold State.spoilTile
  grind -linarith -ring -lia -order -ac [State.Wf, Out.Wf, OptWf, ExcWf, Pass.Wf, Fetched.Wf, RecFetch.Wf, StepWf,
    State.focusGang_wf]

theorem State.spoil_wf (s : State) (line : BitVec 46) (h0 : s.Wf) : (State.spoil s line).Wf := by
  unfold State.spoil
  grind -linarith -ring -lia -order -ac [State.Wf]

theorem State.stepStatus_wf (s : State) (g : GroupRef) (agent : Option (GroupRef × BitVec 6)) (status : W64) (h0 :
    s.Wf) : (State.stepStatus s g agent status).Wf := by
  unfold State.stepStatus
  grind -linarith -ring -lia -order -ac [State.Wf, State.at_wf, State.writeS_wf, State.updCtx_wf]

/-! ## Perform -/

theorem State.updEntry_wf (s : State) (e : Entry) (h0 : s.Wf) : (State.updEntry s e).Wf := by
  unfold State.updEntry
  exact h0

theorem State.dropEntry_wf (s : State) (id : Nat) (h0 : s.Wf) : (State.dropEntry s id).Wf := by
  unfold State.dropEntry
  grind -linarith -ring -lia -order -ac [State.Wf, Out.Wf, OptWf, ExcWf, Pass.Wf, Fetched.Wf, RecFetch.Wf, StepWf, State.afterEntry_wf]

theorem State.failEntry_wf (s : State) (e : Entry) (h0 : s.Wf) : (State.failEntry s e).Wf := by
  unfold State.failEntry
  split
  · exact State.afterEntry_wf _ h0
  · split
    · exact h0
    · exact State.pend_wf _ _ (State.updEntry_wf _ _ h0)

theorem State.fillDest_wf (s : State) (e : Entry) (h0 : s.Wf) : (State.fillDest s e).Wf := by
  unfold State.fillDest
  exact h0

theorem State.landLane_wf (s : State) (e : Entry) (lane : Nat) (raw : Nat) (h0 : s.Wf) : (State.landLane s e lane
    raw).Wf := by
  unfold State.landLane
  grind -linarith -ring -lia -order -ac [State.Wf, State.keeping_wf, State.writeS_wf]

theorem State.loadLanes_wf (e : Entry) (y1 : List Acc) (y2 : State) (h0 : y2.Wf) : (State.loadLanes e y1 y2).2.Wf :=
    by
  revert h0
  fun_induction State.loadLanes <;> intro h0 <;> grind -linarith -ring -lia -order -ac [State.Wf, State.readAcc_wf, State.landLane_wf]

theorem State.endLoad_wf (s : State) (e : Entry) (h0 : s.Wf) : (State.endLoad s e).Wf := by
  unfold State.endLoad
  grind -linarith -ring -lia -order -ac [State.Wf, State.updEntry_wf, State.fillDest_wf, State.dropEntry_wf]

theorem State.performLoad_wf (s : State) (e : Entry) (lanes : Mask) (h0 : s.Wf) : (State.performLoad s e lanes).Wf :=
    by
  unfold State.performLoad
  grind -linarith -ring -lia -order -ac [State.Wf, State.loadLanes_wf, State.endLoad_wf, State.failEntry_wf]

theorem State.noteRefused_wf (s : State) (e : Entry) (a : Acc) (c : BitVec 9) (h0 : s.Wf) : (State.noteRefused s e a
    c).2.Wf := by
  unfold State.noteRefused
  grind -linarith -ring -lia -order -ac [State.Wf, Out.Wf, OptWf, ExcWf, Pass.Wf, Fetched.Wf, RecFetch.Wf, StepWf]

theorem State.logRefused_wf (s : State) (e : Entry) (h0 : s.Wf) : (State.logRefused s e).Wf := by
  unfold State.logRefused
  grind -linarith -ring -lia -order -ac [State.Wf, Out.Wf, OptWf, ExcWf, Pass.Wf, Fetched.Wf, RecFetch.Wf, StepWf,
    State.logError_wf]

theorem State.fillGranules_wf (s : State) (l : List Nat) (h0 : s.Wf) : (State.fillGranules s l).Wf := by
  unfold State.fillGranules
  grind -linarith -ring -lia -order -ac [State.Wf, State.mapGang_wf]

theorem State.storeLanes_wf (e : Entry) (y1 : List Acc) (y2 : State) (h0 : y2.Wf) : (State.storeLanes e y1 y2).2.Wf :=
    by
  revert h0
  fun_induction State.storeLanes <;> intro h0 <;> grind -linarith -ring -lia -order -ac [State.Wf, Out.Wf, OptWf,
      ExcWf, Pass.Wf, Fetched.Wf, RecFetch.Wf, StepWf, State.writeAcc_wf, State.noteRefused_wf]

theorem State.performStore_wf (s : State) (e : Entry) (lanes : Mask) (h0 : s.Wf) : (State.performStore s e lanes).Wf
    := by
  unfold State.performStore
  grind -linarith -ring -lia -order -ac [State.Wf, Out.Wf, OptWf, ExcWf, Pass.Wf, Fetched.Wf, RecFetch.Wf, StepWf,
    State.failEntry_wf, State.storeLanes_wf, State.dropEntry_wf, State.logRefused_wf, State.fillGranules_wf,
    State.updEntry_wf]

theorem State.stepLanes_wf (e : Entry) (y1 : List Acc) (y2 : State) (h0 : y2.Wf) : (State.stepLanes e y1 y2).2.Wf :=
    by
  revert h0
  fun_induction State.stepLanes <;> intro h0 <;> grind -linarith -ring -lia -order -ac [State.Wf, Out.Wf, OptWf,
      ExcWf, Pass.Wf, Fetched.Wf, RecFetch.Wf, StepWf, State.readAcc_wf, State.noteRefused_wf, State.writeAcc_wf]

theorem State.performBank_wf (s : State) (e : Entry) (lanes : Mask) (h0 : s.Wf) : (State.performBank s e lanes).Wf :=
    by
  unfold State.performBank
  grind -linarith -ring -lia -order -ac [State.Wf, Out.Wf, OptWf, ExcWf, Pass.Wf, Fetched.Wf, RecFetch.Wf, StepWf,
    State.stepLanes_wf, State.failEntry_wf, State.dropEntry_wf, State.logRefused_wf, State.updEntry_wf]

theorem State.finishBank_wf (s : State) (e : Entry) (h0 : s.Wf) : (State.finishBank s e).Wf := by
  unfold State.finishBank
  grind -linarith -ring -lia -order -ac [State.Wf, State.writeS_wf, State.keeping_wf, State.fillDest_wf, State.dropEntry_wf, State.updEntry_wf]

/-! ## Loads -/

theorem State.countSkid_wf (s : State) (e : Entry) (h0 : s.Wf) : (State.countSkid s e).Wf := by
  unfold State.countSkid
  grind -linarith -ring -lia -order -ac [State.Wf, Out.Wf, OptWf, ExcWf, Pass.Wf, Fetched.Wf, RecFetch.Wf, StepWf,
    State.updSp_wf]

theorem State.watchMem_wf (s : State) (e : Entry) (pc : W64) (h0 : s.Wf) : (State.watchMem s e pc).Wf := by
  unfold State.watchMem
  repeat' split
  all_goals grind -linarith -ring -lia -order -ac [State.Wf, Out.Wf, OptWf, ExcWf, Pass.Wf, Fetched.Wf, RecFetch.Wf, StepWf, State.evaluate_wf,
      State.actOn_wf, State.updEntry_wf]

theorem State.sendMem_wf (s : State) (e : Entry) (cls : Option (BitVec 3)) (h0 : s.Wf) : (State.sendMem s e cls).Wf :=
    by
  unfold State.sendMem
  grind -linarith -ring -lia -order -ac [State.Wf, Out.Wf, OptWf, ExcWf, Pass.Wf, Fetched.Wf, RecFetch.Wf, StepWf,
    State.trapVa_wf, State.translateEntry_wf, State.watchMem_wf, State.countSkid_wf, State.advance_wf,
    State.launchEntry_wf]

theorem State.vload_wf (s : State) (i : Instr) (k : LdKind) (d : BitVec 7) (n : Nat) (r : BitVec 10) (a : BitVec 7) (w
    : BitVec 1) (sizes : List Nat) (spaceOk : BitVec 3 → Bool) (h0 : s.Wf) : (State.vload s i k d n r a w sizes
    spaceOk).Wf := by
  unfold State.vload
  grind -linarith -ring -lia -order -ac [State.Wf, State.issue_wf, State.trapRec_wf, State.sendMem_wf]

theorem State.vstore_wf (s : State) (i : Instr) (k : StKind) (d : BitVec 7) (n : Nat) (r : BitVec 10) (a : BitVec 7)
    (w : BitVec 1) (sizes : List Nat) (spaceOk : BitVec 3 → Bool) (h0 : s.Wf) : (State.vstore s i k d n r a w sizes
    spaceOk).Wf := by
  unfold State.vstore
  grind -linarith -ring -lia -order -ac [State.Wf, State.issue_wf, State.trapRec_wf, State.sendMem_wf]

/-! ## Atomic -/

theorem State.atomic_wf (s : State) (i : Instr) (fn : AtomFn) (fmtOk : BitVec 8 → Bool) (d : BitVec 7) (r : BitVec 8)
    (a : BitVec 7) (w : BitVec 1) (h0 : s.Wf) : (State.atomic s i fn fmtOk d r a w).Wf := by
  unfold State.atomic
  grind -linarith -ring -lia -order -ac [State.Wf, State.issue_wf, State.trapRec_wf, State.sendMem_wf]

theorem State.update_wf (s : State) (i : Instr) (op : MemOp) (fmtOk : BitVec 8 → Bool) (spaceOk : BitVec 3 → Bool)
    (align : Nat) (n : Nat) (d : BitVec 7) (r : BitVec 8) (a : BitVec 7) (w : BitVec 1) (h0 : s.Wf) : (State.update s
    i op fmtOk spaceOk align n d r a w).Wf := by
  unfold State.update
  grind -linarith -ring -lia -order -ac [State.Wf, State.issue_wf, State.trapRec_wf, State.sendMem_wf]

/-! ## Engine -/

theorem State.granuleOp_wf (s : State) (a : BitVec 6) (n : BitVec 11) (f : State → List Nat → State) (h0 : s.Wf) (h1
    : ∀ t a1, t.Wf → (f t a1).Wf) : (State.granuleOp s a n f).Wf := by
  unfold State.granuleOp
  grind -linarith -ring -lia -order -ac [State.Wf, Out.Wf, OptWf, ExcWf, Pass.Wf, Fetched.Wf, RecFetch.Wf, StepWf, State.issue_wf, State.trapVa_wf,
      State.advance_wf]

theorem State.barrierRead_wf (s : State) (b : Bool × Nat) (h0 : s.Wf) : (State.barrierRead s b).2.Wf := by
  unfold State.barrierRead
  grind -linarith -ring -lia -order -ac [State.Wf, Out.Wf, OptWf, ExcWf, Pass.Wf, Fetched.Wf, RecFetch.Wf, StepWf,
    State.readBankLine_wf, State.readGmem_wf]

theorem State.setBarrier_wf (s : State) (b : Bool × Nat) (y2 : BitVec 128) (h0 : s.Wf) : (State.setBarrier s b y2).Wf
    := by
  unfold State.setBarrier
  grind -linarith -ring -lia -order -ac [State.Wf, Out.Wf, OptWf, ExcWf, Pass.Wf, Fetched.Wf, RecFetch.Wf, StepWf, State.writeBank_wf]

theorem State.phaseEvent_wf (s : State) (b : Bool × Nat) (h0 : s.Wf) : (State.phaseEvent s b).Wf := by
  unfold State.phaseEvent
  grind -linarith -ring -lia -order -ac [State.Wf, State.mapGang_wf, State.mapWhere_wf]

theorem State.settleBarrier_wf (s : State) (b : Bool × Nat) (y2 : BitVec 128) (h0 : s.Wf) : (State.settleBarrier s b
    y2).Wf := by
  unfold State.settleBarrier
  grind -linarith -ring -lia -order -ac [State.Wf, Out.Wf, OptWf, ExcWf, Pass.Wf, Fetched.Wf, RecFetch.Wf, StepWf, State.phaseEvent_wf,
      State.setBarrier_wf]

theorem State.credit_wf (s : State) (b : Bool × Nat) (n : Nat) (h0 : s.Wf) : (State.credit s b n).2.Wf := by
  unfold State.credit
  grind -linarith -ring -lia -order -ac [State.Wf, Out.Wf, OptWf, ExcWf, Pass.Wf, Fetched.Wf, RecFetch.Wf, StepWf,
    State.barrierRead_wf, State.settleBarrier_wf]

theorem State.barOp_wf (s : State) (u : Use) (a : BitVec 6) (f : State → Bool × Nat → State) (h0 : s.Wf) (h1 : ∀ t
    a1, t.Wf → (f t a1).Wf) : (State.barOp s u a f).Wf := by
  unfold State.barOp
  repeat' split
  all_goals grind -linarith -ring -lia -order -ac [State.Wf, Out.Wf, OptWf, ExcWf, Pass.Wf, Fetched.Wf, RecFetch.Wf, StepWf, State.issue_wf,
      State.trapVa_wf]

theorem State.withBarrier_wf (s : State) (a : BitVec 6) (o : Bool × Nat) (f : State → BitVec 128 → State) (h0 : s.Wf)
    (h1 : ∀ t x1, t.Wf → (f t x1).Wf) : (State.withBarrier s a o f).Wf := by
  unfold State.withBarrier
  grind -linarith -ring -lia -order -ac [State.Wf, Out.Wf, OptWf, ExcWf, Pass.Wf, Fetched.Wf, RecFetch.Wf, StepWf,
    State.barrierRead_wf, State.trapVa_wf]

theorem State.arriveGang_wf (s : State) (b : BitVec 4) (m : BitVec 32) (h0 : s.Wf) : (State.arriveGang s b m).Wf := by
  unfold State.arriveGang
  grind -linarith -ring -lia -order -ac [State.Wf, Out.Wf, OptWf, ExcWf, Pass.Wf, Fetched.Wf, RecFetch.Wf, StepWf,
    State.trap_wf, State.waitIn_wf, State.checkBars_wf]

theorem State.arriveBand_wf (s : State) (band : Band) (b : BitVec 4) (m : BitVec 32) (h0 : s.Wf) : (State.arriveBand s
    band b m).Wf := by
  unfold State.arriveBand
  grind -linarith -ring -lia -order -ac [State.Wf, Out.Wf, OptWf, ExcWf, Pass.Wf, Fetched.Wf, RecFetch.Wf, StepWf,
    State.trap_wf, State.waitIn_wf, State.checkBars_wf, State.setBandBar_wf]

theorem State.startMigration_wf (s : State) (va : W64) (h0 : s.Wf) : (State.startMigration s va).Wf := by
  unfold State.startMigration
  repeat' split
  all_goals grind -linarith -ring -lia -order -ac [State.Wf, Out.Wf, OptWf, ExcWf, Pass.Wf, Fetched.Wf, RecFetch.Wf, StepWf, State.postFault_wf]

theorem State.prefetch_wf (s : State) (r : W256) (off : W64) (len : W64) (v : BitVec 2) (h0 : s.Wf) : (State.prefetch
    s r off len v).Wf := by
  unfold State.prefetch
  dsimp only
  split
  · exact State.advance_wf _ (foldl_wf _ (fun t x ht => State.startMigration_wf t x ht) _ _ h0)
  · exact State.advance_wf _ h0

/-! ## Copies -/

theorem State.sendEngine_wf (s : State) (e : Entry) (cls : BitVec 3) (h0 : s.Wf) : (State.sendEngine s e cls).Wf := by
  unfold State.sendEngine
  grind -linarith -ring -lia -order -ac [State.Wf, State.advance_wf, State.launchEntry_wf]

theorem State.granuleLanded_wf (s : State) (e : Entry) (a : Acc) (h0 : s.Wf) : (State.granuleLanded s e a).Wf := by
  unfold State.granuleLanded
  grind -linarith -ring -lia -order -ac [State.Wf, State.fillGranules_wf]

theorem State.engineXlat_wf (s : State) (e : Entry) (a : Acc) (w : Bool) (part : Nat) (src : BitVec 3) (h0 : s.Wf) :
    (State.engineXlat s e a w part src).2.Wf := by
  unfold State.engineXlat
  grind -linarith -ring -lia -order -ac [State.Wf, State.translate_wf, State.postFault_wf]

theorem State.engineRead_wf (s : State) (e : Entry) (a : Chk Acc) (part : Nat) (src : BitVec 3) (h0 : s.Wf) :
    (State.engineRead s e a part src).2.2.Wf := by
  unfold State.engineRead
  grind -linarith -ring -lia -order -ac [State.Wf, State.engineXlat_wf, State.readAcc_wf]

theorem State.engineWrite_wf (s : State) (e : Entry) (a : Acc) (b : Option Byte) (drop : Bool) (part : Nat) (h0 :
    s.Wf) : (State.engineWrite s e a b drop part).2.2.Wf := by
  unfold State.engineWrite
  repeat' split
  all_goals grind -linarith -ring -lia -order -ac [State.Wf, Out.Wf, OptWf, ExcWf, Pass.Wf, Fetched.Wf, RecFetch.Wf, StepWf, State.writeAcc_wf]

theorem State.landByte_wf (s : State) (e : Entry) (p : Nat) (h0 : s.Wf) : (State.landByte s e p).2.2.Wf := by
  unfold State.landByte
  grind -linarith -ring -lia -order -ac [State.Wf, Out.Wf, OptWf, ExcWf, Pass.Wf, Fetched.Wf, RecFetch.Wf, StepWf,
    State.engineXlat_wf, State.engineRead_wf, State.engineWrite_wf, State.granuleLanded_wf]

theorem State.landBytes_wf (y0 : Nat) (y1 : Nat) (y2 : Entry) (y3 : State) (h0 : y3.Wf) : (State.landBytes y0 y1 y2
    y3).2.2.Wf := by
  revert h0
  fun_induction State.landBytes <;> intro h0 <;> grind -linarith -ring -lia -order -ac [State.Wf, Out.Wf, OptWf,
      ExcWf, Pass.Wf, Fetched.Wf, RecFetch.Wf, StepWf, State.landByte_wf]

theorem State.endEngine_wf (s : State) (e : Entry) (h0 : s.Wf) : (State.endEngine s e).Wf := by
  unfold State.endEngine
  grind -linarith -ring -lia -order -ac [State.Wf, State.updEntry_wf, State.dropEntry_wf, State.pend_wf]

theorem State.gatherIndex_wf (s : State) (e : Entry) (k : Nat) (y3 : Nat) (h0 : s.Wf) : (State.gatherIndex s e k
    y3).2.2.Wf := by
  revert h0
  fun_induction State.gatherIndex <;> intro h0 <;> grind -linarith -ring -lia -order -ac [State.Wf, State.engineRead_wf]

theorem State.planBytes_wf (k : Nat) (x : Option Nat) (y2 : Nat) (y3 : Nat) (y4 : Entry) (y5 : State) (h0 : y5.Wf) :
    (State.planBytes k x y2 y3 y4 y5).2.2.Wf := by
  revert h0
  fun_induction State.planBytes <;> intro h0 <;> grind -linarith -ring -lia -order -ac [State.Wf, Out.Wf, OptWf,
      ExcWf, Pass.Wf, Fetched.Wf, RecFetch.Wf, StepWf, State.engineRead_wf, State.engineXlat_wf]

theorem State.planEntry_wf (s : State) (e : Entry) (k : Nat) (h0 : s.Wf) : (State.planEntry s e k).2.2.Wf := by
  unfold State.planEntry
  grind -linarith -ring -lia -order -ac [State.Wf, Out.Wf, OptWf, ExcWf, Pass.Wf, Fetched.Wf, RecFetch.Wf, StepWf,
    State.gatherIndex_wf, State.planBytes_wf]

theorem State.putPlanned_wf (k : Nat) (y1 : Nat) (y2 : List Planned) (y3 : Entry) (y4 : State) (h0 : y4.Wf) :
    (State.putPlanned k y1 y2 y3 y4).2.Wf := by
  revert h0
  fun_induction State.putPlanned <;> intro h0 <;> grind -linarith -ring -lia -order -ac [State.Wf, Out.Wf, OptWf,
      ExcWf, Pass.Wf, Fetched.Wf, RecFetch.Wf, StepWf, State.engineWrite_wf, State.granuleLanded_wf]

theorem State.zeroLanded_wf (k : Nat) (y1 : Nat) (y2 : List Planned) (y3 : Entry) (y4 : State) (h0 : y4.Wf) :
    (State.zeroLanded k y1 y2 y3 y4).2.Wf := by
  revert h0
  fun_induction State.zeroLanded <;> intro h0 <;> grind -linarith -ring -lia -order -ac [State.Wf, Out.Wf, OptWf,
      ExcWf, Pass.Wf, Fetched.Wf, RecFetch.Wf, StepWf, State.engineWrite_wf]

/-! ## Moment -/

theorem State.finishMoment_wf (s : State) (d : BitVec 5) (out : List (Nat × Pair × Rep)) (h0 : s.Wf) :
    (State.finishMoment s d out).Wf := by
  unfold State.finishMoment
  grind -linarith -ring -lia -order -ac [State.Wf, State.watchAll_wf, State.advance_wf, State.report_wf]

theorem State.moment_wf (s : State) (u : Use) (d : BitVec 5) (f : Nat → Calc Pair) (h0 : s.Wf) : (State.moment s u d
    f).Wf := by
  unfold State.moment
  grind -linarith -ring -lia -order -ac [State.Wf, State.typed_wf, State.finishMoment_wf]

/-! ## Tile -/

theorem State.tileOp_wf (s : State) (i : Instr) (op : TileOp) (recs : List (BitVec 8)) (b : Option (BitVec 6)) (va :
    Option (BitVec 7)) (h0 : s.Wf) : (State.tileOp s i op recs b va).Wf := by
  unfold State.tileOp
  grind -linarith -ring -lia -order -ac [State.Wf, Out.Wf, OptWf, ExcWf, Pass.Wf, Fetched.Wf, RecFetch.Wf, StepWf,
    State.issue_wf, State.trapVa_wf, State.countSkid_wf, State.sendEngine_wf]

theorem State.readImage_wf (r : W256) (y1 : List (Nat × Int)) (y2 : Entry) (y3 : State) (h0 : y3.Wf) : Pass.Wf
    (State.readImage r y1 y2 y3) := by
  revert h0
  fun_induction State.readImage <;> intro h0 <;> grind -linarith -ring -lia -order -ac [State.Wf, Out.Wf, OptWf,
      ExcWf, Pass.Wf, Fetched.Wf, RecFetch.Wf, StepWf, State.engineRead_wf]

theorem State.placeImage_wf (r : W256) (y1 : List (Nat × Int × Byte)) (y2 : List (Nat × Acc × Byte)) (y3 : Entry) (y4
    : State) (h0 : y4.Wf) : Pass.Wf (State.placeImage r y1 y2 y3 y4) := by
  revert h0
  fun_induction State.placeImage <;> intro h0 <;> grind -linarith -ring -lia -order -ac [State.Wf, Out.Wf, OptWf,
      ExcWf, Pass.Wf, Fetched.Wf, RecFetch.Wf, StepWf, State.engineXlat_wf]

theorem State.writeImage_wf (r : W256) (y1 : List (Nat × Acc × Byte)) (y2 : Entry) (y3 : State) (h0 : y3.Wf) :
    (State.writeImage r y1 y2 y3).2.Wf := by
  revert h0
  fun_induction State.writeImage <;> intro h0 <;> grind -linarith -ring -lia -order -ac [State.Wf, Out.Wf, OptWf,
      ExcWf, Pass.Wf, Fetched.Wf, RecFetch.Wf, StepWf, State.writeAcc_wf]

theorem State.writeTile_wf (s : State) (e : Entry) (op : TileOp) (o : TileOut) (h0 : s.Wf) : (State.writeTile s e op
    o).Wf := by
  unfold State.writeTile
  grind -linarith -ring -lia -order -ac [State.Wf, State.fresh_wf]

theorem State.endCounted_wf (s : State) (e : Entry) (h0 : s.Wf) : (State.endCounted s e).Wf := by
  unfold State.endCounted
  grind -linarith -ring -lia -order -ac [State.Wf, Out.Wf, OptWf, ExcWf, Pass.Wf, Fetched.Wf, RecFetch.Wf, StepWf, State.dropEntry_wf]

theorem State.watchRank_wf (s : State) (e : Entry) (n : Nat) (h0 : s.Wf) : (State.watchRank s e n).Wf := by
  unfold State.watchRank
  grind -linarith -ring -lia -order -ac [State.Wf, State.evaluate_wf, State.actOn_wf]

theorem State.retireWith_wf (s : State) (e : Entry) (op : TileOp) (o : TileOut) (h0 : s.Wf) : (State.retireWith s e
    op o).Wf := by
  unfold State.retireWith
  repeat' split
  all_goals grind -linarith -ring -lia -order -ac [State.Wf, Out.Wf, OptWf, ExcWf, Pass.Wf, Fetched.Wf, RecFetch.Wf, StepWf, State.writeTile_wf,
      State.reportAs_wf, State.endCounted_wf, State.watchRank_wf]

theorem State.retireFaulted_wf (s : State) (e : Entry) (h0 : s.Wf) : (State.retireFaulted s e).Wf := by
  unfold State.retireFaulted
  grind -linarith -ring -lia -order -ac [State.Wf, Out.Wf, OptWf, ExcWf, Pass.Wf, Fetched.Wf, RecFetch.Wf, StepWf, State.pend_wf, State.endCounted_wf]

theorem State.noSpace_wf (s : State) (e : Entry) (h0 : s.Wf) : (State.noSpace s e).Wf := by
  unfold State.noSpace
  grind -linarith -ring -lia -order -ac [State.Wf, State.endCounted_wf, State.failEntry_wf]

theorem State.claimAndRetire_wf (s : State) (e : Entry) (op : TileOp) (img : List Byte) (part : Option (Nat × Nat))
    (h0 : s.Wf) : (State.claimAndRetire s e op img part).Wf := by
  unfold State.claimAndRetire
  grind -linarith -ring -lia -order -ac [State.Wf, Out.Wf, OptWf, ExcWf, Pass.Wf, Fetched.Wf, RecFetch.Wf, StepWf,
    State.noSpace_wf, State.updEntry_wf, State.placeImage_wf, State.retireFaulted_wf, State.writeImage_wf,
    State.retireWith_wf]

theorem State.reportTile_wf (s : State) (n : Nat) (h0 : s.Wf) : (State.reportTile s n).Wf := by
  unfold State.reportTile
  exact h0

theorem State.runTile_wf (s : State) (e : Entry) (op : TileOp) (part : Option (Nat × Nat)) (h0 : s.Wf) :
    (State.runTile s e op part).Wf := by
  unfold State.runTile
  grind -linarith -ring -lia -order -ac (splits := 30) [Memory.wf, SMap.wf_setRange, SMap.wf_filter, SMap.wf_set,
    writeRing_wf, getD_wf, State.Wf, Out.Wf, OptWf, ExcWf, Pass.Wf, Fetched.Wf, RecFetch.Wf, StepWf,
    State.retireFaulted_wf, State.reportTile_wf, State.readImage_wf, State.updEntry_wf, State.claimAndRetire_wf]

theorem State.inspect_wf (s : State) (n : BitVec 8) (writes : List Reg) (f : State → W256 → State) (h0 : s.Wf) (h1 :
    ∀ t a1, t.Wf → (f t a1).Wf) : (State.inspect s n writes f).Wf := by
  unfold State.inspect
  grind -linarith -ring -lia -order -ac [State.Wf, Out.Wf, OptWf, ExcWf, Pass.Wf, Fetched.Wf, RecFetch.Wf, StepWf, State.issue_wf, State.trap_wf,
      State.advance_wf]

/-! ## Record -/

theorem State.sendWhole_wf (s : State) (e : Entry) (h0 : s.Wf) : (State.sendWhole s e).Wf := by
  unfold State.sendWhole
  grind -linarith -ring -lia -order -ac [State.Wf, State.loadEntry_wf, State.updSp_wf, State.loadWhole_wf, State.trap_wf, State.advance_wf,
    State.launchEntry_wf]

theorem State.dropCopies_wf (s : State) (n : BitVec 10) (count : Nat) (h0 : s.Wf) : (State.dropCopies s n count).Wf
    := by
  unfold State.dropCopies
  grind -linarith -ring -lia -order -ac [State.Wf, Out.Wf, OptWf, ExcWf, Pass.Wf, Fetched.Wf, RecFetch.Wf, StepWf]

/-! ## Pool -/

theorem State.growPool_wf (s : State) (n : Nat) (h0 : s.Wf) : (State.growPool s n).Wf := by
  unfold State.growPool
  exact h0

theorem State.setCtl_wf (s : State) (c : BitVec 29) (i : Nat) (y3 : W32) (h0 : s.Wf) : (State.setCtl s c i y3).Wf :=
    by
  unfold State.setCtl
  grind -linarith -ring -lia -order -ac [State.Wf, Out.Wf, OptWf, ExcWf, Pass.Wf, Fetched.Wf, RecFetch.Wf, StepWf, State.writeBank_wf]

theorem State.setPushT_wf (s : State) (c : BitVec 29) (t : W64) (h0 : s.Wf) : (State.setPushT s c t).Wf := by
  unfold State.setPushT
  grind -linarith -ring -lia -order -ac [State.Wf, State.writeBank_wf]

theorem State.answer_wf (s : State) (d : BitVec 6) (ok : Bool) (h0 : s.Wf) : (State.answer s d ok).Wf := by
  unfold State.answer
  exact h0

theorem State.answerWait_wf (s : State) (k : BitVec 2) (d : BitVec 6) (ok : Bool) (h0 : s.Wf) : (State.answerWait s k
    d ok).Wf := by
  unfold State.answerWait
  exact h0

theorem State.refuseWaits_wf (y0 : List PoolWait) (y1 : State) (h0 : y1.Wf) : (State.refuseWaits y0 y1).Wf := by
  revert h0
  fun_induction State.refuseWaits <;> intro h0 <;> grind -linarith -ring -lia -order -ac [State.Wf, State.at_wf, State.answerWait_wf]

/-! ## Queue -/

theorem headLoop_wf (vf : BitVec 7) (c : BitVec 29) (y2 : Nat) (y3 : State) (h0 : y3.Wf) : (headLoop vf c y2 y3).Wf :=
    by
  revert h0
  fun_induction headLoop <;> intro h0 <;> grind -linarith -ring -lia -order -ac [State.Wf, State.setCtl_wf, State.updCtx_wf]

theorem State.endClaim_wf (s : State) (vf : BitVec 7) (c : BitVec 29) (first : W32) (h0 : s.Wf) : (State.endClaim s vf
    c first).Wf := by
  unfold State.endClaim
  grind -linarith -ring -lia -order -ac [State.Wf, State.updCtx_wf, headLoop_wf]

theorem State.claim_wf (s : State) (vf : BitVec 7) (c : BitVec 29) (n : Nat) (h0 : s.Wf) : (State.claim s vf c n).Wf
    := by
  unfold State.claim
  grind -linarith -ring -lia -order -ac [State.Wf, State.setCtl_wf, State.updCtx_wf, State.setPushT_wf]

theorem State.pushed_wf (s : State) (vf : BitVec 7) (c : BitVec 29) (n : Nat) (h0 : s.Wf) : (State.pushed s vf c n).Wf
    := by
  unfold State.pushed
  grind -linarith -ring -lia -order -ac [State.Wf, State.setPushT_wf, State.updCtx_wf, State.setCtl_wf]

theorem State.tellQueue_wf (s : State) (cause : BitVec 9) (r : W256) (h0 : s.Wf) : (State.tellQueue s cause r).Wf :=
    by
  unfold State.tellQueue
  grind -linarith -ring -lia -order -ac [State.Wf, Out.Wf, OptWf, ExcWf, Pass.Wf, Fetched.Wf, RecFetch.Wf, StepWf,
    State.readBankLine_wf]

theorem State.trapQueue_wf (s : State) (cause : BitVec 9) (r : W256) (h0 : s.Wf) : (State.trapQueue s cause r).Wf :=
    by
  unfold State.trapQueue
  grind -linarith -ring -lia -order -ac [State.Wf, Out.Wf, OptWf, ExcWf, Pass.Wf, Fetched.Wf, RecFetch.Wf, StepWf,
    State.trapVa_wf, State.tellQueue_wf]

theorem State.holdQueue_wf (s : State) (r : W256) (h0 : s.Wf) : (State.holdQueue s r).Wf := by
  unfold State.holdQueue
  grind -linarith -ring -lia -order -ac [State.Wf, Out.Wf, OptWf, ExcWf, Pass.Wf, Fetched.Wf, RecFetch.Wf, StepWf,
    State.updSp_wf, State.postFault_wf]

theorem State.onQueue_wf (s : State) (n : BitVec 10) (need : QueueNeed) (f : State → W256 → State) (h0 : s.Wf) (h1 : ∀
    t x1, t.Wf → (f t x1).Wf) : (State.onQueue s n need f).Wf := by
  unfold State.onQueue
  grind -linarith -ring -lia -order -ac [State.Wf, Out.Wf, OptWf, ExcWf, Pass.Wf, Fetched.Wf, RecFetch.Wf, StepWf,
    State.trapQueue_wf, State.holdQueue_wf]

theorem State.askSlots_wf (y0 : List Acc) (y1 : State) (h0 : y1.Wf) : (State.askSlots y0 y1).2.Wf := by
  revert h0
  fun_induction State.askSlots <;> intro h0 <;> grind -linarith -ring -lia -order -ac [State.Wf, Out.Wf, OptWf, ExcWf, Pass.Wf, Fetched.Wf,
      RecFetch.Wf, StepWf, State.fabric_wf]

theorem State.writeSlots_wf (y0 : List Acc) (y1 : List (List Byte)) (y2 : State) (h0 : y2.Wf) : (State.writeSlots y0
    y1 y2).Wf := by
  revert h0
  fun_induction State.writeSlots <;> intro h0 <;> grind -linarith -ring -lia -order -ac [State.Wf, Out.Wf, OptWf, ExcWf, Pass.Wf, Fetched.Wf,
      RecFetch.Wf, StepWf, State.writeAcc_wf]

theorem Entry.queueFails_wf (e : Entry) (s : State) (cause : BitVec 9) (va : W64) (h0 : s.Wf) : (Entry.queueFails e s
    cause va).2.Wf := by
  unfold Entry.queueFails
  exact h0

theorem State.actPush_wf (s : State) (e : Entry) (h0 : s.Wf) : (State.actPush s e).2.2.Wf := by
  unfold State.actPush
  grind -linarith -ring -lia -order -ac [State.Wf, Out.Wf, OptWf, ExcWf, Pass.Wf, Fetched.Wf, RecFetch.Wf, StepWf,
    Entry.queueFails_wf, State.tellQueue_wf, State.loadEntry_wf, State.askSlots_wf, State.fresh_wf,
    State.writeSlots_wf, State.pushed_wf]

theorem State.parkHeld_wf (s : State) (e : Entry) (h0 : s.Wf) : (State.parkHeld s e).Wf := by
  unfold State.parkHeld
  repeat' split
  all_goals grind -linarith -ring -lia -order -ac [State.Wf, Out.Wf, OptWf, ExcWf, Pass.Wf, Fetched.Wf, RecFetch.Wf, StepWf, State.updSp_wf]

theorem State.sendQueue_wf (s : State) (e : Entry) (h0 : s.Wf) : (State.sendQueue s e).Wf := by
  unfold State.sendQueue
  grind -linarith -ring -lia -order -ac [State.Wf, Out.Wf, OptWf, ExcWf, Pass.Wf, Fetched.Wf, RecFetch.Wf, StepWf,
    State.trapVa_wf, State.parkHeld_wf, State.advance_wf, State.launchEntry_wf]

theorem State.resendQueue_wf (s : State) (e : Entry) (h0 : s.Wf) : (State.resendQueue s e).Wf := by
  unfold State.resendQueue
  grind -linarith -ring -lia -order -ac [State.Wf, Out.Wf, OptWf, ExcWf, Pass.Wf, Fetched.Wf, RecFetch.Wf, StepWf,
    State.updEntry_wf, State.refuseWhole_wf, State.dropEntry_wf, State.fillDest_wf, State.failEntry_wf]

theorem State.endPush_wf (s : State) (e : Entry) (h0 : s.Wf) : (State.endPush s e).Wf := by
  unfold State.endPush
  grind -linarith -ring -lia -order -ac [State.Wf, Out.Wf, OptWf, ExcWf, Pass.Wf, Fetched.Wf, RecFetch.Wf, StepWf,
    State.actPush_wf, State.keeping_wf, State.writeS_wf, State.dropEntry_wf, State.fillDest_wf, State.resendQueue_wf]

theorem State.popClaim_wf (s : State) (d : BitVec 6) (n : BitVec 10) (r : W256) (h0 : s.Wf) : (State.popClaim s d n
    r).Wf := by
  unfold State.popClaim
  grind -linarith -ring -lia -order -ac [State.Wf, State.claim_wf, State.loadEntry_wf, State.advance_wf, State.launchEntry_wf]

theorem State.endPop_wf (s : State) (e : Entry) (h0 : s.Wf) : (State.endPop s e).Wf := by
  unfold State.endPop
  have hr := State.readAccs_wf s e.accs h0
  split
  · exact h0
  · split
    · next c t ht => rw [ht] at hr; exact State.failEntry_wf t _ hr
    · next b t ht =>
      rw [ht] at hr
      refine State.endClaim_wf _ _ _ _ (State.dropEntry_wf _ _ (State.fillDest_wf _ _ (State.keeping_wf _ _ _ hr ?_)))
      exact foldl_wf _ (fun u x hu => State.writeS_wf u _ _ hu) _ _ hr

theorem State.hold_wf (s : State) (n : BitVec 10) (x : W32) (device : Option (BitVec 12)) (pc : W64) (h0 : s.Wf) :
    (State.hold s n x device pc).Wf := by
  unfold State.hold
  grind -linarith -ring -lia -order -ac [State.Wf, Out.Wf, OptWf, ExcWf, Pass.Wf, Fetched.Wf, RecFetch.Wf, StepWf,
    State.saved_wf]

theorem State.actPermit_wf (s : State) (e : Entry) (h0 : s.Wf) : (State.actPermit s e).2.2.Wf := by
  unfold State.actPermit
  grind -linarith -ring -lia -order -ac (splits := 30) [Memory.wf, SMap.wf_setRange, SMap.wf_filter, SMap.wf_set,
    writeRing_wf, getD_wf, State.Wf, Out.Wf, OptWf, ExcWf, Pass.Wf, Fetched.Wf, RecFetch.Wf, StepWf,
    Entry.queueFails_wf, State.tellQueue_wf, State.hold_wf, State.setCtl_wf, State.loadEntry_wf, State.askSlots_wf,
    State.fresh_wf]

theorem State.endPermit_wf (s : State) (e : Entry) (h0 : s.Wf) : (State.endPermit s e).Wf := by
  unfold State.endPermit
  grind -linarith -ring -lia -order -ac [State.Wf, Out.Wf, OptWf, ExcWf, Pass.Wf, Fetched.Wf, RecFetch.Wf, StepWf,
    State.actPermit_wf, State.keeping_wf, State.writeS_wf, State.dropEntry_wf, State.fillDest_wf,
    State.resendQueue_wf]

theorem State.returnLocal_wf (s : State) (vf : BitVec 7) (r : W256) (n : W32) (h0 : s.Wf) : (State.returnLocal s vf r
    n).Wf := by
  unfold State.returnLocal
  grind -linarith -ring -lia -order -ac [State.Wf, Out.Wf, OptWf, ExcWf, Pass.Wf, Fetched.Wf, RecFetch.Wf, StepWf, State.setCtl_wf]

theorem State.returnPermit_wf (s : State) (h : BitVec 10 × W32) (h0 : s.Wf) : (State.returnPermit s h).Wf := by
  unfold State.returnPermit
  grind -linarith -ring -lia -order -ac [State.Wf, Out.Wf, OptWf, ExcWf, Pass.Wf, Fetched.Wf, RecFetch.Wf, StepWf, State.updCtx_wf,
      State.returnLocal_wf]

theorem State.returnPermits_wf (s : State) (h0 : s.Wf) : (State.returnPermits s).Wf := by
  unfold State.returnPermits
  exact foldl_wf _ (fun t x ht => State.returnPermit_wf _ _ ht) s.gang.holders s h0

/-! ## Work -/

theorem State.readChunks_wf (s : State) (vf : BitVec 7) (w : Nat) (y3 : W64) (y4 : Nat) (h0 : s.Wf) :
    (State.readChunks s vf w y3 y4).2.Wf := by
  revert h0
  fun_induction State.readChunks <;> intro h0 <;> grind -linarith -ring -lia -order -ac [State.Wf, Out.Wf, OptWf, ExcWf, Pass.Wf, Fetched.Wf,
      RecFetch.Wf, StepWf, State.readPa_wf, State.translate_wf]

theorem State.release_wf (vf : BitVec 7) (s : State) (n : BitVec 10) (h0 : s.Wf) : (State.release vf s n).Wf := by
  unfold State.release
  grind -linarith -ring -lia -order -ac [State.Wf, State.readVirt_wf, State.setCtl_wf, State.updCtx_wf]

theorem State.signalDone_wf (s : State) (vf : BitVec 7) (at_ : W64) (seq : W64) (status : BitVec 8) (h0 : s.Wf) :
    (State.signalDone s vf at_ seq status).Wf := by
  unfold State.signalDone
  grind -linarith -ring -lia -order -ac [State.Wf, OptWf, State.writeVirt_wf, State.raiseMsix_wf]

theorem State.completeLaunch_wf (s : State) (vf : BitVec 7) (l : Launch) (status : BitVec 8) (h0 : s.Wf) :
    (State.completeLaunch s vf l status).Wf := by
  have hf (s : State) (l : List (BitVec 10)) (h : s.Wf) : (l.foldl (State.release vf) s).Wf :=
    foldl_wf _ (fun t x ht => State.release_wf vf t x ht) _ _ h
  unfold State.completeLaunch
  grind -linarith -ring -lia -order -ac (splits := 30) [State.Wf, State.signalDone_wf, State.release_wf, State.endClaim_wf, State.updCtx_wf]

theorem State.accept_wf (s : State) (vf : BitVec 7) (raw : Option (List Byte)) (node : Option (BitVec 10 × BitVec 29 ×
    W32 × Nat)) (h0 : s.Wf) : (State.accept s vf raw node).Wf := by
  unfold State.accept
  grind -linarith -ring -lia -order -ac [State.Wf, State.readChunks_wf, State.fresh_wf, State.updCtx_wf, State.completeLaunch_wf]

theorem State.launched_wf (s : State) (r : LaunchReq) (seq : W64) (h0 : s.Wf) : (State.launched s r seq).Wf := by
  unfold State.launched
  grind -linarith -ring -lia -order -ac [State.Wf, Out.Wf, OptWf, ExcWf, Pass.Wf, Fetched.Wf, RecFetch.Wf, StepWf, State.mapWhere_wf]

theorem State.createLaunch_wf (s : State) (vf : BitVec 7) (n : BitVec 10) (r : W256) (t : Nat) (h0 : s.Wf) :
    (State.createLaunch s vf n r t).Wf := by
  unfold State.createLaunch
  grind -linarith -ring -lia -order -ac [State.Wf, State.claim_wf, State.readChunks_wf, State.accept_wf]

theorem fullLaunches_wf (vf : BitVec 7) (n : BitVec 10) (r : W256) (y3 : Nat) (y4 : State) (h0 : y4.Wf) :
    (fullLaunches vf n r y3 y4).Wf := by
  revert h0
  fun_induction fullLaunches <;> intro h0 <;> grind -linarith -ring -lia -order -ac [State.Wf, State.createLaunch_wf]

theorem State.decide_wf (s : State) (vf : BitVec 7) (n : BitVec 10) (r : W256) (h0 : s.Wf) : (State.decide s vf n
    r).Wf := by
  unfold State.decide
  grind -linarith -ring -lia -order -ac [State.Wf, fullLaunches_wf, State.createLaunch_wf, State.updCtx_wf]

theorem State.nodeRecord_wf (s : State) (vf : BitVec 7) (n : BitVec 10) (h0 : s.Wf) : (State.nodeRecord s vf n).2.Wf
    := by
  unfold State.nodeRecord
  grind -linarith -ring -lia -order -ac [State.Wf, State.readVirt_wf]

/-! ## System -/

theorem State.softTrap_wf (s : State) (cause : BitVec 9) (h0 : s.Wf) : (State.softTrap s cause).Wf := by
  unfold State.softTrap
  grind -linarith -ring -lia -order -ac [State.Wf, State.takeTrap_wf, State.advance_wf]

theorem State.inHandler_wf (s : State) (u : Use) (f : State → State) (h0 : s.Wf) (h1 : ∀ t, t.Wf → (f t ).Wf) :
    (State.inHandler s u f).Wf := by
  unfold State.inHandler
  grind -linarith -ring -lia -order -ac [State.Wf, State.issue_wf, State.trap_wf]

theorem State.writeRecord_wf (s : State) (d : BitVec 6) (h : BitVec 128) (h0 : s.Wf) : (State.writeRecord s d h).Wf
    := by
  unfold State.writeRecord
  grind -linarith -ring -lia -order -ac [State.Wf, Out.Wf, OptWf, ExcWf, Pass.Wf, Fetched.Wf, RecFetch.Wf, StepWf, State.writeS_wf]

/-! ## Debug -/

theorem State.clearCounts_wf (s : State) (vf : BitVec 7) (which : BitVec 4 → Bool) (h0 : s.Wf) : (State.clearCounts s
    vf which).Wf := by
  unfold State.clearCounts
  exact h0

theorem State.disarm_wf (s : State) (which : BitVec 4 → Bool) (h0 : s.Wf) : (State.disarm s which).Wf := by
  unfold State.disarm
  grind -linarith -ring -lia -order -ac [State.Wf, State.issue_wf, State.advance_wf, State.updCtx_wf, State.clearCounts_wf]

theorem State.debug_wf (s : State) (u : Use) (a : BitVec 6) (f : State → Target → State) (h0 : s.Wf) (h1 : ∀ t a1,
    t.Wf → (f t a1).Wf) : (State.debug s u a f).Wf := by
  unfold State.debug
  repeat' split
  all_goals grind -linarith -ring -lia -order -ac [State.Wf, Out.Wf, OptWf, ExcWf, Pass.Wf, Fetched.Wf, RecFetch.Wf, StepWf, State.issue_wf,
      State.trap_wf]

theorem State.holdStacked_wf (s : State) (lane : Nat) (h : Stop) (h0 : s.Wf) : (State.holdStacked s lane h).Wf := by
  unfold State.holdStacked
  repeat' split
  all_goals grind -linarith -ring -lia -order -ac [State.Wf, Out.Wf, OptWf, ExcWf, Pass.Wf, Fetched.Wf, RecFetch.Wf, StepWf, State.traceSplit_wf]

theorem State.debugHalt_wf (s : State) (scope : BitVec 2) (lane : Nat) (h0 : s.Wf) : (State.debugHalt s scope
    lane).Wf := by
  unfold State.debugHalt
  repeat' split
  all_goals grind -linarith -ring -lia -order -ac [State.Wf, Out.Wf, OptWf, ExcWf, Pass.Wf, Fetched.Wf, RecFetch.Wf, StepWf, State.holdLane_wf,
      State.holdStacked_wf, State.mapGang_wf]

theorem State.eachGroup_wf (s : State) (f : State → State) (h0 : s.Wf) (h1 : ∀ t, t.Wf → (f t ).Wf) : (State.eachGroup
    s f).Wf := by
  unfold State.eachGroup
  exact foldl_wf _ (fun t x ht => State.at_wf t _ f ht h1) _ _ h0

theorem State.debugGo_wf (s : State) (scope : BitVec 2) (lane : Nat) (h0 : s.Wf) : (State.debugGo s scope lane).2.Wf
    := by
  unfold State.debugGo
  grind -linarith -ring -lia -order -ac [State.Wf, State.recheck_wf, State.eachGroup_wf]

theorem State.haltTarget_wf (s : State) (t : Target) (scope : BitVec 2) (h0 : s.Wf) : (State.haltTarget s t
    scope).2.Wf := by
  unfold State.haltTarget
  grind -linarith -ring -lia -order -ac [State.Wf, OptWf, State.focus_wf, State.at_wf, State.debugHalt_wf]

theorem State.goTarget_wf (s : State) (t : Target) (scope : BitVec 2) (h0 : s.Wf) : (State.goTarget s t scope).2.Wf :=
    by
  unfold State.goTarget
  grind -linarith -ring -lia -order -ac [State.Wf, OptWf, State.focus_wf, State.debugGo_wf, State.at_wf]

theorem State.carveStep_wf (s : State) (lane : Nat) (h0 : s.Wf) : ExcWf (State.carveStep s lane) := by
  unfold State.carveStep
  grind -linarith -ring -lia -order -ac [State.Wf, ExcWf, State.traceSplit_wf]

theorem State.stepTarget_wf (s : State) (t : Target) (agent : Option (GroupRef × BitVec 6)) (h0 : s.Wf) :
    (State.stepTarget s t agent).Wf := by
  unfold State.stepTarget
  grind -linarith -ring -lia -order -ac [State.Wf, OptWf, ExcWf, State.focus_wf, State.stepStatus_wf, State.carveStep_wf, State.at_wf]

theorem State.writeTarget_wf (s : State) (t : Target) (r : BitVec 9) (v : W64) (force : Bool) (h0 : s.Wf) :
    (State.writeTarget s t r v force).2.Wf := by
  unfold State.writeTarget
  grind -linarith -ring -lia -order -ac [State.Wf, OptWf, State.focus_wf, State.at_wf]

theorem State.endDbgRd_wf (s : State) (e : Entry) (g : GroupRef) (lane : BitVec 6) (r : BitVec 9) (h0 : s.Wf) :
    (State.endDbgRd s e g lane r).Wf := by
  unfold State.endDbgRd
  grind -linarith -ring -lia -order -ac [State.Wf, State.keeping_wf, State.writeS_wf, State.dropEntry_wf, State.fillDest_wf]

theorem State.debugWr_wf (s : State) (d : BitVec 6) (a : BitVec 6) (r : BitVec 9) (force : Bool) (h0 : s.Wf) :
    (State.debugWr s d a r force).Wf := by
  unfold State.debugWr
  grind -linarith -ring -lia -order -ac [State.Wf, State.debug_wf, State.writeTarget_wf, State.advance_wf, State.at_wf, State.writeS_wf]

theorem State.mirror_wf (s : State) (vf : BitVec 7) (f : State → Target → State) (h0 : s.Wf) (h1 : ∀ t a1, t.Wf → (f
    t a1).Wf) : (State.mirror s vf f).Wf := by
  unfold State.mirror
  repeat' split
  all_goals grind -linarith -ring -lia -order -ac [State.Wf, Out.Wf, OptWf, ExcWf, Pass.Wf, Fetched.Wf, RecFetch.Wf, StepWf, State.updCtx_wf]

theorem State.mirrorStat_wf (s : State) (vf : BitVec 7) (st : W64) (h0 : s.Wf) : (State.mirrorStat s vf st).Wf := by
  unfold State.mirrorStat
  exact h0

/-! ## Faults -/

theorem State.endTv_wf (s : State) (e : Entry) (h0 : s.Wf) : (State.endTv s e).Wf := by
  unfold State.endTv
  grind -linarith -ring -lia -order -ac [State.Wf, State.dropEntry_wf, State.fillDest_wf, State.keeping_wf]

theorem State.haltLate_wf (s : State) (act : BitVec 3) (k : BitVec 2) (lane : Nat) (h : Stop) (h0 : s.Wf) :
    (State.haltLate s act k lane h).Wf := by
  unfold State.haltLate
  repeat' split
  all_goals grind -linarith -ring -lia -order -ac [State.Wf, Out.Wf, OptWf, ExcWf, Pass.Wf, Fetched.Wf, RecFetch.Wf, StepWf, State.holdLane_wf,
      State.holdStacked_wf, State.halt_wf]

theorem State.actLate_wf (s : State) (fs : List Firing) (e : Entry) (h0 : s.Wf) : (State.actLate s fs e).Wf := by
  unfold State.actLate
  grind -linarith -ring -lia -order -ac [State.Wf, Out.Wf, OptWf, ExcWf, Pass.Wf, Fetched.Wf, RecFetch.Wf, StepWf,
    State.logFirings_wf, State.pend_wf, State.haltLate_wf]

theorem State.retryEntry_wf (s : State) (e : Entry) (h0 : s.Wf) : (State.retryEntry s e).Wf := by
  unfold State.retryEntry
  grind -linarith -ring -lia -order -ac [State.Wf, Out.Wf, OptWf, ExcWf, Pass.Wf, Fetched.Wf, RecFetch.Wf, StepWf,
    State.updEntry_wf, State.loadEntry_wf, State.loadWhole_wf, State.dropEntry_wf, State.refuseWhole_wf,
    State.launchEntry_wf, State.failEntry_wf]

theorem State.releaseHere_wf (page : W64) (s : State) (h0 : s.Wf) : (State.releaseHere page s).Wf := by
  unfold State.releaseHere
  exact foldl_wf _ (fun t x ht => State.retryEntry_wf t x ht) _ _ h0

theorem State.atAll_wf (s : State) (f : State → State) (l : List GroupRef) (h0 : s.Wf) (h1 : ∀ t, t.Wf → (f t ).Wf) :
    (State.atAll s f l).Wf := by
  unfold State.atAll
  exact foldl_wf _ (fun t x ht => State.at_wf t x f ht h1) _ _ h0

theorem State.releasePage_wf (s : State) (vf : BitVec 7) (page : W64) (h0 : s.Wf) : (State.releasePage s vf page).Wf
    := by
  unfold State.releasePage
  grind -linarith -ring -lia -order -ac [State.Wf, State.atAll_wf, State.releaseHere_wf]

theorem State.dropRecord_wf (s : State) (f : FaultRec) (h0 : s.Wf) : (State.dropRecord s f).Wf := by
  unfold State.dropRecord
  exact h0

theorem State.refuseSplits_wf (page : W64) (s : State) (h0 : s.Wf) : (State.refuseSplits page s).Wf := by
  unfold State.refuseSplits
  exact foldl_wf _ (fun t x ht => State.pend_wf t x ht) _ _ h0

theorem State.refuseEntry_wf (page : W64) (s : State) (e : Entry) (h0 : s.Wf) : (State.refuseEntry page s e).Wf := by
  unfold State.refuseEntry
  grind -linarith -ring -lia -order -ac [State.Wf, State.updEntry_wf, State.failEntry_wf]

theorem State.refuseHere_wf (page : W64) (s : State) (h0 : s.Wf) : (State.refuseHere page s).Wf := by
  unfold State.refuseHere
  exact foldl_wf _ (fun t x ht => State.refuseEntry_wf page t x ht) _ _ (State.refuseSplits_wf page s h0)

theorem State.unparkIdle_wf (s : State) (h0 : s.Wf) : (State.unparkIdle s).Wf := by
  unfold State.unparkIdle
  exact foldl_wf (fun (s : State) p => { s with grp := s.grp.unpark p }) (fun _ _ ht => ht) _ _ h0

theorem State.dropPage_wf (s : State) (vf : BitVec 7) (va : W64) (h0 : s.Wf) : (State.dropPage s vf va).Wf := by
  unfold State.dropPage
  exact h0

theorem State.healFrame_wf (s : State) (src : BitVec 52) (n : Nat) (h0 : s.Wf) : (State.healFrame s src n).Wf := by
  unfold State.healFrame
  exact foldl_wf (fun (s : State) l => (s.readLine (l ++ 0#6) 64 { mirror := true }).2)
    (fun t _ ht => State.readLine_wf t _ _ _ ht) _ _ h0

theorem State.copyFrame_wf (s : State) (src : BitVec 52) (dst : BitVec 52) (n : Nat) (h0 : s.Wf) :
    (State.copyFrame s src dst n).Wf :=
  ⟨copyRange_wf _ _ _ _ h0.1, h0.2⟩

theorem State.copyPage_wf (s : State) (level : Nat) (pte : BitVec 128) (frame : BitVec 52) (h0 : s.Wf) :
    (State.copyPage s level pte frame).Wf := by
  unfold State.copyPage
  grind -linarith -ring -lia -order -ac [State.Wf, Out.Wf, OptWf, ExcWf, Pass.Wf, Fetched.Wf, RecFetch.Wf, StepWf,
    State.copyFrame_wf, State.healFrame_wf]

theorem State.moveLeaf_wf (s : State) (vf : BitVec 7) (va : W64) (level : Nat) (pte : BitVec 128) (at_ : BitVec 52)
    (frame : BitVec 52) (h0 : s.Wf) : (State.moveLeaf s vf va level pte at_ frame).Wf := by
  unfold State.moveLeaf
  grind -linarith -ring -lia -order -ac [State.Wf, Out.Wf, OptWf, ExcWf, Pass.Wf, Fetched.Wf, RecFetch.Wf, StepWf,
    State.logDirty_wf, State.dropPage_wf, State.writePhys_wf]

theorem State.movePage_wf (s : State) (vf : BitVec 7) (va : W64) (level : Nat) (pte : BitVec 128) (at_ : BitVec 52)
    (frame : BitVec 52) (h0 : s.Wf) : (State.movePage s vf va level pte at_ frame).Wf := by
  unfold State.movePage
  grind -linarith -ring -lia -order -ac [State.Wf, Out.Wf, OptWf, ExcWf, Pass.Wf, Fetched.Wf, RecFetch.Wf, StepWf,
    State.moveLeaf_wf, State.copyPage_wf]

theorem State.toHost_wf (s : State) (f : FaultRec) (h0 : s.Wf) : (State.toHost s f).Wf := by
  unfold State.toHost
  grind -linarith -ring -lia -order -ac [State.Wf, Out.Wf, OptWf, ExcWf, Pass.Wf, Fetched.Wf, RecFetch.Wf, StepWf, State.forward_wf, State.updCtx_wf]

theorem State.giveFrame_wf (s : State) (level : BitVec 3) (pa : BitVec 52) (h0 : s.Wf) : (State.giveFrame s level
    pa).Wf := by
  unfold State.giveFrame
  grind -linarith -ring -lia -order -ac [State.Wf, Out.Wf, OptWf, ExcWf, Pass.Wf, Fetched.Wf, RecFetch.Wf, StepWf]

theorem State.markStale_wf (s : State) (vf : BitVec 7) (covers : W64 → Bool) (h0 : s.Wf) : (State.markStale s vf
    covers).Wf := by
  unfold State.markStale
  grind -linarith -ring -lia -order -ac [State.Wf, Out.Wf, OptWf, ExcWf, Pass.Wf, Fetched.Wf, RecFetch.Wf, StepWf,
    State.mapWhere_wf]

theorem State.dropAllPages_wf (s : State) (vf : BitVec 7) (h0 : s.Wf) : (State.dropAllPages s vf).Wf := by
  unfold State.dropAllPages
  grind -linarith -ring -lia -order -ac [State.Wf, Out.Wf, OptWf, ExcWf, Pass.Wf, Fetched.Wf, RecFetch.Wf, StepWf]

/-! ## Sched -/

theorem State.pass_wf (s : State) (ns : BitVec 32) (cycles : BitVec 32) (lost : List (BitVec 32)) (h0 : s.Wf) :
    (State.pass s ns cycles lost).Wf := by
  unfold State.pass
  grind -linarith -ring -lia -order -ac [State.Wf, Out.Wf, OptWf, ExcWf, Pass.Wf, Fetched.Wf, RecFetch.Wf, StepWf,
    State.mapWhere_wf]

theorem State.nextMove_wf (s : State) (h0 : s.Wf) : (State.nextMove s).2.Wf := by
  unfold State.nextMove
  grind -linarith -ring -lia -order -ac [State.Wf]

theorem State.freeBank_wf (s : State) (die : BitVec 3) (core : BitVec 7) (vf : BitVec 7) (h0 : s.Wf) :
    (State.freeBank s die core vf).Wf := by
  unfold State.freeBank
  grind -linarith -ring -lia -order -ac [State.Wf, Out.Wf, OptWf, ExcWf, Pass.Wf, Fetched.Wf, RecFetch.Wf, StepWf]

theorem State.dropMarks_wf (s : State) (gone : GangRef → Bool) (h0 : s.Wf) : (State.dropMarks s gone).Wf := by
  unfold State.dropMarks
  exact h0

theorem State.leaveCore_wf (s : State) (h0 : s.Wf) : (State.leaveCore s).Wf := by
  unfold State.leaveCore
  grind -linarith -ring -lia -order -ac [State.Wf, Out.Wf, OptWf, ExcWf, Pass.Wf, Fetched.Wf, RecFetch.Wf, StepWf, State.freeBank_wf]

theorem State.retireGang_wf (s : State) (h0 : s.Wf) : (State.retireGang s).Wf := by
  unfold State.retireGang
  grind -linarith -ring -lia -order -ac [State.Wf, Out.Wf, OptWf, ExcWf, Pass.Wf, Fetched.Wf, RecFetch.Wf, StepWf,
    State.leaveCore_wf, State.dropMarks_wf, State.returnPermits_wf, State.updCtx_wf]

theorem State.zeroBank_wf (s : State) (base : Nat) (n : Nat) (h0 : s.Wf) : (State.zeroBank s base n).Wf := by
  unfold State.zeroBank
  grind -linarith -ring -lia -order -ac (splits := 30) [Memory.wf, SMap.wf_setRange, SMap.wf_filter, SMap.wf_set, writeRing_wf, getD_wf, State.Wf,
    Out.Wf, OptWf, ExcWf, Pass.Wf, Fetched.Wf]

theorem State.place_wf (s : State) (r : Resident) (h0 : s.Wf) : (State.place s r).Wf := by
  unfold State.place
  grind -linarith -ring -lia -order -ac [State.Wf, Out.Wf, OptWf, ExcWf, Pass.Wf, Fetched.Wf, RecFetch.Wf, StepWf, State.freeBank_wf]

theorem State.countAdmitted_wf (s : State) (vf : BitVec 7) (seq : W64) (n : Nat) (h0 : s.Wf) : (State.countAdmitted s
    vf seq n).Wf := by
  unfold State.countAdmitted
  exact h0

theorem freshBases_wf (y0 : List (Nat × W256)) (y1 : State) (y2 : SMap 256) (h0 : y1.Wf) : (freshBases y0 y1 y2).2.Wf
    := by
  revert h0
  fun_induction freshBases <;> intro h0 <;> grind -linarith -ring -lia -order -ac [State.Wf, State.fresh_wf]

theorem State.comeBack_wf (s : State) (r : Resident) (die : BitVec 3) (core : BitVec 7) (h0 : s.Wf) : (State.comeBack
    s r die core).2.Wf := by
  unfold State.comeBack
  grind -linarith -ring -lia -order -ac [State.Wf, freshBases_wf]

theorem State.rerun_wf (s : State) (h0 : s.Wf) : (State.rerun s).Wf := by
  unfold State.rerun
  grind -linarith -ring -lia -order -ac [State.Wf, State.reinjectAll_wf]

theorem State.rerunFailed_wf (s : State) (l : List Evicted) (h0 : s.Wf) : (State.rerunFailed s l).Wf := by
  unfold State.rerunFailed
  grind -linarith -ring -lia -order -ac [State.Wf, Out.Wf, OptWf, ExcWf, Pass.Wf, Fetched.Wf, RecFetch.Wf, StepWf, State.atAll_wf, State.rerun_wf]

theorem State.placeNew_wf (vf : BitVec 7) (l : Launch) (base : BitVec 29) (die : BitVec 3) (y4 : Nat) (y5 : List
    (BitVec 7)) (y6 : State) (h0 : y6.Wf) : (State.placeNew vf l base die y4 y5 y6).Wf := by
  revert h0
  fun_induction State.placeNew <;> intro h0 <;> grind -linarith -ring -lia -order -ac [State.Wf, State.place_wf]

theorem State.placeBack_wf (die : BitVec 3) (y1 : List Resident) (y2 : List (BitVec 7)) (y3 : State) (h0 : y3.Wf) :
    (State.placeBack die y1 y2 y3).Wf := by
  revert h0
  fun_induction State.placeBack <;> intro h0 <;> grind -linarith -ring -lia -order -ac [State.Wf, State.comeBack_wf, State.place_wf]

theorem State.seenBy_wf (s : State) (r : Resident) (h0 : s.Wf) : (State.seenBy s r).Wf := by
  have hf (m : Memory) (n : Nat) (l : SMap 8) (h : Memory.wf m = true) :
      Memory.wf (l.foldl (fun m c => SMap.set m (c.1 + n) c.2) m) = true :=
    foldl_map_wf _ (fun t x ht => SMap.wf_set t _ _ ht) _ _ h
  unfold State.seenBy
  split
  · exact h0
  · next b _ =>
    have hz := State.zeroBank_wf s b.base.toNat b.bytes h0
    exact ⟨hz.1, hf _ _ _ hz.2⟩

theorem State.evictGang_wf (s : State) (r : GangRef) (always : Bool) (h0 : s.Wf) : (State.evictGang s r always).Wf :=
    by
  unfold State.evictGang
  grind -linarith -ring -lia -order -ac [State.Wf, OptWf, State.focusGang_wf, State.leaveCore_wf]

theorem State.evictUnit_wf (s : State) (u : EvictUnit) (always : Bool) (h0 : s.Wf) : (State.evictUnit s u always).Wf
    := by
  unfold State.evictUnit
  refine foldl_wf _ (fun t x ht => State.evictGang_wf t _ always ht) _ _ ?_
  grind -linarith -ring -lia -order -ac [State.Wf, State.zeroBank_wf]

theorem State.wakeGang_wf (s : State) (g : Gang) (h0 : s.Wf) : (State.wakeGang s g).Wf := by
  unfold State.wakeGang
  grind -linarith -ring -lia -order -ac [State.Wf, Out.Wf, OptWf, ExcWf, Pass.Wf, Fetched.Wf, RecFetch.Wf, StepWf]

theorem State.noteWakes_wf (s : State) (h0 : s.Wf) : (State.noteWakes s).Wf := by
  unfold State.noteWakes
  exact foldl_wf _ (fun t x ht => State.wakeGang_wf _ _ ht) _ _ h0

theorem State.noteBlocked_wf (s : State) (h0 : s.Wf) : (State.noteBlocked s).Wf := by
  unfold State.noteBlocked
  grind -linarith -ring -lia -order -ac [State.Wf, Out.Wf, OptWf, ExcWf, Pass.Wf, Fetched.Wf, RecFetch.Wf, StepWf]

/-! ## Save -/

theorem State.removeGangs_wf (y0 : List GangRef) (y1 : State) (h0 : y1.Wf) : (State.removeGangs y0 y1).Wf := by
  revert h0
  fun_induction State.removeGangs <;> intro h0 <;> grind -linarith -ring -lia -order -ac [State.Wf, OptWf, State.focusGang_wf, State.leaveCore_wf,
    State.returnPermits_wf]

theorem State.sweep_wf (s : State) (vf : BitVec 7) (h0 : s.Wf) : (State.sweep s vf).Wf := by
  unfold State.sweep
  grind -linarith -ring -lia -order -ac [State.Wf, State.removeGangs_wf]

theorem State.dropCaches_wf (s : State) (vf : BitVec 7) (h0 : s.Wf) : (State.dropCaches s vf).Wf := by
  unfold State.dropCaches
  grind -linarith -ring -lia -order -ac [State.Wf, Out.Wf, OptWf, ExcWf, Pass.Wf, Fetched.Wf, RecFetch.Wf, StepWf]

theorem State.cancel_wf (s : State) (vf : BitVec 7) (h0 : s.Wf) : (State.cancel s vf).Wf := by
  unfold State.cancel
  exact foldl_wf _ (fun t x ht => State.signalDone_wf t vf _ _ _ ht) _ _ h0

theorem State.resetContext_wf (s : State) (vf : BitVec 7) (h0 : s.Wf) : (State.resetContext s vf).Wf := by
  unfold State.resetContext
  grind -linarith -ring -lia -order -ac [State.Wf, Out.Wf, OptWf, ExcWf, Pass.Wf, Fetched.Wf, RecFetch.Wf, StepWf,
    State.updCtx_wf, State.dropMarks_wf, State.dropCaches_wf, State.cancel_wf, State.sweep_wf]

theorem State.returned_wf (s : State) (vf : BitVec 7) (device : BitVec 12) (h0 : s.Wf) : (State.returned s vf
    device).Wf := by
  unfold State.returned
  grind -linarith -ring -lia -order -ac [State.Wf, Out.Wf, OptWf, ExcWf, Pass.Wf, Fetched.Wf, RecFetch.Wf, StepWf, State.updCtx_wf]

theorem State.writeCtxCtl_wf (s : State) (vf : BitVec 7) (v : W64) (h0 : s.Wf) : (State.writeCtxCtl s vf v).Wf := by
  unfold State.writeCtxCtl
  grind -linarith -ring -lia -order -ac [State.Wf, State.updCtx_wf, State.resetContext_wf]

theorem State.releaseRegions_wf (s : State) (vf : BitVec 7) (h0 : s.Wf) : (State.releaseRegions s vf).Wf := by
  unfold State.releaseRegions
  exact State.updCtx_wf _ _ _ (foldl_wf _ (fun t x ht => State.zeroBank_wf t _ _ ht) _ _ h0)

theorem State.loadBank_wf (s : State) (vf : BitVec 7) (a : BitVec 29) (b : List Byte) (h0 : s.Wf) : (State.loadBank s
    vf a b).Wf := by
  unfold State.loadBank
  grind -linarith -ring -lia -order -ac [State.Wf, Out.Wf, OptWf, ExcWf, Pass.Wf, Fetched.Wf, RecFetch.Wf, StepWf, State.writeBank_wf]

theorem State.putImage_wf (s : State) (vf : BitVec 7) (h0 : s.Wf) : (State.putImage s vf).Wf := by
  unfold State.putImage
  grind -linarith -ring -lia -order -ac [State.Wf, Out.Wf, OptWf, ExcWf, Pass.Wf, Fetched.Wf, RecFetch.Wf, StepWf,
    State.fresh_wf, State.writeVirt_wf, State.updCtx_wf, State.mapWhere_wf]

theorem State.shiftSleepers_wf (s : State) (vf : BitVec 7) (gap : W64) (h0 : s.Wf) : (State.shiftSleepers s vf gap).Wf
    := by
  unfold State.shiftSleepers
  grind -linarith -ring -lia -order -ac [State.Wf, Out.Wf, OptWf, ExcWf, Pass.Wf, Fetched.Wf, RecFetch.Wf, StepWf,
    State.mapWhere_wf]

theorem State.placeAll_wf (vf : BitVec 7) (places : List Placement) (y2 : List Resident) (y3 : State) (h0 : y3.Wf) :
    OptWf (State.placeAll vf places y2 y3) := by
  revert h0
  fun_induction State.placeAll <;> intro h0 <;> grind -linarith -ring -lia -order -ac [State.Wf, OptWf, State.comeBack_wf, State.place_wf]

theorem State.freshSegs_wf (s : State) (y1 : List GangRef) (h0 : s.Wf) : (State.freshSegs s y1).Wf := by
  revert h0
  fun_induction State.freshSegs <;> intro h0 <;> grind -linarith -ring -lia -order -ac [State.Wf, Out.Wf, OptWf, ExcWf, Pass.Wf, Fetched.Wf,
      RecFetch.Wf, StepWf, State.focusGang_wf, freshBases_wf]

theorem State.clearCore_wf (s : State) (die : BitVec 3) (core : BitVec 7) (names : List GangRef) (spare : Bool)
    (h0 : s.Wf) : (State.clearCore s die core names spare).Wf := by
  unfold State.clearCore
  grind -linarith -ring -lia -order -ac [State.Wf, State.mapWhere_wf]

theorem State.evictAlways_wf (s : State) (u : EvictUnit) (h0 : s.Wf) : (State.evictAlways s u).Wf := by
  unfold State.evictAlways
  grind -linarith -ring -lia -order -ac [State.Wf, Out.Wf, OptWf, ExcWf, Pass.Wf, Fetched.Wf, RecFetch.Wf, StepWf, State.evictUnit_wf]

theorem State.repairFile_wf (s : State) (die : BitVec 3) (core : BitVec 7) (active : BitVec 20) (backing : BitVec 21)
    (h0 : s.Wf) : (State.repairFile s die core active backing).Wf := by
  unfold State.repairFile
  grind -linarith -ring -lia -order -ac [State.Wf, Out.Wf, OptWf, ExcWf, Pass.Wf, Fetched.Wf, RecFetch.Wf, StepWf]

/-! ## Host -/

theorem State.setIdle_wf (s : State) (vf : BitVec 7) (f : Context → Context) (h0 : s.Wf) : (State.setIdle s vf f).Wf
    := by
  unfold State.setIdle
  exact h0

theorem State.updSink_wf (s : State) (die : BitVec 3) (f : Sink → Sink) (h0 : s.Wf) : (State.updSink s die f).Wf := by
  unfold State.updSink
  exact h0

theorem State.updSampleSink_wf (s : State) (die : BitVec 3) (f : Sink → Sink) (h0 : s.Wf) : (State.updSampleSink s die
    f).Wf := by
  unfold State.updSampleSink
  exact h0

theorem State.reply_wf (s : State) (r : Reply) (h0 : s.Wf) : (State.reply s r).Wf := by unfold State.reply; exact h0

theorem State.hostAddr_wf (s : State) (mapping : Option (BitVec 7)) (addr : W64) (write : Bool) (h0 : s.Wf) :
    (State.hostAddr s mapping addr write).2.Wf := by
  unfold State.hostAddr
  grind -linarith -ring -lia -order -ac [State.Wf, State.translate_wf]

theorem State.readReach_wf (s : State) (r : Reach) (n : Nat) (h0 : s.Wf) : (State.readReach s r n).2.Wf := by
  unfold State.readReach
  grind -linarith -ring -lia -order -ac [State.Wf, Out.Wf, OptWf, ExcWf, Pass.Wf, Fetched.Wf, RecFetch.Wf, StepWf,
    State.readBankLine_wf, State.readLine_wf]

theorem State.writeReach_wf (s : State) (r : Reach) (b : List Byte) (h0 : s.Wf) : (State.writeReach s r b).Wf := by
  unfold State.writeReach
  grind -linarith -ring -lia -order -ac [State.Wf, Out.Wf, OptWf, ExcWf, Pass.Wf, Fetched.Wf, RecFetch.Wf, StepWf, State.writeBank_wf,
      State.writeKeyed_wf]

theorem State.setRemoteHeld_wf (s : State) (sender : BitVec 12) (p : RemotePmt) (y3 : W32) (h0 : s.Wf) :
    (State.setRemoteHeld s sender p y3).Wf := by
  unfold State.setRemoteHeld
  grind -linarith -ring -lia -order -ac [State.Wf, Out.Wf, OptWf, ExcWf, Pass.Wf, Fetched.Wf, RecFetch.Wf, StepWf]

theorem State.giveBack_wf (s : State) (l : List RemoteHolder) (h0 : s.Wf) : (State.giveBack s l).Wf := by
  unfold State.giveBack
  refine foldl_wf _ (fun t x ht => ?_) _ _ h0
  grind -linarith -ring -lia -order -ac [State.setCtl_wf]

theorem State.putSample_wf (s : State) (die : BitVec 3) (b : List Byte) (h0 : s.Wf) : (State.putSample s die b).Wf :=
    by
  unfold State.putSample
  grind -linarith -ring -lia -order -ac (splits := 30) [Memory.wf, SMap.wf_setRange, SMap.wf_filter, SMap.wf_set, writeRing_wf, getD_wf, State.Wf,
    Out.Wf, OptWf, ExcWf, Pass.Wf, Fetched.Wf]

/-! ## Service -/

theorem State.moduleReset_wf (s : State) (h0 : s.Wf) : (State.moduleReset s).Wf := by
  unfold State.moduleReset State.fresh
  exact ⟨putTiers_wf _ _ (SMap.wf_filter _ _ h0.1), rfl⟩

theorem State.freezeFor_wf (s : State) (cause : BitVec 2) (h0 : s.Wf) : (State.freezeFor s cause).Wf := by
  unfold State.freezeFor
  grind -linarith -ring -lia -order -ac [State.Wf]

theorem State.evacuate_wf (y0 : List Leaf) (y1 : State) (h0 : y1.Wf) : (State.evacuate y0 y1).Wf := by
  have hf (s : State) (l : List Leaf) (g : State → Leaf → State) (hg : ∀ t y, t.Wf → (g t y).Wf) (h : s.Wf) :
      (l.foldl g s).Wf := foldl_wf g hg l s h
  revert h0
  fun_induction State.evacuate with
  | case1 s => exact id
  | case2 x t s ih =>
    intro h0
    refine ih ?_
    split
    · exact h0
    · split
      · exact h0
      · exact hf _ _ _ (fun u y hu => State.moveLeaf_wf u _ _ _ _ _ _ hu) (State.copyPage_wf _ _ _ _ h0)

/-! ## Settle -/

theorem State.retest_wf (s : State) (h0 : s.Wf) : (State.retest s).Wf := by
  unfold State.retest
  grind -linarith -ring -lia -order -ac [State.Wf, Out.Wf, OptWf, ExcWf, Pass.Wf, Fetched.Wf, RecFetch.Wf, StepWf]

theorem State.settle_wf (s : State) (h0 : s.Wf) : (State.settle s).Wf := by
  unfold State.settle
  grind -linarith -ring -lia -order -ac [State.Wf, Out.Wf, OptWf, ExcWf, Pass.Wf, Fetched.Wf, RecFetch.Wf, StepWf, State.noteWakes_wf,
      State.noteBlocked_wf, State.retest_wf]

theorem State.stepWaiting_wf (s : State) (h0 : s.Wf) : StepWf (State.stepWaiting s) := by
  unfold State.stepWaiting
  repeat' split
  all_goals grind -linarith -ring -lia -order -ac [State.Wf, Out.Wf, OptWf, ExcWf, Pass.Wf, Fetched.Wf, RecFetch.Wf, StepWf, State.wake_wf,
      State.writeS_wf, State.updSp_wf]

/-! ## Step -/

theorem State.startGroup_wf (s : State) (h0 : s.Wf) : (State.startGroup s).Wf := by unfold State.startGroup; exact h0

theorem State.withFetchWord_wf (s : State) (nbits : Nat) (w : Nat) (h0 : s.Wf) : (State.withFetchWord s nbits w).Wf :=
    by
  unfold State.withFetchWord
  grind -linarith -ring -lia -order -ac [State.Wf, State.startGroup_wf, State.updCtx_wf, State.writePhys_wf]

end Sys2Proof.Machine
end

