-- ==== Sys2Proof/Laws/KeptExec.lean ====
section
/-!
SUPPORT. Sys2Proof/Laws/KeptExec.lean: every meaning keeps the memories in their canonical form: one lemma per meaning,
named after it.
-/

-- one theorem after another: in parallel they take more memory than the package may
set_option Elab.async false


namespace Sys2Proof.Machine

/-! ## Control -/

theorem execNop_wf (s : State) (h0 : s.Wf) : Out.Wf (execNop s) := by
  unfold execNop
  grind -linarith -ring -lia -order -ac [State.Wf, Out.Wf, State.issue_wf, State.advance_wf]

theorem execExit_wf (s : State) (h0 : s.Wf) : Out.Wf (execExit s) := by
  unfold execExit
  grind -linarith -ring -lia -order -ac [State.Wf, Out.Wf, State.issue_wf, State.exitLanes_wf]

theorem execBra_wf (d : BitVec 18) (s : State) (h0 : s.Wf) : Out.Wf (execBra d s) := by
  unfold execBra
  grind -linarith -ring -lia -order -ac [State.Wf, Out.Wf, State.issue_wf, State.branch_wf]

theorem execBrmAny_wf (r : BitVec 6) (w : BitVec 1) (d : BitVec 18) (s : State) (h0 : s.Wf) : Out.Wf (execBrmAny r w d
    s) := by
  unfold execBrmAny
  grind -linarith -ring -lia -order -ac [State.Wf, Out.Wf, State.issue_wf, State.branch_wf, State.divide_wf]

theorem execBrmAll_wf (r : BitVec 6) (w : BitVec 1) (d : BitVec 18) (s : State) (h0 : s.Wf) : Out.Wf (execBrmAll r w d
    s) := by
  unfold execBrmAll
  grind -linarith -ring -lia -order -ac [State.Wf, Out.Wf, State.issue_wf, State.branch_wf]

theorem execBrmNone_wf (r : BitVec 6) (w : BitVec 1) (d : BitVec 18) (s : State) (h0 : s.Wf) : Out.Wf (execBrmNone r w
    d s) := by
  unfold execBrmNone
  grind -linarith -ring -lia -order -ac [State.Wf, Out.Wf, State.issue_wf, State.branch_wf]

theorem execBrz_wf (r : BitVec 6) (w : BitVec 1) (d : BitVec 18) (s : State) (h0 : s.Wf) : Out.Wf (execBrz r w d s) :=
    by
  unfold execBrz
  grind -linarith -ring -lia -order -ac [State.Wf, Out.Wf, State.issue_wf, State.branch_wf]

theorem execBrnz_wf (r : BitVec 6) (w : BitVec 1) (d : BitVec 18) (s : State) (h0 : s.Wf) : Out.Wf (execBrnz r w d s)
    := by
  unfold execBrnz
  grind -linarith -ring -lia -order -ac [State.Wf, Out.Wf, State.issue_wf, State.branch_wf]

theorem execCall_wf (r : BitVec 6) (d : BitVec 18) (s : State) (h0 : s.Wf) : Out.Wf (execCall r d s) := by
  unfold execCall
  grind -linarith -ring -lia -order -ac [State.Wf, Out.Wf, State.issue_wf, State.branch_wf, State.writeS_wf]

theorem execRet_wf (a : BitVec 6) (s : State) (h0 : s.Wf) : Out.Wf (execRet a s) := by
  unfold execRet
  grind -linarith -ring -lia -order -ac [State.Wf, Out.Wf, State.issue_wf, State.jump_wf]

theorem execJmp_wf (a : BitVec 6) (i : BitVec 13) (s : State) (h0 : s.Wf) : Out.Wf (execJmp a i s) := by
  unfold execJmp
  grind -linarith -ring -lia -order -ac [State.Wf, Out.Wf, State.issue_wf, State.jump_wf]

theorem execJoin_wf (a : BitVec 6) (s : State) (h0 : s.Wf) : Out.Wf (execJoin a s) := by
  unfold execJoin
  grind -linarith -ring -lia -order -ac [State.Wf, Out.Wf, State.issue_wf, State.joinThen_wf, State.goto_wf]

theorem execSetm_wf (a : BitVec 6) (s : State) (h0 : s.Wf) : Out.Wf (execSetm a s) := by
  unfold execSetm
  grind -linarith -ring -lia -order -ac [State.Wf, Out.Wf, State.issue_wf, State.advance_wf, State.updSp_wf, State.trap_wf]

theorem execGetm_wf (d : BitVec 6) (s : State) (h0 : s.Wf) : Out.Wf (execGetm d s) := by
  unfold execGetm
  grind -linarith -ring -lia -order -ac [State.Wf, Out.Wf, State.issue_wf, State.advance_wf, State.writeS_wf]

theorem execYield_wf (s : State) (h0 : s.Wf) : Out.Wf (execYield s) := by
  unfold execYield
  grind -linarith -ring -lia -order -ac [State.Wf, Out.Wf, State.issue_wf, State.advance_wf, State.updSp_wf]

theorem execYieldExpiry_wf (g : GroupRef) (k : BitVec 2) (s : State) (h0 : s.Wf) : Out.Wf (execYieldExpiry g k s) :=
    by
  unfold execYieldExpiry
  grind -linarith -ring -lia -order -ac [State.Wf, Out.Wf, State.onGroup_wf]

theorem execSleep_wf (d : BitVec 6) (a : BitVec 6) (e : BitVec 3) (s : State) (h0 : s.Wf) : Out.Wf (execSleep d a e s)
    := by
  unfold execSleep
  grind -linarith -ring -lia -order -ac [State.Wf, Out.Wf, OptWf, ExcWf, Pass.Wf, Fetched.Wf, RecFetch.Wf, StepWf,
    State.issue_wf, State.advance_wf, State.writeS_wf, State.updSp_wf, State.waitIn_wf]

theorem execSleepTimeout_wf (g : GroupRef) (k : BitVec 2) (s : State) (h0 : s.Wf) : Out.Wf (execSleepTimeout g k s) :=
    by
  unfold execSleepTimeout
  refine State.onGroup_wf s g _ h0 fun t ht => ?_
  dsimp only
  repeat' split
  all_goals first | exact ht | exact State.wake_wf t k 0 ht

theorem execSleepEventWake_wf (g : GroupRef) (k : BitVec 2) (s : State) (h0 : s.Wf) : Out.Wf (execSleepEventWake g k
    s) := by
  unfold execSleepEventWake
  grind -linarith -ring -lia -order -ac [State.Wf, Out.Wf, State.onGroup_wf, State.wake_wf]

/-! ## Scalar -/

theorem execSadd_wf (d : BitVec 6) (a : BitVec 6) (b : BitVec 6) (y3 : BitVec 1) (y : BitVec 1) (s : State) (h0 :
    s.Wf) : Out.Wf (execSadd d a b y3 y s) := by
  unfold execSadd
  grind -linarith -ring -lia -order -ac [State.Wf, Out.Wf, OptWf, ExcWf, Pass.Wf, Fetched.Wf, RecFetch.Wf, StepWf, State.scalar2_wf]

theorem execSsub_wf (d : BitVec 6) (a : BitVec 6) (b : BitVec 6) (y3 : BitVec 1) (y : BitVec 1) (s : State) (h0 :
    s.Wf) : Out.Wf (execSsub d a b y3 y s) := by
  unfold execSsub
  grind -linarith -ring -lia -order -ac [State.Wf, Out.Wf, OptWf, ExcWf, Pass.Wf, Fetched.Wf, RecFetch.Wf, StepWf, State.scalar2_wf]

theorem execSmul_wf (d : BitVec 6) (a : BitVec 6) (b : BitVec 6) (y3 : BitVec 1) (y : BitVec 1) (s : State) (h0 :
    s.Wf) : Out.Wf (execSmul d a b y3 y s) := by
  unfold execSmul
  grind -linarith -ring -lia -order -ac [State.Wf, Out.Wf, OptWf, ExcWf, Pass.Wf, Fetched.Wf, RecFetch.Wf, StepWf, State.scalar2_wf]

theorem execSmulh_wf (d : BitVec 6) (a : BitVec 6) (b : BitVec 6) (y3 : BitVec 1) (y : BitVec 1) (s : State) (h0 :
    s.Wf) : Out.Wf (execSmulh d a b y3 y s) := by
  unfold execSmulh
  grind -linarith -ring -lia -order -ac [State.Wf, Out.Wf, OptWf, ExcWf, Pass.Wf, Fetched.Wf, RecFetch.Wf, StepWf, State.scalar2_wf]

theorem execSand_wf (d : BitVec 6) (a : BitVec 6) (b : BitVec 6) (y3 : BitVec 1) (y : BitVec 1) (s : State) (h0 :
    s.Wf) : Out.Wf (execSand d a b y3 y s) := by
  unfold execSand
  grind -linarith -ring -lia -order -ac [State.Wf, Out.Wf, OptWf, ExcWf, Pass.Wf, Fetched.Wf, RecFetch.Wf, StepWf, State.scalar2_wf]

theorem execSor_wf (d : BitVec 6) (a : BitVec 6) (b : BitVec 6) (y3 : BitVec 1) (y : BitVec 1) (s : State) (h0 :
    s.Wf) : Out.Wf (execSor d a b y3 y s) := by
  unfold execSor
  grind -linarith -ring -lia -order -ac [State.Wf, Out.Wf, OptWf, ExcWf, Pass.Wf, Fetched.Wf, RecFetch.Wf, StepWf, State.scalar2_wf]

theorem execSxor_wf (d : BitVec 6) (a : BitVec 6) (b : BitVec 6) (y3 : BitVec 1) (y : BitVec 1) (s : State) (h0 :
    s.Wf) : Out.Wf (execSxor d a b y3 y s) := by
  unfold execSxor
  grind -linarith -ring -lia -order -ac [State.Wf, Out.Wf, OptWf, ExcWf, Pass.Wf, Fetched.Wf, RecFetch.Wf, StepWf, State.scalar2_wf]

theorem execSshl_wf (d : BitVec 6) (a : BitVec 6) (b : BitVec 6) (y3 : BitVec 1) (y : BitVec 1) (s : State) (h0 :
    s.Wf) : Out.Wf (execSshl d a b y3 y s) := by
  unfold execSshl
  grind -linarith -ring -lia -order -ac [State.Wf, Out.Wf, OptWf, ExcWf, Pass.Wf, Fetched.Wf, RecFetch.Wf, StepWf, State.scalar2_wf]

theorem execSshr_wf (d : BitVec 6) (a : BitVec 6) (b : BitVec 6) (y3 : BitVec 1) (y : BitVec 1) (s : State) (h0 :
    s.Wf) : Out.Wf (execSshr d a b y3 y s) := by
  unfold execSshr
  grind -linarith -ring -lia -order -ac [State.Wf, Out.Wf, OptWf, ExcWf, Pass.Wf, Fetched.Wf, RecFetch.Wf, StepWf, State.scalar2_wf]

theorem execSsra_wf (d : BitVec 6) (a : BitVec 6) (b : BitVec 6) (y3 : BitVec 1) (y : BitVec 1) (s : State) (h0 :
    s.Wf) : Out.Wf (execSsra d a b y3 y s) := by
  unfold execSsra
  grind -linarith -ring -lia -order -ac [State.Wf, Out.Wf, OptWf, ExcWf, Pass.Wf, Fetched.Wf, RecFetch.Wf, StepWf, State.scalar2_wf]

theorem execSmin_wf (d : BitVec 6) (a : BitVec 6) (b : BitVec 6) (y3 : BitVec 1) (y : BitVec 1) (s : State) (h0 :
    s.Wf) : Out.Wf (execSmin d a b y3 y s) := by
  unfold execSmin
  grind -linarith -ring -lia -order -ac [State.Wf, Out.Wf, OptWf, ExcWf, Pass.Wf, Fetched.Wf, RecFetch.Wf, StepWf, State.scalar2_wf]

theorem execSmax_wf (d : BitVec 6) (a : BitVec 6) (b : BitVec 6) (y3 : BitVec 1) (y : BitVec 1) (s : State) (h0 :
    s.Wf) : Out.Wf (execSmax d a b y3 y s) := by
  unfold execSmax
  grind -linarith -ring -lia -order -ac [State.Wf, Out.Wf, OptWf, ExcWf, Pass.Wf, Fetched.Wf, RecFetch.Wf, StepWf, State.scalar2_wf]

theorem execSslt_wf (d : BitVec 6) (a : BitVec 6) (b : BitVec 6) (y3 : BitVec 1) (y : BitVec 1) (s : State) (h0 :
    s.Wf) : Out.Wf (execSslt d a b y3 y s) := by
  unfold execSslt
  grind -linarith -ring -lia -order -ac [State.Wf, Out.Wf, OptWf, ExcWf, Pass.Wf, Fetched.Wf, RecFetch.Wf, StepWf, State.scalar2_wf]

theorem execSseq_wf (d : BitVec 6) (a : BitVec 6) (b : BitVec 6) (y3 : BitVec 1) (y : BitVec 1) (s : State) (h0 :
    s.Wf) : Out.Wf (execSseq d a b y3 y s) := by
  unfold execSseq
  grind -linarith -ring -lia -order -ac [State.Wf, Out.Wf, OptWf, ExcWf, Pass.Wf, Fetched.Wf, RecFetch.Wf, StepWf, State.scalar2_wf]

theorem execSpop_wf (d : BitVec 6) (a : BitVec 6) (y2 : BitVec 1) (s : State) (h0 : s.Wf) : Out.Wf (execSpop d a y2
    s) := by
  unfold execSpop
  grind -linarith -ring -lia -order -ac [State.Wf, Out.Wf, OptWf, ExcWf, Pass.Wf, Fetched.Wf, RecFetch.Wf, StepWf, State.scalar1_wf]

theorem execSclz_wf (d : BitVec 6) (a : BitVec 6) (y2 : BitVec 1) (s : State) (h0 : s.Wf) : Out.Wf (execSclz d a y2
    s) := by
  unfold execSclz
  grind -linarith -ring -lia -order -ac [State.Wf, Out.Wf, OptWf, ExcWf, Pass.Wf, Fetched.Wf, RecFetch.Wf, StepWf, State.scalar1_wf]

theorem execSffs_wf (d : BitVec 6) (a : BitVec 6) (y2 : BitVec 1) (s : State) (h0 : s.Wf) : Out.Wf (execSffs d a y2
    s) := by
  unfold execSffs
  grind -linarith -ring -lia -order -ac [State.Wf, Out.Wf, OptWf, ExcWf, Pass.Wf, Fetched.Wf, RecFetch.Wf, StepWf, State.scalar1_wf]

theorem execSaddi_wf (d : BitVec 6) (a : BitVec 6) (i : BitVec 13) (s : State) (h0 : s.Wf) : Out.Wf (execSaddi d a i
    s) := by
  unfold execSaddi
  grind -linarith -ring -lia -order -ac [State.Wf, Out.Wf, State.scalar1_wf]

theorem execSli_wf (d : BitVec 6) (i : BitVec 18) (s : State) (h0 : s.Wf) : Out.Wf (execSli d i s) := by
  unfold execSli
  grind -linarith -ring -lia -order -ac [State.Wf, Out.Wf, State.scalar_wf]

theorem execSliHi_wf (d : BitVec 6) (i : BitVec 18) (s : State) (h0 : s.Wf) : Out.Wf (execSliHi d i s) := by
  unfold execSliHi
  grind -linarith -ring -lia -order -ac [State.Wf, Out.Wf, State.scalar_wf]

theorem execRdsr_wf (d : BitVec 6) (n : BitVec 5) (s : State) (h0 : s.Wf) : Out.Wf (execRdsr d n s) := by
  unfold execRdsr
  grind -linarith -ring -lia -order -ac [State.Wf, Out.Wf, State.scalar_wf]

theorem execRdsrLane_wf (d : BitVec 7) (s : State) (h0 : s.Wf) : Out.Wf (execRdsrLane d s) := by
  unfold execRdsrLane
  grind -linarith -ring -lia -order -ac [State.Wf, Out.Wf, State.issue_wf, State.advance_wf, State.writeV_wf]

theorem execWrsr_wf (a : BitVec 6) (n : BitVec 5) (s : State) (h0 : s.Wf) : Out.Wf (execWrsr a n s) := by
  unfold execWrsr
  grind -linarith -ring -lia -order -ac [State.Wf, Out.Wf, State.issue_wf, State.advance_wf, State.setSpecial_wf]

/-! ## Vector -/

theorem execVcmpEq_wf (d : BitVec 6) (a : BitVec 7) (b : BitVec 7) (y3 : BitVec 1) (y : BitVec 1) (s : State) (h0 :
    s.Wf) : Out.Wf (execVcmpEq d a b y3 y s) := by
  unfold execVcmpEq
  grind -linarith -ring -lia -order -ac [State.Wf, Out.Wf, OptWf, ExcWf, Pass.Wf, Fetched.Wf, RecFetch.Wf, StepWf, State.compare_wf]

theorem execVcmpNe_wf (d : BitVec 6) (a : BitVec 7) (b : BitVec 7) (y3 : BitVec 1) (y : BitVec 1) (s : State) (h0 :
    s.Wf) : Out.Wf (execVcmpNe d a b y3 y s) := by
  unfold execVcmpNe
  grind -linarith -ring -lia -order -ac [State.Wf, Out.Wf, OptWf, ExcWf, Pass.Wf, Fetched.Wf, RecFetch.Wf, StepWf, State.compare_wf]

theorem execVcmpLt_wf (d : BitVec 6) (a : BitVec 7) (b : BitVec 7) (y3 : BitVec 1) (y : BitVec 1) (s : State) (h0 :
    s.Wf) : Out.Wf (execVcmpLt d a b y3 y s) := by
  unfold execVcmpLt
  grind -linarith -ring -lia -order -ac [State.Wf, Out.Wf, OptWf, ExcWf, Pass.Wf, Fetched.Wf, RecFetch.Wf, StepWf, State.compare_wf]

theorem execVcmpLe_wf (d : BitVec 6) (a : BitVec 7) (b : BitVec 7) (y3 : BitVec 1) (y : BitVec 1) (s : State) (h0 :
    s.Wf) : Out.Wf (execVcmpLe d a b y3 y s) := by
  unfold execVcmpLe
  grind -linarith -ring -lia -order -ac [State.Wf, Out.Wf, OptWf, ExcWf, Pass.Wf, Fetched.Wf, RecFetch.Wf, StepWf, State.compare_wf]

theorem execVcmpUn_wf (d : BitVec 6) (a : BitVec 7) (b : BitVec 7) (y3 : BitVec 1) (y : BitVec 1) (s : State) (h0 :
    s.Wf) : Out.Wf (execVcmpUn d a b y3 y s) := by
  unfold execVcmpUn
  grind -linarith -ring -lia -order -ac [State.Wf, Out.Wf, OptWf, ExcWf, Pass.Wf, Fetched.Wf, RecFetch.Wf, StepWf, State.compare_wf]

theorem execMand_wf (d : BitVec 6) (a : BitVec 6) (b : BitVec 6) (y3 : BitVec 1) (y : BitVec 1) (s : State) (h0 :
    s.Wf) : Out.Wf (execMand d a b y3 y s) := by
  unfold execMand
  grind -linarith -ring -lia -order -ac [State.Wf, Out.Wf, OptWf, ExcWf, Pass.Wf, Fetched.Wf, RecFetch.Wf, StepWf, State.scalar2_wf]

theorem execMor_wf (d : BitVec 6) (a : BitVec 6) (b : BitVec 6) (y3 : BitVec 1) (y : BitVec 1) (s : State) (h0 :
    s.Wf) : Out.Wf (execMor d a b y3 y s) := by
  unfold execMor
  grind -linarith -ring -lia -order -ac [State.Wf, Out.Wf, OptWf, ExcWf, Pass.Wf, Fetched.Wf, RecFetch.Wf, StepWf, State.scalar2_wf]

theorem execMxor_wf (d : BitVec 6) (a : BitVec 6) (b : BitVec 6) (y3 : BitVec 1) (y : BitVec 1) (s : State) (h0 :
    s.Wf) : Out.Wf (execMxor d a b y3 y s) := by
  unfold execMxor
  grind -linarith -ring -lia -order -ac [State.Wf, Out.Wf, OptWf, ExcWf, Pass.Wf, Fetched.Wf, RecFetch.Wf, StepWf, State.scalar2_wf]

theorem execMnot_wf (d : BitVec 6) (a : BitVec 6) (y2 : BitVec 1) (s : State) (h0 : s.Wf) : Out.Wf (execMnot d a y2
    s) := by
  unfold execMnot
  grind -linarith -ring -lia -order -ac [State.Wf, Out.Wf, OptWf, ExcWf, Pass.Wf, Fetched.Wf, RecFetch.Wf, StepWf, State.scalar1_wf]

theorem execMlive_wf (d : BitVec 6) (s : State) (h0 : s.Wf) : Out.Wf (execMlive d s) := by
  unfold execMlive
  grind -linarith -ring -lia -order -ac [State.Wf, Out.Wf, State.scalar_wf]

theorem execMexpand_wf (d : BitVec 7) (a : BitVec 6) (y2 : BitVec 1) (s : State) (h0 : s.Wf) : Out.Wf (execMexpand d
    a y2 s) := by
  unfold execMexpand
  grind -linarith -ring -lia -order -ac [State.Wf, Out.Wf, OptWf, ExcWf, Pass.Wf, Fetched.Wf, RecFetch.Wf, StepWf, State.issue_wf, State.advance_wf,
      State.writeV_wf]

theorem execAdd_wf (d : BitVec 7) (a : BitVec 7) (b : BitVec 7) (y3 : BitVec 1) (y : BitVec 1) (s : State) (h0 :
    s.Wf) : Out.Wf (execAdd d a b y3 y s) := by
  unfold execAdd
  grind -linarith -ring -lia -order -ac [State.Wf, Out.Wf, OptWf, ExcWf, Pass.Wf, Fetched.Wf, RecFetch.Wf, StepWf, State.vec2_wf]

theorem execSub_wf (d : BitVec 7) (a : BitVec 7) (b : BitVec 7) (y3 : BitVec 1) (y : BitVec 1) (s : State) (h0 :
    s.Wf) : Out.Wf (execSub d a b y3 y s) := by
  unfold execSub
  grind -linarith -ring -lia -order -ac [State.Wf, Out.Wf, OptWf, ExcWf, Pass.Wf, Fetched.Wf, RecFetch.Wf, StepWf, State.vec2_wf]

theorem execMin_wf (d : BitVec 7) (a : BitVec 7) (b : BitVec 7) (y3 : BitVec 1) (y : BitVec 1) (s : State) (h0 :
    s.Wf) : Out.Wf (execMin d a b y3 y s) := by
  unfold execMin
  grind -linarith -ring -lia -order -ac [State.Wf, Out.Wf, OptWf, ExcWf, Pass.Wf, Fetched.Wf, RecFetch.Wf, StepWf, State.vec2_wf]

theorem execMax_wf (d : BitVec 7) (a : BitVec 7) (b : BitVec 7) (y3 : BitVec 1) (y : BitVec 1) (s : State) (h0 :
    s.Wf) : Out.Wf (execMax d a b y3 y s) := by
  unfold execMax
  grind -linarith -ring -lia -order -ac [State.Wf, Out.Wf, OptWf, ExcWf, Pass.Wf, Fetched.Wf, RecFetch.Wf, StepWf, State.vec2_wf]

theorem execMul_wf (d : BitVec 7) (a : BitVec 7) (b : BitVec 7) (y3 : BitVec 1) (y : BitVec 1) (s : State) (h0 :
    s.Wf) : Out.Wf (execMul d a b y3 y s) := by
  unfold execMul
  grind -linarith -ring -lia -order -ac [State.Wf, Out.Wf, OptWf, ExcWf, Pass.Wf, Fetched.Wf, RecFetch.Wf, StepWf, State.vec2_wf]

theorem execMulh_wf (d : BitVec 7) (a : BitVec 7) (b : BitVec 7) (y3 : BitVec 1) (y : BitVec 1) (s : State) (h0 :
    s.Wf) : Out.Wf (execMulh d a b y3 y s) := by
  unfold execMulh
  grind -linarith -ring -lia -order -ac [State.Wf, Out.Wf, OptWf, ExcWf, Pass.Wf, Fetched.Wf, RecFetch.Wf, StepWf, State.vec2_wf]

theorem execDiv_wf (d : BitVec 7) (a : BitVec 7) (b : BitVec 7) (y3 : BitVec 1) (y : BitVec 1) (s : State) (h0 :
    s.Wf) : Out.Wf (execDiv d a b y3 y s) := by
  unfold execDiv
  grind -linarith -ring -lia -order -ac [State.Wf, Out.Wf, OptWf, ExcWf, Pass.Wf, Fetched.Wf, RecFetch.Wf, StepWf, State.vec2_wf]

theorem execRem_wf (d : BitVec 7) (a : BitVec 7) (b : BitVec 7) (y3 : BitVec 1) (y : BitVec 1) (s : State) (h0 :
    s.Wf) : Out.Wf (execRem d a b y3 y s) := by
  unfold execRem
  grind -linarith -ring -lia -order -ac [State.Wf, Out.Wf, OptWf, ExcWf, Pass.Wf, Fetched.Wf, RecFetch.Wf, StepWf, State.vec2_wf]

theorem execFma_wf (d : BitVec 7) (a : BitVec 7) (b : BitVec 7) (y3 : BitVec 1) (y : BitVec 1) (s : State) (h0 :
    s.Wf) : Out.Wf (execFma d a b y3 y s) := by
  unfold execFma
  grind -linarith -ring -lia -order -ac [State.Wf, Out.Wf, OptWf, ExcWf, Pass.Wf, Fetched.Wf, RecFetch.Wf, StepWf, State.vec3_wf]

theorem execFms_wf (d : BitVec 7) (a : BitVec 7) (b : BitVec 7) (y3 : BitVec 1) (y : BitVec 1) (s : State) (h0 :
    s.Wf) : Out.Wf (execFms d a b y3 y s) := by
  unfold execFms
  grind -linarith -ring -lia -order -ac [State.Wf, Out.Wf, OptWf, ExcWf, Pass.Wf, Fetched.Wf, RecFetch.Wf, StepWf, State.vec3_wf]

theorem execFnma_wf (d : BitVec 7) (a : BitVec 7) (b : BitVec 7) (y3 : BitVec 1) (y : BitVec 1) (s : State) (h0 :
    s.Wf) : Out.Wf (execFnma d a b y3 y s) := by
  unfold execFnma
  grind -linarith -ring -lia -order -ac [State.Wf, Out.Wf, OptWf, ExcWf, Pass.Wf, Fetched.Wf, RecFetch.Wf, StepWf, State.vec3_wf]

theorem execAbs_wf (d : BitVec 7) (a : BitVec 7) (y2 : BitVec 1) (s : State) (h0 : s.Wf) : Out.Wf (execAbs d a y2 s)
    := by
  unfold execAbs
  grind -linarith -ring -lia -order -ac [State.Wf, Out.Wf, OptWf, ExcWf, Pass.Wf, Fetched.Wf, RecFetch.Wf, StepWf, State.vec1_wf]

theorem execNeg_wf (d : BitVec 7) (a : BitVec 7) (y2 : BitVec 1) (s : State) (h0 : s.Wf) : Out.Wf (execNeg d a y2 s)
    := by
  unfold execNeg
  grind -linarith -ring -lia -order -ac [State.Wf, Out.Wf, OptWf, ExcWf, Pass.Wf, Fetched.Wf, RecFetch.Wf, StepWf, State.vec1_wf]

theorem execRnd_wf (d : BitVec 7) (a : BitVec 7) (y2 : BitVec 1) (s : State) (h0 : s.Wf) : Out.Wf (execRnd d a y2 s)
    := by
  unfold execRnd
  grind -linarith -ring -lia -order -ac [State.Wf, Out.Wf, OptWf, ExcWf, Pass.Wf, Fetched.Wf, RecFetch.Wf, StepWf, State.vec1_wf]

theorem execNot_wf (d : BitVec 7) (a : BitVec 7) (y2 : BitVec 1) (s : State) (h0 : s.Wf) : Out.Wf (execNot d a y2 s)
    := by
  unfold execNot
  grind -linarith -ring -lia -order -ac [State.Wf, Out.Wf, OptWf, ExcWf, Pass.Wf, Fetched.Wf, RecFetch.Wf, StepWf, State.vec1_wf]

theorem execAnd_wf (d : BitVec 7) (a : BitVec 7) (b : BitVec 7) (y3 : BitVec 1) (y : BitVec 1) (s : State) (h0 :
    s.Wf) : Out.Wf (execAnd d a b y3 y s) := by
  unfold execAnd
  grind -linarith -ring -lia -order -ac [State.Wf, Out.Wf, OptWf, ExcWf, Pass.Wf, Fetched.Wf, RecFetch.Wf, StepWf, State.vec2_wf]

theorem execOr_wf (d : BitVec 7) (a : BitVec 7) (b : BitVec 7) (y3 : BitVec 1) (y : BitVec 1) (s : State) (h0 : s.Wf)
    : Out.Wf (execOr d a b y3 y s) := by
  unfold execOr
  grind -linarith -ring -lia -order -ac [State.Wf, Out.Wf, OptWf, ExcWf, Pass.Wf, Fetched.Wf, RecFetch.Wf, StepWf, State.vec2_wf]

theorem execXor_wf (d : BitVec 7) (a : BitVec 7) (b : BitVec 7) (y3 : BitVec 1) (y : BitVec 1) (s : State) (h0 :
    s.Wf) : Out.Wf (execXor d a b y3 y s) := by
  unfold execXor
  grind -linarith -ring -lia -order -ac [State.Wf, Out.Wf, OptWf, ExcWf, Pass.Wf, Fetched.Wf, RecFetch.Wf, StepWf, State.vec2_wf]

theorem execShl_wf (d : BitVec 7) (a : BitVec 7) (b : BitVec 7) (y3 : BitVec 1) (y : BitVec 1) (s : State) (h0 :
    s.Wf) : Out.Wf (execShl d a b y3 y s) := by
  unfold execShl
  grind -linarith -ring -lia -order -ac [State.Wf, Out.Wf, OptWf, ExcWf, Pass.Wf, Fetched.Wf, RecFetch.Wf, StepWf, State.vec2_wf]

theorem execShr_wf (d : BitVec 7) (a : BitVec 7) (b : BitVec 7) (y3 : BitVec 1) (y : BitVec 1) (s : State) (h0 :
    s.Wf) : Out.Wf (execShr d a b y3 y s) := by
  unfold execShr
  grind -linarith -ring -lia -order -ac [State.Wf, Out.Wf, OptWf, ExcWf, Pass.Wf, Fetched.Wf, RecFetch.Wf, StepWf, State.vec2_wf]

theorem execSra_wf (d : BitVec 7) (a : BitVec 7) (b : BitVec 7) (y3 : BitVec 1) (y : BitVec 1) (s : State) (h0 :
    s.Wf) : Out.Wf (execSra d a b y3 y s) := by
  unfold execSra
  grind -linarith -ring -lia -order -ac [State.Wf, Out.Wf, OptWf, ExcWf, Pass.Wf, Fetched.Wf, RecFetch.Wf, StepWf, State.vec2_wf]

theorem execRol_wf (d : BitVec 7) (a : BitVec 7) (b : BitVec 7) (y3 : BitVec 1) (y : BitVec 1) (s : State) (h0 :
    s.Wf) : Out.Wf (execRol d a b y3 y s) := by
  unfold execRol
  grind -linarith -ring -lia -order -ac [State.Wf, Out.Wf, OptWf, ExcWf, Pass.Wf, Fetched.Wf, RecFetch.Wf, StepWf, State.vec2_wf]

theorem execPopc_wf (d : BitVec 7) (a : BitVec 7) (y2 : BitVec 1) (s : State) (h0 : s.Wf) : Out.Wf (execPopc d a y2
    s) := by
  unfold execPopc
  grind -linarith -ring -lia -order -ac [State.Wf, Out.Wf, OptWf, ExcWf, Pass.Wf, Fetched.Wf, RecFetch.Wf, StepWf, State.vec1_wf]

theorem execClz_wf (d : BitVec 7) (a : BitVec 7) (y2 : BitVec 1) (s : State) (h0 : s.Wf) : Out.Wf (execClz d a y2 s)
    := by
  unfold execClz
  grind -linarith -ring -lia -order -ac [State.Wf, Out.Wf, OptWf, ExcWf, Pass.Wf, Fetched.Wf, RecFetch.Wf, StepWf, State.vec1_wf]

theorem execBrev_wf (d : BitVec 7) (a : BitVec 7) (y2 : BitVec 1) (s : State) (h0 : s.Wf) : Out.Wf (execBrev d a y2
    s) := by
  unfold execBrev
  grind -linarith -ring -lia -order -ac [State.Wf, Out.Wf, OptWf, ExcWf, Pass.Wf, Fetched.Wf, RecFetch.Wf, StepWf, State.vec1_wf]

theorem execBfe_wf (d : BitVec 7) (a : BitVec 7) (b : BitVec 7) (y3 : BitVec 1) (y : BitVec 1) (s : State) (h0 :
    s.Wf) : Out.Wf (execBfe d a b y3 y s) := by
  unfold execBfe
  grind -linarith -ring -lia -order -ac [State.Wf, Out.Wf, OptWf, ExcWf, Pass.Wf, Fetched.Wf, RecFetch.Wf, StepWf, State.vec2_wf]

theorem execBfi_wf (d : BitVec 7) (a : BitVec 7) (b : BitVec 7) (y3 : BitVec 1) (y : BitVec 1) (s : State) (h0 :
    s.Wf) : Out.Wf (execBfi d a b y3 y s) := by
  unfold execBfi
  grind -linarith -ring -lia -order -ac [State.Wf, Out.Wf, OptWf, ExcWf, Pass.Wf, Fetched.Wf, RecFetch.Wf, StepWf, State.vec3_wf]

theorem execAddI_wf (d : BitVec 7) (a : BitVec 7) (w : BitVec 1) (i : BitVec 10) (s : State) (h0 : s.Wf) : Out.Wf
    (execAddI d a w i s) := by
  unfold execAddI
  grind -linarith -ring -lia -order -ac [State.Wf, Out.Wf, State.vecI_wf, State.vecNum_wf]

theorem execMulI_wf (d : BitVec 7) (a : BitVec 7) (w : BitVec 1) (i : BitVec 10) (s : State) (h0 : s.Wf) : Out.Wf
    (execMulI d a w i s) := by
  unfold execMulI
  grind -linarith -ring -lia -order -ac [State.Wf, Out.Wf, State.vecI_wf, State.vecNum_wf]

theorem execAndI_wf (d : BitVec 7) (a : BitVec 7) (w : BitVec 1) (i : BitVec 10) (s : State) (h0 : s.Wf) : Out.Wf
    (execAndI d a w i s) := by
  unfold execAndI
  grind -linarith -ring -lia -order -ac [State.Wf, Out.Wf, State.vecI_wf]

theorem execOrI_wf (d : BitVec 7) (a : BitVec 7) (w : BitVec 1) (i : BitVec 10) (s : State) (h0 : s.Wf) : Out.Wf
    (execOrI d a w i s) := by
  unfold execOrI
  grind -linarith -ring -lia -order -ac [State.Wf, Out.Wf, State.vecI_wf]

theorem execXorI_wf (d : BitVec 7) (a : BitVec 7) (w : BitVec 1) (i : BitVec 10) (s : State) (h0 : s.Wf) : Out.Wf
    (execXorI d a w i s) := by
  unfold execXorI
  grind -linarith -ring -lia -order -ac [State.Wf, Out.Wf, State.vecI_wf]

theorem execShlI_wf (d : BitVec 7) (a : BitVec 7) (w : BitVec 1) (i : BitVec 10) (s : State) (h0 : s.Wf) : Out.Wf
    (execShlI d a w i s) := by
  unfold execShlI
  grind -linarith -ring -lia -order -ac [State.Wf, Out.Wf, State.vecI_wf]

theorem execShrI_wf (d : BitVec 7) (a : BitVec 7) (w : BitVec 1) (i : BitVec 10) (s : State) (h0 : s.Wf) : Out.Wf
    (execShrI d a w i s) := by
  unfold execShrI
  grind -linarith -ring -lia -order -ac [State.Wf, Out.Wf, State.vecI_wf]

theorem execSraI_wf (d : BitVec 7) (a : BitVec 7) (w : BitVec 1) (i : BitVec 10) (s : State) (h0 : s.Wf) : Out.Wf
    (execSraI d a w i s) := by
  unfold execSraI
  grind -linarith -ring -lia -order -ac [State.Wf, Out.Wf, State.vecI_wf]

theorem execSel_wf (d : BitVec 7) (a : BitVec 7) (b : BitVec 6) (y3 : BitVec 1) (y : BitVec 1) (s : State) (h0 :
    s.Wf) : Out.Wf (execSel d a b y3 y s) := by
  unfold execSel
  grind -linarith -ring -lia -order -ac [State.Wf, Out.Wf, OptWf, ExcWf, Pass.Wf, Fetched.Wf, RecFetch.Wf, StepWf, State.issue_wf, State.finish_wf]

theorem execMov_wf (d : BitVec 7) (a : BitVec 7) (y2 : BitVec 1) (s : State) (h0 : s.Wf) : Out.Wf (execMov d a y2 s)
    := by
  unfold execMov
  grind -linarith -ring -lia -order -ac [State.Wf, Out.Wf, OptWf, ExcWf, Pass.Wf, Fetched.Wf, RecFetch.Wf, StepWf, State.issue_wf, State.finish_wf,
      State.writeLanes_wf]

theorem execMovs_wf (d : BitVec 7) (a : BitVec 6) (y2 : BitVec 1) (s : State) (h0 : s.Wf) : Out.Wf (execMovs d a y2
    s) := by
  unfold execMovs
  grind -linarith -ring -lia -order -ac [State.Wf, Out.Wf, OptWf, ExcWf, Pass.Wf, Fetched.Wf, RecFetch.Wf, StepWf, State.issue_wf, State.finish_wf,
      State.writeLanes_wf]

theorem execLid_wf (d : BitVec 7) (s : State) (h0 : s.Wf) : Out.Wf (execLid d s) := by
  unfold execLid
  grind -linarith -ring -lia -order -ac [State.Wf, Out.Wf, State.issue_wf, State.finish_wf, State.writeV_wf]

theorem execLi_wf (d : BitVec 7) (i : BitVec 18) (s : State) (h0 : s.Wf) : Out.Wf (execLi d i s) := by
  unfold execLi
  grind -linarith -ring -lia -order -ac [State.Wf, Out.Wf, State.issue_wf, State.finish_wf, State.writeV_wf]

/-! ## Convert -/

theorem execCvt_wf (d : BitVec 7) (a : BitVec 7) (w : BitVec 1) (t : BitVec 5) (s : State) (h0 : s.Wf) : Out.Wf
    (execCvt d a w t s) := by
  unfold execCvt
  grind -linarith -ring -lia -order -ac [State.Wf, Out.Wf, State.typed_wf, State.finish_wf, State.writeLanes_wf]

theorem execPk8_wf (d : BitVec 7) (a : BitVec 7) (y2 : BitVec 1) (s : State) (h0 : s.Wf) : Out.Wf (execPk8 d a y2 s)
    := by
  unfold execPk8
  grind -linarith -ring -lia -order -ac [State.Wf, Out.Wf, OptWf, ExcWf, Pass.Wf, Fetched.Wf, RecFetch.Wf, StepWf, State.pack_wf]

theorem execUpk8_wf (d : BitVec 7) (a : BitVec 7) (y2 : BitVec 1) (s : State) (h0 : s.Wf) : Out.Wf (execUpk8 d a y2
    s) := by
  unfold execUpk8
  grind -linarith -ring -lia -order -ac [State.Wf, Out.Wf, OptWf, ExcWf, Pass.Wf, Fetched.Wf, RecFetch.Wf, StepWf, State.pack_wf]

theorem execPk4_wf (d : BitVec 7) (a : BitVec 7) (y2 : BitVec 1) (s : State) (h0 : s.Wf) : Out.Wf (execPk4 d a y2 s)
    := by
  unfold execPk4
  grind -linarith -ring -lia -order -ac [State.Wf, Out.Wf, OptWf, ExcWf, Pass.Wf, Fetched.Wf, RecFetch.Wf, StepWf, State.pack_wf]

theorem execUpk4_wf (d : BitVec 7) (a : BitVec 7) (y2 : BitVec 1) (s : State) (h0 : s.Wf) : Out.Wf (execUpk4 d a y2
    s) := by
  unfold execUpk4
  grind -linarith -ring -lia -order -ac [State.Wf, Out.Wf, OptWf, ExcWf, Pass.Wf, Fetched.Wf, RecFetch.Wf, StepWf, State.pack_wf]

theorem execPk6_wf (d : BitVec 7) (a : BitVec 7) (y2 : BitVec 1) (s : State) (h0 : s.Wf) : Out.Wf (execPk6 d a y2 s)
    := by
  unfold execPk6
  grind -linarith -ring -lia -order -ac [State.Wf, Out.Wf, OptWf, ExcWf, Pass.Wf, Fetched.Wf, RecFetch.Wf, StepWf, State.pack_wf]

theorem execUpk6_wf (d : BitVec 7) (a : BitVec 7) (y2 : BitVec 1) (s : State) (h0 : s.Wf) : Out.Wf (execUpk6 d a y2
    s) := by
  unfold execUpk6
  grind -linarith -ring -lia -order -ac [State.Wf, Out.Wf, OptWf, ExcWf, Pass.Wf, Fetched.Wf, RecFetch.Wf, StepWf, State.pack_wf]

theorem execRcp_wf (d : BitVec 7) (a : BitVec 7) (y2 : BitVec 1) (s : State) (h0 : s.Wf) : Out.Wf (execRcp d a y2 s)
    := by
  unfold execRcp
  grind -linarith -ring -lia -order -ac [State.Wf, Out.Wf, OptWf, ExcWf, Pass.Wf, Fetched.Wf, RecFetch.Wf, StepWf, State.sfu_wf]

theorem execRsq_wf (d : BitVec 7) (a : BitVec 7) (y2 : BitVec 1) (s : State) (h0 : s.Wf) : Out.Wf (execRsq d a y2 s)
    := by
  unfold execRsq
  grind -linarith -ring -lia -order -ac [State.Wf, Out.Wf, OptWf, ExcWf, Pass.Wf, Fetched.Wf, RecFetch.Wf, StepWf, State.sfu_wf]

theorem execSqrt_wf (d : BitVec 7) (a : BitVec 7) (y2 : BitVec 1) (s : State) (h0 : s.Wf) : Out.Wf (execSqrt d a y2
    s) := by
  unfold execSqrt
  grind -linarith -ring -lia -order -ac [State.Wf, Out.Wf, OptWf, ExcWf, Pass.Wf, Fetched.Wf, RecFetch.Wf, StepWf, State.sfu_wf]

theorem execExp2_wf (d : BitVec 7) (a : BitVec 7) (y2 : BitVec 1) (s : State) (h0 : s.Wf) : Out.Wf (execExp2 d a y2
    s) := by
  unfold execExp2
  grind -linarith -ring -lia -order -ac [State.Wf, Out.Wf, OptWf, ExcWf, Pass.Wf, Fetched.Wf, RecFetch.Wf, StepWf, State.sfu_wf]

theorem execExp_wf (d : BitVec 7) (a : BitVec 7) (y2 : BitVec 1) (s : State) (h0 : s.Wf) : Out.Wf (execExp d a y2 s)
    := by
  unfold execExp
  grind -linarith -ring -lia -order -ac [State.Wf, Out.Wf, OptWf, ExcWf, Pass.Wf, Fetched.Wf, RecFetch.Wf, StepWf, State.sfu_wf]

theorem execLog2_wf (d : BitVec 7) (a : BitVec 7) (y2 : BitVec 1) (s : State) (h0 : s.Wf) : Out.Wf (execLog2 d a y2
    s) := by
  unfold execLog2
  grind -linarith -ring -lia -order -ac [State.Wf, Out.Wf, OptWf, ExcWf, Pass.Wf, Fetched.Wf, RecFetch.Wf, StepWf, State.sfu_wf]

theorem execLog_wf (d : BitVec 7) (a : BitVec 7) (y2 : BitVec 1) (s : State) (h0 : s.Wf) : Out.Wf (execLog d a y2 s)
    := by
  unfold execLog
  grind -linarith -ring -lia -order -ac [State.Wf, Out.Wf, OptWf, ExcWf, Pass.Wf, Fetched.Wf, RecFetch.Wf, StepWf, State.sfu_wf]

theorem execSin2pi_wf (d : BitVec 7) (a : BitVec 7) (y2 : BitVec 1) (s : State) (h0 : s.Wf) : Out.Wf (execSin2pi d a
    y2 s) := by
  unfold execSin2pi
  grind -linarith -ring -lia -order -ac [State.Wf, Out.Wf, OptWf, ExcWf, Pass.Wf, Fetched.Wf, RecFetch.Wf, StepWf, State.sfu_wf]

theorem execCos2pi_wf (d : BitVec 7) (a : BitVec 7) (y2 : BitVec 1) (s : State) (h0 : s.Wf) : Out.Wf (execCos2pi d a
    y2 s) := by
  unfold execCos2pi
  grind -linarith -ring -lia -order -ac [State.Wf, Out.Wf, OptWf, ExcWf, Pass.Wf, Fetched.Wf, RecFetch.Wf, StepWf, State.sfu_wf]

theorem execTanh_wf (d : BitVec 7) (a : BitVec 7) (y2 : BitVec 1) (s : State) (h0 : s.Wf) : Out.Wf (execTanh d a y2
    s) := by
  unfold execTanh
  grind -linarith -ring -lia -order -ac [State.Wf, Out.Wf, OptWf, ExcWf, Pass.Wf, Fetched.Wf, RecFetch.Wf, StepWf, State.sfu_wf]

theorem execErf_wf (d : BitVec 7) (a : BitVec 7) (y2 : BitVec 1) (s : State) (h0 : s.Wf) : Out.Wf (execErf d a y2 s)
    := by
  unfold execErf
  grind -linarith -ring -lia -order -ac [State.Wf, Out.Wf, OptWf, ExcWf, Pass.Wf, Fetched.Wf, RecFetch.Wf, StepWf, State.sfu_wf]

/-! ## Lane -/

theorem execPermZ_wf (d : BitVec 7) (a : BitVec 7) (b : BitVec 6) (y3 : BitVec 1) (y : BitVec 1) (s : State) (h0 :
    s.Wf) : Out.Wf (execPermZ d a b y3 y s) := by
  unfold execPermZ
  grind -linarith -ring -lia -order -ac [State.Wf, Out.Wf, OptWf, ExcWf, Pass.Wf, Fetched.Wf, RecFetch.Wf, StepWf, State.permute_wf]

theorem execPermS_wf (d : BitVec 7) (a : BitVec 7) (b : BitVec 6) (y3 : BitVec 1) (y : BitVec 1) (s : State) (h0 :
    s.Wf) : Out.Wf (execPermS d a b y3 y s) := by
  unfold execPermS
  grind -linarith -ring -lia -order -ac [State.Wf, Out.Wf, OptWf, ExcWf, Pass.Wf, Fetched.Wf, RecFetch.Wf, StepWf, State.permute_wf]

theorem execBcast_wf (d : BitVec 7) (a : BitVec 7) (b : BitVec 6) (y3 : BitVec 1) (y : BitVec 1) (s : State) (h0 :
    s.Wf) : Out.Wf (execBcast d a b y3 y s) := by
  unfold execBcast
  grind -linarith -ring -lia -order -ac [State.Wf, Out.Wf, OptWf, ExcWf, Pass.Wf, Fetched.Wf, RecFetch.Wf, StepWf, State.issue_wf, State.together_wf,
      State.advance_wf, State.writeLanes_wf]

theorem execReduAdd_wf (d : BitVec 6) (a : BitVec 7) (b : BitVec 6) (y3 : BitVec 1) (y : BitVec 1) (s : State) (h0 :
    s.Wf) : Out.Wf (execReduAdd d a b y3 y s) := by
  unfold execReduAdd
  grind -linarith -ring -lia -order -ac [State.Wf, Out.Wf, OptWf, ExcWf, Pass.Wf, Fetched.Wf, RecFetch.Wf, StepWf, State.reduce_wf]

theorem execReduMin_wf (d : BitVec 6) (a : BitVec 7) (b : BitVec 6) (y3 : BitVec 1) (y : BitVec 1) (s : State) (h0 :
    s.Wf) : Out.Wf (execReduMin d a b y3 y s) := by
  unfold execReduMin
  grind -linarith -ring -lia -order -ac [State.Wf, Out.Wf, OptWf, ExcWf, Pass.Wf, Fetched.Wf, RecFetch.Wf, StepWf, State.reduce_wf]

theorem execReduMax_wf (d : BitVec 6) (a : BitVec 7) (b : BitVec 6) (y3 : BitVec 1) (y : BitVec 1) (s : State) (h0 :
    s.Wf) : Out.Wf (execReduMax d a b y3 y s) := by
  unfold execReduMax
  grind -linarith -ring -lia -order -ac [State.Wf, Out.Wf, OptWf, ExcWf, Pass.Wf, Fetched.Wf, RecFetch.Wf, StepWf, State.reduce_wf]

theorem execScanAdd_wf (d : BitVec 7) (a : BitVec 7) (b : BitVec 6) (y3 : BitVec 1) (y : BitVec 1) (s : State) (h0 :
    s.Wf) : Out.Wf (execScanAdd d a b y3 y s) := by
  unfold execScanAdd
  grind -linarith -ring -lia -order -ac [State.Wf, Out.Wf, OptWf, ExcWf, Pass.Wf, Fetched.Wf, RecFetch.Wf, StepWf, State.typed_wf, State.together_wf,
      State.finishLanes_wf, State.writeLanes_wf]

theorem execIllegalWord_wf (range : Bool) (s : State) (h0 : s.Wf) : Out.Wf (execIllegalWord range s) := by
  unfold execIllegalWord
  grind -linarith -ring -lia -order -ac [State.Wf, Out.Wf, State.takeDue_wf, State.killAt_wf]

/-! ## Loads -/

theorem execLd_wf (d : BitVec 7) (r : BitVec 10) (a : BitVec 7) (w : BitVec 1) (s : State) (h0 : s.Wf) : Out.Wf
    (execLd d r a w s) := by
  unfold execLd
  grind -linarith -ring -lia -order -ac [State.Wf, Out.Wf, State.vload_wf]

theorem execLdAcq_wf (d : BitVec 7) (r : BitVec 10) (a : BitVec 7) (w : BitVec 1) (s : State) (h0 : s.Wf) : Out.Wf
    (execLdAcq d r a w s) := by
  unfold execLdAcq
  grind -linarith -ring -lia -order -ac [State.Wf, Out.Wf, State.vload_wf]

theorem execLdC_wf (d : BitVec 7) (r : BitVec 10) (a : BitVec 7) (w : BitVec 1) (s : State) (h0 : s.Wf) : Out.Wf
    (execLdC d r a w s) := by
  unfold execLdC
  grind -linarith -ring -lia -order -ac [State.Wf, Out.Wf, State.vload_wf]

theorem execLdK_wf (d : BitVec 7) (r : BitVec 10) (a : BitVec 7) (w : BitVec 1) (s : State) (h0 : s.Wf) : Out.Wf
    (execLdK d r a w s) := by
  unfold execLdK
  grind -linarith -ring -lia -order -ac [State.Wf, Out.Wf, State.vload_wf]

theorem execLdW_wf (d : BitVec 7) (r : BitVec 10) (a : BitVec 7) (w : BitVec 1) (s : State) (h0 : s.Wf) : Out.Wf
    (execLdW d r a w s) := by
  unfold execLdW
  grind -linarith -ring -lia -order -ac [State.Wf, Out.Wf, State.vload_wf]

theorem execLdS_wf (d : BitVec 6) (r : BitVec 10) (a : BitVec 6) (w : BitVec 1) (s : State) (h0 : s.Wf) : Out.Wf
    (execLdS d r a w s) := by
  unfold execLdS
  grind -linarith -ring -lia -order -ac [State.Wf, Out.Wf, State.issue_wf, State.trapRec_wf, State.sendMem_wf]

theorem execSt_wf (d : BitVec 7) (r : BitVec 10) (a : BitVec 7) (w : BitVec 1) (s : State) (h0 : s.Wf) : Out.Wf
    (execSt d r a w s) := by
  unfold execSt
  grind -linarith -ring -lia -order -ac [State.Wf, Out.Wf, State.vstore_wf]

theorem execStRel_wf (d : BitVec 7) (r : BitVec 10) (a : BitVec 7) (w : BitVec 1) (s : State) (h0 : s.Wf) : Out.Wf
    (execStRel d r a w s) := by
  unfold execStRel
  grind -linarith -ring -lia -order -ac [State.Wf, Out.Wf, State.vstore_wf]

theorem execStF_wf (d : BitVec 7) (r : BitVec 10) (a : BitVec 7) (w : BitVec 1) (s : State) (h0 : s.Wf) : Out.Wf
    (execStF d r a w s) := by
  unfold execStF
  grind -linarith -ring -lia -order -ac [State.Wf, Out.Wf, State.vstore_wf]

theorem execStW_wf (d : BitVec 7) (r : BitVec 10) (a : BitVec 7) (w : BitVec 1) (s : State) (h0 : s.Wf) : Out.Wf
    (execStW d r a w s) := by
  unfold execStW
  grind -linarith -ring -lia -order -ac [State.Wf, Out.Wf, State.vstore_wf]

theorem execStS_wf (d : BitVec 6) (r : BitVec 10) (a : BitVec 6) (w : BitVec 1) (s : State) (h0 : s.Wf) : Out.Wf
    (execStS d r a w s) := by
  unfold execStS
  grind -linarith -ring -lia -order -ac [State.Wf, Out.Wf, State.issue_wf, State.trapRec_wf, State.sendMem_wf]

theorem execStorePerform_wf (g : GroupRef) (id : Nat) (lanes : Mask) (s : State) (h0 : s.Wf) : Out.Wf
    (execStorePerform g id lanes s) := by
  unfold execStorePerform
  grind -linarith -ring -lia -order -ac [State.Wf, Out.Wf, State.onGroup_wf, State.performStore_wf]

/-! ## Atomic -/

theorem execAtomAdd_wf (d : BitVec 7) (r : BitVec 8) (a : BitVec 7) (w : BitVec 1) (s : State) (h0 : s.Wf) : Out.Wf
    (execAtomAdd d r a w s) := by
  unfold execAtomAdd
  grind -linarith -ring -lia -order -ac [State.Wf, Out.Wf, State.atomic_wf]

theorem execAtomMin_wf (d : BitVec 7) (r : BitVec 8) (a : BitVec 7) (w : BitVec 1) (s : State) (h0 : s.Wf) : Out.Wf
    (execAtomMin d r a w s) := by
  unfold execAtomMin
  grind -linarith -ring -lia -order -ac [State.Wf, Out.Wf, State.atomic_wf]

theorem execAtomMax_wf (d : BitVec 7) (r : BitVec 8) (a : BitVec 7) (w : BitVec 1) (s : State) (h0 : s.Wf) : Out.Wf
    (execAtomMax d r a w s) := by
  unfold execAtomMax
  grind -linarith -ring -lia -order -ac [State.Wf, Out.Wf, State.atomic_wf]

theorem execAtomAnd_wf (d : BitVec 7) (r : BitVec 8) (a : BitVec 7) (w : BitVec 1) (s : State) (h0 : s.Wf) : Out.Wf
    (execAtomAnd d r a w s) := by
  unfold execAtomAnd
  grind -linarith -ring -lia -order -ac [State.Wf, Out.Wf, State.atomic_wf]

theorem execAtomOr_wf (d : BitVec 7) (r : BitVec 8) (a : BitVec 7) (w : BitVec 1) (s : State) (h0 : s.Wf) : Out.Wf
    (execAtomOr d r a w s) := by
  unfold execAtomOr
  grind -linarith -ring -lia -order -ac [State.Wf, Out.Wf, State.atomic_wf]

theorem execAtomXor_wf (d : BitVec 7) (r : BitVec 8) (a : BitVec 7) (w : BitVec 1) (s : State) (h0 : s.Wf) : Out.Wf
    (execAtomXor d r a w s) := by
  unfold execAtomXor
  grind -linarith -ring -lia -order -ac [State.Wf, Out.Wf, State.atomic_wf]

theorem execAtomXchg_wf (d : BitVec 7) (r : BitVec 8) (a : BitVec 7) (w : BitVec 1) (s : State) (h0 : s.Wf) : Out.Wf
    (execAtomXchg d r a w s) := by
  unfold execAtomXchg
  grind -linarith -ring -lia -order -ac [State.Wf, Out.Wf, State.atomic_wf]

theorem execAtomCas_wf (d : BitVec 7) (r : BitVec 8) (a : BitVec 7) (w : BitVec 1) (s : State) (h0 : s.Wf) : Out.Wf
    (execAtomCas d r a w s) := by
  unfold execAtomCas
  grind -linarith -ring -lia -order -ac [State.Wf, Out.Wf, State.atomic_wf]

theorem execRedAdd_wf (d : BitVec 7) (r : BitVec 8) (a : BitVec 7) (w : BitVec 1) (s : State) (h0 : s.Wf) : Out.Wf
    (execRedAdd d r a w s) := by
  unfold execRedAdd
  grind -linarith -ring -lia -order -ac [State.Wf, Out.Wf, State.update_wf]

theorem execRedMin_wf (d : BitVec 7) (r : BitVec 8) (a : BitVec 7) (w : BitVec 1) (s : State) (h0 : s.Wf) : Out.Wf
    (execRedMin d r a w s) := by
  unfold execRedMin
  grind -linarith -ring -lia -order -ac [State.Wf, Out.Wf, State.update_wf]

theorem execRedMax_wf (d : BitVec 7) (r : BitVec 8) (a : BitVec 7) (w : BitVec 1) (s : State) (h0 : s.Wf) : Out.Wf
    (execRedMax d r a w s) := by
  unfold execRedMax
  grind -linarith -ring -lia -order -ac [State.Wf, Out.Wf, State.update_wf]

theorem execBankMx_wf (d : BitVec 7) (r : BitVec 8) (a : BitVec 7) (w : BitVec 1) (s : State) (h0 : s.Wf) : Out.Wf
    (execBankMx d r a w s) := by
  unfold execBankMx
  grind -linarith -ring -lia -order -ac [State.Wf, Out.Wf, State.update_wf]

theorem execBankSup_wf (d : BitVec 7) (r : BitVec 8) (a : BitVec 7) (w : BitVec 1) (s : State) (h0 : s.Wf) : Out.Wf
    (execBankSup d r a w s) := by
  unfold execBankSup
  grind -linarith -ring -lia -order -ac [State.Wf, Out.Wf, State.update_wf]

theorem execBankVadd_wf (d : BitVec 7) (r : BitVec 8) (a : BitVec 7) (w : BitVec 1) (s : State) (h0 : s.Wf) : Out.Wf
    (execBankVadd d r a w s) := by
  unfold execBankVadd
  grind -linarith -ring -lia -order -ac [State.Wf, Out.Wf, State.update_wf]

theorem execChunk_wf (d : BitVec 6) (r : BitVec 8) (a : BitVec 6) (w : BitVec 1) (s : State) (h0 : s.Wf) : Out.Wf
    (execChunk d r a w s) := by
  unfold execChunk
  grind -linarith -ring -lia -order -ac [State.Wf, Out.Wf, State.issue_wf, State.trapRec_wf, State.trap_wf, State.sendMem_wf]

theorem execBankOperationPerform_wf (g : GroupRef) (id : Nat) (lanes : Mask) (s : State) (h0 : s.Wf) : Out.Wf
    (execBankOperationPerform g id lanes s) := by
  unfold execBankOperationPerform
  repeat' split
  all_goals grind -linarith -ring -lia -order -ac [State.Wf, Out.Wf, OptWf, ExcWf, Pass.Wf, Fetched.Wf, RecFetch.Wf, StepWf, State.onFlight_wf,
      State.performBank_wf]

/-! ## Engine -/

theorem execFeSet_wf (a : BitVec 6) (n : BitVec 11) (s : State) (h0 : s.Wf) : Out.Wf (execFeSet a n s) := by
  unfold execFeSet
  grind -linarith -ring -lia -order -ac [State.Wf, Out.Wf, State.granuleOp_wf, State.fillGranules_wf]

theorem execFeClr_wf (a : BitVec 6) (n : BitVec 11) (s : State) (h0 : s.Wf) : Out.Wf (execFeClr a n s) := by
  unfold execFeClr
  grind -linarith -ring -lia -order -ac [State.Wf, Out.Wf, State.granuleOp_wf]

theorem execFeRd_wf (d : BitVec 6) (a : BitVec 6) (s : State) (h0 : s.Wf) : Out.Wf (execFeRd d a s) := by
  unfold execFeRd
  grind -linarith -ring -lia -order -ac [State.Wf, Out.Wf, State.issue_wf, State.advance_wf, State.writeS_wf]

theorem execBarInit_wf (a : BitVec 6) (b : BitVec 6) (y2 : BitVec 1) (y : BitVec 1) (s : State) (h0 : s.Wf) : Out.Wf
    (execBarInit a b y2 y s) := by
  unfold execBarInit
  grind -linarith -ring -lia -order -ac [State.Wf, Out.Wf, OptWf, ExcWf, Pass.Wf, Fetched.Wf, RecFetch.Wf, StepWf, State.barOp_wf, State.trap_wf,
      State.advance_wf, State.setBarrier_wf]

theorem execBarExp_wf (a : BitVec 6) (b : BitVec 6) (x : BitVec 1) (y : BitVec 1) (s : State) (h0 : s.Wf) : Out.Wf
    (execBarExp a b x y s) := by
  unfold execBarExp
  grind -linarith -ring -lia -order -ac [State.Wf, Out.Wf, OptWf, ExcWf, Pass.Wf, Fetched.Wf, RecFetch.Wf, StepWf,
    State.barOp_wf, State.trap_wf, State.withBarrier_wf, State.advance_wf, State.settleBarrier_wf]

theorem execBarArr_wf (d : BitVec 6) (a : BitVec 6) (x : BitVec 1) (s : State) (h0 : s.Wf) : Out.Wf (execBarArr d a x
    s) := by
  unfold execBarArr
  grind -linarith -ring -lia -order -ac [State.Wf, Out.Wf, OptWf, ExcWf, Pass.Wf, Fetched.Wf, RecFetch.Wf, StepWf,
    State.barOp_wf, State.withBarrier_wf, State.trap_wf, State.advance_wf, State.writeS_wf, State.settleBarrier_wf]

theorem execBarWait_wf (a : BitVec 6) (b : BitVec 6) (x : BitVec 1) (y : BitVec 1) (s : State) (h0 : s.Wf) : Out.Wf
    (execBarWait a b x y s) := by
  unfold execBarWait
  grind -linarith -ring -lia -order -ac [State.Wf, Out.Wf, OptWf, ExcWf, Pass.Wf, Fetched.Wf, RecFetch.Wf, StepWf,
    State.issue_wf, State.trapVa_wf, State.withBarrier_wf, State.advance_wf]

theorem execBarSync_wf (a : BitVec 6) (k : BitVec 1) (b : BitVec 4) (s : State) (h0 : s.Wf) : Out.Wf (execBarSync a k
    b s) := by
  unfold execBarSync
  grind -linarith -ring -lia -order -ac [State.Wf, Out.Wf, State.issue_wf, State.trap_wf, State.joinThen_wf, State.arriveGang_wf, State.arriveBand_wf]

theorem execWaitc_wf (c : BitVec 2) (t : BitVec 2) (n : BitVec 8) (s : State) (h0 : s.Wf) : Out.Wf (execWaitc c t n s)
    := by
  unfold execWaitc
  grind -linarith -ring -lia -order -ac [State.Wf, Out.Wf, State.issue_wf, State.advance_wf]

theorem execCnt_wf (d : BitVec 6) (c : BitVec 2) (t : BitVec 2) (s : State) (h0 : s.Wf) : Out.Wf (execCnt d c t s) :=
    by
  unfold execCnt
  grind -linarith -ring -lia -order -ac [State.Wf, Out.Wf, State.issue_wf, State.advance_wf, State.writeS_wf]

theorem execFence_wf (sc : BitVec 3) (s : State) (h0 : s.Wf) : Out.Wf (execFence sc s) := by
  unfold execFence
  grind -linarith -ring -lia -order -ac [State.Wf, Out.Wf, OptWf, ExcWf, Pass.Wf, Fetched.Wf, RecFetch.Wf, StepWf, State.issue_wf, State.trapVa_wf,
      State.advance_wf]

theorem execPf_wf (l : BitVec 6) (a : BitVec 6) (v : BitVec 2) (n : BitVec 10) (s : State) (h0 : s.Wf) : Out.Wf
    (execPf l a v n s) := by
  unfold execPf
  grind -linarith -ring -lia -order -ac [State.Wf, Out.Wf, OptWf, ExcWf, Pass.Wf, Fetched.Wf, RecFetch.Wf, StepWf,
    State.issue_wf, State.trap_wf, State.prefetch_wf, State.fetchRecord_wf, State.advance_wf]

theorem execCinv_wf (l : BitVec 6) (a : BitVec 6) (n : BitVec 10) (s : State) (h0 : s.Wf) : Out.Wf (execCinv l a n s)
    := by
  unfold execCinv
  grind -linarith -ring -lia -order -ac [State.Wf, Out.Wf, State.issue_wf, State.trap_wf, State.advance_wf]

theorem execCinvAll_wf (s : State) (h0 : s.Wf) : Out.Wf (execCinvAll s) := by
  unfold execCinvAll
  grind -linarith -ring -lia -order -ac [State.Wf, Out.Wf, State.issue_wf, State.advance_wf]

/-! ## Copies -/

theorem execCpA_wf (v : BitVec 7) (r : BitVec 8) (q : BitVec 8) (g : BitVec 2) (s : State) (h0 : s.Wf) : Out.Wf
    (execCpA v r q g s) := by
  unfold execCpA
  grind -linarith -ring -lia -order -ac [State.Wf, Out.Wf, State.issue_wf, State.trap_wf, State.trapVa_wf, State.sendEngine_wf]

theorem execCpB_wf (v : BitVec 6) (r : BitVec 8) (q : BitVec 8) (g : BitVec 2) (s : State) (h0 : s.Wf) : Out.Wf
    (execCpB v r q g s) := by
  unfold execCpB
  grind -linarith -ring -lia -order -ac [State.Wf, Out.Wf, State.issue_wf, State.trap_wf, State.trapVa_wf, State.advance_wf, State.sendEngine_wf]

theorem execGth_wf (v : BitVec 6) (i : BitVec 8) (d : BitVec 8) (s : State) (h0 : s.Wf) : Out.Wf (execGth v i d s) :=
    by
  unfold execGth
  grind -linarith -ring -lia -order -ac [State.Wf, Out.Wf, State.issue_wf, State.trap_wf, State.advance_wf, State.sendEngine_wf]

theorem execCopyLanding_wf (g : GroupRef) (id : Nat) (first : Nat) (n : Nat) (s : State) (h0 : s.Wf) : Out.Wf
    (execCopyLanding g id first n s) := by
  unfold execCopyLanding
  grind -linarith -ring -lia -order -ac [State.Wf, Out.Wf, State.onGroup_wf, State.landBytes_wf, State.credit_wf, State.endEngine_wf]

theorem execGatherEntryLanding_wf (g : GroupRef) (id : Nat) (part : Nat × Nat × Nat) (s : State) (h0 : s.Wf)
    : Out.Wf (execGatherEntryLanding g id part s) := by
  unfold execGatherEntryLanding
  grind -linarith -ring -lia -order -ac [State.Wf, Out.Wf, OptWf, ExcWf, Pass.Wf, Fetched.Wf, RecFetch.Wf, StepWf,
    State.onGroup_wf, State.planEntry_wf, State.updEntry_wf, State.zeroLanded_wf, State.putPlanned_wf,
    State.endEngine_wf]

/-! ## Moment -/

theorem execMadd_wf (d : BitVec 5) (a : BitVec 5) (b : BitVec 5) (y3 : BitVec 1) (y : BitVec 1) (s : State) (h0 :
    s.Wf) : Out.Wf (execMadd d a b y3 y s) := by
  unfold execMadd
  grind -linarith -ring -lia -order -ac [State.Wf, Out.Wf, OptWf, ExcWf, Pass.Wf, Fetched.Wf, RecFetch.Wf, StepWf, State.moment_wf]

theorem execMsub_wf (d : BitVec 5) (a : BitVec 5) (b : BitVec 5) (y3 : BitVec 1) (y : BitVec 1) (s : State) (h0 :
    s.Wf) : Out.Wf (execMsub d a b y3 y s) := by
  unfold execMsub
  grind -linarith -ring -lia -order -ac [State.Wf, Out.Wf, OptWf, ExcWf, Pass.Wf, Fetched.Wf, RecFetch.Wf, StepWf, State.moment_wf]

theorem execMmul_wf (d : BitVec 5) (a : BitVec 5) (b : BitVec 5) (y3 : BitVec 1) (y : BitVec 1) (s : State) (h0 :
    s.Wf) : Out.Wf (execMmul d a b y3 y s) := by
  unfold execMmul
  grind -linarith -ring -lia -order -ac [State.Wf, Out.Wf, OptWf, ExcWf, Pass.Wf, Fetched.Wf, RecFetch.Wf, StepWf, State.moment_wf]

theorem execMfma_wf (d : BitVec 5) (a : BitVec 5) (b : BitVec 5) (y3 : BitVec 1) (y : BitVec 1) (s : State) (h0 :
    s.Wf) : Out.Wf (execMfma d a b y3 y s) := by
  unfold execMfma
  grind -linarith -ring -lia -order -ac [State.Wf, Out.Wf, OptWf, ExcWf, Pass.Wf, Fetched.Wf, RecFetch.Wf, StepWf, State.moment_wf]

theorem execMscl_wf (d : BitVec 5) (a : BitVec 5) (b : BitVec 6) (y3 : BitVec 1) (y : BitVec 1) (s : State) (h0 :
    s.Wf) : Out.Wf (execMscl d a b y3 y s) := by
  unfold execMscl
  grind -linarith -ring -lia -order -ac [State.Wf, Out.Wf, OptWf, ExcWf, Pass.Wf, Fetched.Wf, RecFetch.Wf, StepWf, State.moment_wf]

theorem execMexp_wf (d : BitVec 5) (a : BitVec 5) (y2 : BitVec 1) (s : State) (h0 : s.Wf) : Out.Wf (execMexp d a y2
    s) := by
  unfold execMexp
  grind -linarith -ring -lia -order -ac [State.Wf, Out.Wf, OptWf, ExcWf, Pass.Wf, Fetched.Wf, RecFetch.Wf, StepWf, State.moment_wf]

theorem execMrelu_wf (d : BitVec 5) (a : BitVec 5) (y2 : BitVec 1) (s : State) (h0 : s.Wf) : Out.Wf (execMrelu d a y2
    s) := by
  unfold execMrelu
  grind -linarith -ring -lia -order -ac [State.Wf, Out.Wf, OptWf, ExcWf, Pass.Wf, Fetched.Wf, RecFetch.Wf, StepWf, State.moment_wf]

theorem execMsig_wf (d : BitVec 5) (a : BitVec 5) (y2 : BitVec 1) (s : State) (h0 : s.Wf) : Out.Wf (execMsig d a y2
    s) := by
  unfold execMsig
  grind -linarith -ring -lia -order -ac [State.Wf, Out.Wf, OptWf, ExcWf, Pass.Wf, Fetched.Wf, RecFetch.Wf, StepWf, State.moment_wf]

theorem execMset_wf (d : BitVec 5) (a : BitVec 7) (y2 : BitVec 1) (s : State) (h0 : s.Wf) : Out.Wf (execMset d a y2
    s) := by
  unfold execMset
  grind -linarith -ring -lia -order -ac [State.Wf, Out.Wf, OptWf, ExcWf, Pass.Wf, Fetched.Wf, RecFetch.Wf, StepWf, State.moment_wf]

theorem execMcol_wf (d : BitVec 7) (a : BitVec 5) (y2 : BitVec 1) (s : State) (h0 : s.Wf) : Out.Wf (execMcol d a y2
    s) := by
  unfold execMcol
  grind -linarith -ring -lia -order -ac [State.Wf, Out.Wf, OptWf, ExcWf, Pass.Wf, Fetched.Wf, RecFetch.Wf, StepWf, State.typed_wf, State.finish_wf]

theorem execMvar_wf (d : BitVec 7) (a : BitVec 5) (y2 : BitVec 1) (s : State) (h0 : s.Wf) : Out.Wf (execMvar d a y2
    s) := by
  unfold execMvar
  grind -linarith -ring -lia -order -ac [State.Wf, Out.Wf, OptWf, ExcWf, Pass.Wf, Fetched.Wf, RecFetch.Wf, StepWf, State.typed_wf, State.finish_wf,
      State.writeV_wf]

theorem execMld_wf (d : BitVec 5) (r : BitVec 8) (a : BitVec 7) (w : BitVec 1) (s : State) (h0 : s.Wf) : Out.Wf
    (execMld d r a w s) := by
  unfold execMld
  grind -linarith -ring -lia -order -ac [State.Wf, Out.Wf, State.issue_wf, State.trapRec_wf, State.sendMem_wf]

theorem execMst_wf (d : BitVec 5) (r : BitVec 8) (a : BitVec 7) (w : BitVec 1) (s : State) (h0 : s.Wf) : Out.Wf
    (execMst d r a w s) := by
  unfold execMst
  grind -linarith -ring -lia -order -ac [State.Wf, Out.Wf, State.issue_wf, State.trapRec_wf, State.trapVa_wf, State.sendMem_wf, State.report_wf]

/-! ## Tile -/

theorem execTld_wf (c : BitVec 8) (a : BitVec 8) (b : BitVec 6) (s : State) (h0 : s.Wf) : Out.Wf (execTld c a b s) :=
    by
  unfold execTld
  grind -linarith -ring -lia -order -ac [State.Wf, Out.Wf, State.tileOp_wf]

theorem execTldf_wf (c : BitVec 8) (a : BitVec 8) (b : BitVec 6) (s : State) (h0 : s.Wf) : Out.Wf (execTldf c a b s)
    := by
  unfold execTldf
  grind -linarith -ring -lia -order -ac [State.Wf, Out.Wf, State.tileOp_wf]

theorem execTst_wf (c : BitVec 8) (a : BitVec 8) (b : BitVec 6) (s : State) (h0 : s.Wf) : Out.Wf (execTst c a b s) :=
    by
  unfold execTst
  grind -linarith -ring -lia -order -ac [State.Wf, Out.Wf, State.tileOp_wf]

theorem execTstf_wf (c : BitVec 8) (a : BitVec 8) (b : BitVec 6) (s : State) (h0 : s.Wf) : Out.Wf (execTstf c a b s)
    := by
  unfold execTstf
  grind -linarith -ring -lia -order -ac [State.Wf, Out.Wf, State.tileOp_wf]

theorem execTmm_wf (c : BitVec 8) (a : BitVec 8) (b : BitVec 8) (s : State) (h0 : s.Wf) : Out.Wf (execTmm c a b s) :=
    by
  unfold execTmm
  grind -linarith -ring -lia -order -ac [State.Wf, Out.Wf, State.tileOp_wf]

theorem execTmms_wf (c : BitVec 8) (a : BitVec 8) (b : BitVec 8) (s : State) (h0 : s.Wf) : Out.Wf (execTmms c a b s)
    := by
  unfold execTmms
  grind -linarith -ring -lia -order -ac [State.Wf, Out.Wf, State.tileOp_wf]

theorem execTadd_wf (c : BitVec 8) (a : BitVec 8) (b : BitVec 8) (s : State) (h0 : s.Wf) : Out.Wf (execTadd c a b s)
    := by
  unfold execTadd
  grind -linarith -ring -lia -order -ac [State.Wf, Out.Wf, State.tileOp_wf]

theorem execTsub_wf (c : BitVec 8) (a : BitVec 8) (b : BitVec 8) (s : State) (h0 : s.Wf) : Out.Wf (execTsub c a b s)
    := by
  unfold execTsub
  grind -linarith -ring -lia -order -ac [State.Wf, Out.Wf, State.tileOp_wf]

theorem execTz_wf (c : BitVec 8) (b : BitVec 6) (s : State) (h0 : s.Wf) : Out.Wf (execTz c b s) := by
  unfold execTz
  grind -linarith -ring -lia -order -ac [State.Wf, Out.Wf, State.tileOp_wf]

theorem execTcp_wf (c : BitVec 8) (a : BitVec 8) (s : State) (h0 : s.Wf) : Out.Wf (execTcp c a s) := by
  unfold execTcp
  grind -linarith -ring -lia -order -ac [State.Wf, Out.Wf, State.tileOp_wf]

theorem execTscl_wf (c : BitVec 8) (a : BitVec 8) (b : BitVec 6) (s : State) (h0 : s.Wf) : Out.Wf (execTscl c a b s)
    := by
  unfold execTscl
  grind -linarith -ring -lia -order -ac [State.Wf, Out.Wf, State.tileOp_wf]

theorem execTtr_wf (c : BitVec 8) (a : BitVec 8) (s : State) (h0 : s.Wf) : Out.Wf (execTtr c a s) := by
  unfold execTtr
  grind -linarith -ring -lia -order -ac [State.Wf, Out.Wf, State.tileOp_wf]

theorem execTrnd_wf (c : BitVec 8) (s : State) (h0 : s.Wf) : Out.Wf (execTrnd c s) := by
  unfold execTrnd
  grind -linarith -ring -lia -order -ac [State.Wf, Out.Wf, State.tileOp_wf]

theorem execTlr_wf (c : BitVec 8) (s : State) (h0 : s.Wf) : Out.Wf (execTlr c s) := by
  unfold execTlr
  grind -linarith -ring -lia -order -ac [State.Wf, Out.Wf, State.tileOp_wf]

theorem execTden_wf (c : BitVec 8) (s : State) (h0 : s.Wf) : Out.Wf (execTden c s) := by
  unfold execTden
  grind -linarith -ring -lia -order -ac [State.Wf, Out.Wf, State.tileOp_wf]

theorem execTlu_wf (c : BitVec 8) (a : BitVec 8) (s : State) (h0 : s.Wf) : Out.Wf (execTlu c a s) := by
  unfold execTlu
  grind -linarith -ring -lia -order -ac [State.Wf, Out.Wf, State.tileOp_wf]

theorem execTtrsmL_wf (c : BitVec 8) (a : BitVec 8) (b : BitVec 8) (s : State) (h0 : s.Wf) : Out.Wf (execTtrsmL c a b
    s) := by
  unfold execTtrsmL
  grind -linarith -ring -lia -order -ac [State.Wf, Out.Wf, State.tileOp_wf]

theorem execTtrsmU_wf (c : BitVec 8) (a : BitVec 8) (s : State) (h0 : s.Wf) : Out.Wf (execTtrsmU c a s) := by
  unfold execTtrsmU
  grind -linarith -ring -lia -order -ac [State.Wf, Out.Wf, State.tileOp_wf]

theorem execTchol_wf (c : BitVec 8) (s : State) (h0 : s.Wf) : Out.Wf (execTchol c s) := by
  unfold execTchol
  grind -linarith -ring -lia -order -ac [State.Wf, Out.Wf, State.tileOp_wf]

theorem execTmmM_wf (c : BitVec 8) (a : BitVec 8) (b : BitVec 8) (s : State) (h0 : s.Wf) : Out.Wf (execTmmM c a b s)
    := by
  unfold execTmmM
  grind -linarith -ring -lia -order -ac [State.Wf, Out.Wf, State.tileOp_wf]

theorem execVt_wf (c : BitVec 8) (a : BitVec 7) (b : BitVec 6) (s : State) (h0 : s.Wf) : Out.Wf (execVt c a b s) := by
  unfold execVt
  grind -linarith -ring -lia -order -ac [State.Wf, Out.Wf, State.tileOp_wf]

theorem execTileRetirement_wf (g : GroupRef) (id : Nat) (part : Option (Nat × Nat)) (s : State) (h0 : s.Wf) : Out.Wf
    (execTileRetirement g id part s) := by
  unfold execTileRetirement
  grind -linarith -ring -lia -order -ac [State.Wf, Out.Wf, OptWf, ExcWf, Pass.Wf, Fetched.Wf, RecFetch.Wf, StepWf,
    State.onGroup_wf, State.runTile_wf]

theorem execTv_wf (d : BitVec 7) (a : BitVec 8) (b : BitVec 6) (s : State) (h0 : s.Wf) : Out.Wf (execTv d a b s) := by
  unfold execTv
  grind -linarith -ring -lia -order -ac [State.Wf, Out.Wf, OptWf, ExcWf, Pass.Wf, Fetched.Wf, RecFetch.Wf, StepWf,
    State.issue_wf, State.trap_wf, State.advance_wf, State.launchEntry_wf, State.reportTile_wf]

theorem execTinfo_wf (d : BitVec 6) (n : BitVec 8) (s : State) (h0 : s.Wf) : Out.Wf (execTinfo d n s) := by
  unfold execTinfo
  grind -linarith -ring -lia -order -ac [State.Wf, Out.Wf, State.inspect_wf, State.writeS_wf]

theorem execTls_wf (n : BitVec 8) (s : State) (h0 : s.Wf) : Out.Wf (execTls n s) := by
  unfold execTls
  grind -linarith -ring -lia -order -ac [State.Wf, Out.Wf, State.inspect_wf]

/-! ## Record -/

theorem execRecLd_wf (a : BitVec 6) (n : BitVec 10) (s : State) (h0 : s.Wf) : Out.Wf (execRecLd a n s) := by
  unfold execRecLd
  grind -linarith -ring -lia -order -ac [State.Wf, Out.Wf, OptWf, ExcWf, Pass.Wf, Fetched.Wf, RecFetch.Wf, StepWf, State.issue_wf, State.trapVa_wf,
      State.trap_wf, State.sendWhole_wf]

theorem execRecSt_wf (a : BitVec 6) (n : BitVec 10) (s : State) (h0 : s.Wf) : Out.Wf (execRecSt a n s) := by
  unfold execRecSt
  grind -linarith -ring -lia -order -ac [State.Wf, Out.Wf, State.issue_wf, State.trapVa_wf, State.sendMem_wf]

theorem execRecInv_wf (a : BitVec 6) (n : BitVec 10) (s : State) (h0 : s.Wf) : Out.Wf (execRecInv a n s) := by
  unfold execRecInv
  grind -linarith -ring -lia -order -ac [State.Wf, Out.Wf, OptWf, ExcWf, Pass.Wf, Fetched.Wf, RecFetch.Wf, StepWf, State.issue_wf, State.advance_wf,
      State.dropCopies_wf]

theorem execCbld_wf (a : BitVec 6) (s : State) (h0 : s.Wf) : Out.Wf (execCbld a s) := by
  unfold execCbld
  grind -linarith -ring -lia -order -ac [State.Wf, Out.Wf, State.issue_wf, State.trapVa_wf, State.sendWhole_wf]

theorem execRecSet_wf (r : BitVec 6) (a : BitVec 6) (f : BitVec 6) (s : State) (h0 : s.Wf) : Out.Wf (execRecSet r a f
    s) := by
  unfold execRecSet
  repeat' split
  all_goals grind -linarith -ring -lia -order -ac [State.Wf, Out.Wf, OptWf, ExcWf, Pass.Wf, Fetched.Wf, RecFetch.Wf, StepWf, State.issue_wf,
      State.trap_wf, State.advance_wf, State.changeRecord_wf]

theorem execRecGet_wf (d : BitVec 6) (r : BitVec 6) (f : BitVec 6) (s : State) (h0 : s.Wf) : Out.Wf (execRecGet d r f
    s) := by
  unfold execRecGet
  grind -linarith -ring -lia -order -ac [State.Wf, Out.Wf, State.issue_wf, State.trap_wf, State.advance_wf, State.writeS_wf]

/-! ## Pool -/

theorem execTsalNw_wf (d : BitVec 6) (a : BitVec 6) (s : State) (h0 : s.Wf) : Out.Wf (execTsalNw d a s) := by
  unfold execTsalNw
  grind -linarith -ring -lia -order -ac [State.Wf, Out.Wf, State.issue_wf, State.answer_wf, State.growPool_wf]

theorem execTsal_wf (d : BitVec 6) (a : BitVec 6) (s : State) (h0 : s.Wf) : Out.Wf (execTsal d a s) := by
  unfold execTsal
  grind -linarith -ring -lia -order -ac [State.Wf, Out.Wf, OptWf, ExcWf, Pass.Wf, Fetched.Wf, RecFetch.Wf, StepWf,
    State.issue_wf, State.answer_wf, State.growPool_wf, State.waitIn_wf]

theorem execTsfr_wf (d : BitVec 6) (a : BitVec 6) (s : State) (h0 : s.Wf) : Out.Wf (execTsfr d a s) := by
  unfold execTsfr
  grind -linarith -ring -lia -order -ac [State.Wf, Out.Wf, State.issue_wf, State.answer_wf]

theorem execTsalGrant_wf (g : GroupRef) (k : BitVec 2) (s : State) (h0 : s.Wf) : Out.Wf (execTsalGrant g k s) := by
  unfold execTsalGrant
  grind -linarith -ring -lia -order -ac [State.Wf, Out.Wf, State.onGroup_wf, State.answerWait_wf, State.growPool_wf]

theorem execTsalRefusal_wf (die : BitVec 3) (core : BitVec 7) (s : State) (h0 : s.Wf) : Out.Wf (execTsalRefusal die
    core s) := by
  unfold execTsalRefusal
  grind -linarith -ring -lia -order -ac [State.Wf, Out.Wf, State.refuseWaits_wf]

/-! ## Queue -/

theorem execQpush_wf (d : BitVec 6) (v : BitVec 6) (n : BitVec 10) (s : State) (h0 : s.Wf) : Out.Wf (execQpush d v n
    s) := by
  unfold execQpush
  grind -linarith -ring -lia -order -ac [State.Wf, Out.Wf, OptWf, ExcWf, Pass.Wf, Fetched.Wf, RecFetch.Wf, StepWf,
    State.issue_wf, State.trapQueue_wf, State.trap_wf, State.actPush_wf, State.advance_wf, State.writeS_wf,
    State.sendQueue_wf]

theorem execQpop_wf (d : BitVec 6) (n : BitVec 10) (s : State) (h0 : s.Wf) : Out.Wf (execQpop d n s) := by
  unfold execQpop
  grind -linarith -ring -lia -order -ac [State.Wf, Out.Wf, OptWf, ExcWf, Pass.Wf, Fetched.Wf, RecFetch.Wf, StepWf,
    State.issue_wf, State.onQueue_wf, State.advance_wf, State.popClaim_wf, State.waitIn_wf]

theorem execQpopClaim_wf (g : GroupRef) (k : BitVec 2) (s : State) (h0 : s.Wf) : Out.Wf (execQpopClaim g k s) := by
  unfold execQpopClaim
  grind -linarith -ring -lia -order -ac [State.Wf, Out.Wf, State.onGroup_wf, State.popClaim_wf, State.updSp_wf]

theorem execPmtGet_wf (d : BitVec 6) (a : BitVec 6) (n : BitVec 10) (s : State) (h0 : s.Wf) : Out.Wf (execPmtGet d a n
    s) := by
  unfold execPmtGet
  grind -linarith -ring -lia -order -ac [State.Wf, Out.Wf, OptWf, ExcWf, Pass.Wf, Fetched.Wf, RecFetch.Wf, StepWf,
    State.issue_wf, State.actPermit_wf, State.answer_wf, State.sendQueue_wf]

theorem execPmtRet_wf (a : BitVec 6) (n : BitVec 10) (s : State) (h0 : s.Wf) : Out.Wf (execPmtRet a n s) := by
  unfold execPmtRet
  grind -linarith -ring -lia -order -ac [State.Wf, Out.Wf, OptWf, ExcWf, Pass.Wf, Fetched.Wf, RecFetch.Wf, StepWf,
    State.issue_wf, State.actPermit_wf, State.advance_wf, State.sendQueue_wf]

/-! ## Work -/

theorem execLaunchCompletion_wf (vf : BitVec 7) (seq : W64) (s : State) (h0 : s.Wf) : Out.Wf (execLaunchCompletion vf
    seq s) := by
  unfold execLaunchCompletion
  grind -linarith -ring -lia -order -ac [State.Wf, Out.Wf, State.completeLaunch_wf]

theorem execLaunchAcceptance_wf (vf : BitVec 7) (fromQueue : Bool) (s : State) (h0 : s.Wf) : Out.Wf
    (execLaunchAcceptance vf fromQueue s) := by
  unfold execLaunchAcceptance
  grind -linarith -ring -lia -order -ac [State.Wf, Out.Wf, State.readChunks_wf, State.accept_wf, State.updCtx_wf, State.launched_wf]

theorem execLqtail_wf (vf : BitVec 7) (v : W32) (s : State) (h0 : s.Wf) : Out.Wf (execLqtail vf v s) := by
  unfold execLqtail
  exact h0

theorem execLaunch_wf (d : BitVec 6) (a : BitVec 6) (s : State) (h0 : s.Wf) : Out.Wf (execLaunch d a s) := by
  unfold execLaunch
  grind -linarith -ring -lia -order -ac [State.Wf, Out.Wf, OptWf, ExcWf, Pass.Wf, Fetched.Wf, RecFetch.Wf, StepWf,
    State.issue_wf, State.trapVa_wf, State.waitIn_wf, State.updCtx_wf]

theorem execDone_wf (n : BitVec 10) (s : State) (h0 : s.Wf) : Out.Wf (execDone n s) := by
  unfold execDone
  grind -linarith -ring -lia -order -ac [State.Wf, Out.Wf, OptWf, ExcWf, Pass.Wf, Fetched.Wf, RecFetch.Wf, StepWf,
    State.issue_wf, State.onQueue_wf, State.advance_wf, State.trap_wf, State.updCtx_wf]

theorem execQflush_wf (n : BitVec 10) (s : State) (h0 : s.Wf) : Out.Wf (execQflush n s) := by
  unfold execQflush
  grind -linarith -ring -lia -order -ac [State.Wf, Out.Wf, OptWf, ExcWf, Pass.Wf, Fetched.Wf, RecFetch.Wf, StepWf,
    State.issue_wf, State.onQueue_wf, State.advance_wf, State.sendFlushes_wf]

theorem execTriggerDecision_wf (vf : BitVec 7) (n : BitVec 10) (s : State) (h0 : s.Wf) : Out.Wf (execTriggerDecision
    vf n s) := by
  unfold execTriggerDecision
  grind -linarith -ring -lia -order -ac [State.Wf, Out.Wf, State.nodeRecord_wf, State.decide_wf]

theorem execFlushTimerExpiry_wf (vf : BitVec 7) (n : BitVec 10) (s : State) (h0 : s.Wf) : Out.Wf (execFlushTimerExpiry
    vf n s) := by
  unfold execFlushTimerExpiry
  grind -linarith -ring -lia -order -ac [State.Wf, Out.Wf, State.nodeRecord_wf, State.decide_wf]

/-! ## System -/

theorem execTrap_wf (c : BitVec 5) (s : State) (h0 : s.Wf) : Out.Wf (execTrap c s) := by
  unfold execTrap
  grind -linarith -ring -lia -order -ac [State.Wf, Out.Wf, State.issue_wf, State.softTrap_wf]

theorem execBrk_wf (s : State) (h0 : s.Wf) : Out.Wf (execBrk s) := by
  unfold execBrk
  grind -linarith -ring -lia -order -ac [State.Wf, Out.Wf, State.issue_wf, State.softTrap_wf]

theorem execRte_wf (s : State) (h0 : s.Wf) : Out.Wf (execRte s) := by
  unfold execRte
  grind -linarith -ring -lia -order -ac [State.Wf, Out.Wf, State.inHandler_wf, State.returnFromTrap_wf, State.trap_wf]

theorem execRqN_wf (d : BitVec 6) (s : State) (h0 : s.Wf) : Out.Wf (execRqN d s) := by
  unfold execRqN
  grind -linarith -ring -lia -order -ac [State.Wf, Out.Wf, State.inHandler_wf, State.advance_wf, State.writeS_wf]

theorem execRqRd_wf (d : BitVec 6) (a : BitVec 6) (s : State) (h0 : s.Wf) : Out.Wf (execRqRd d a s) := by
  unfold execRqRd
  grind -linarith -ring -lia -order -ac [State.Wf, Out.Wf, State.inHandler_wf, State.advance_wf, State.writeS_wf]

theorem execRqWr_wf (d : BitVec 6) (a : BitVec 6) (s : State) (h0 : s.Wf) : Out.Wf (execRqWr d a s) := by
  unfold execRqWr
  grind -linarith -ring -lia -order -ac [State.Wf, Out.Wf, State.inHandler_wf, State.advance_wf]

theorem execRqDrop_wf (a : BitVec 6) (s : State) (h0 : s.Wf) : Out.Wf (execRqDrop a s) := by
  unfold execRqDrop
  repeat' split
  all_goals grind -linarith -ring -lia -order -ac [State.Wf, Out.Wf, OptWf, ExcWf, Pass.Wf, Fetched.Wf, RecFetch.Wf, StepWf, State.inHandler_wf,
      State.advance_wf, State.afterEntry_wf]

theorem execElog_wf (d : BitVec 6) (s : State) (h0 : s.Wf) : Out.Wf (execElog d s) := by
  unfold execElog
  grind -linarith -ring -lia -order -ac [State.Wf, Out.Wf, State.issue_wf, State.advance_wf, State.writeRecord_wf, State.updCtx_wf]

theorem execTrapEntry_wf (g : GroupRef) (s : State) (h0 : s.Wf) : Out.Wf (execTrapEntry g s) := by
  unfold execTrapEntry
  grind -linarith -ring -lia -order -ac [State.Wf, Out.Wf, State.onGroup_wf, State.takeDue_wf]

/-! ## Debug -/

theorem execWpSet_wf (d : BitVec 6) (a : BitVec 6) (p : BitVec 4) (s : State) (h0 : s.Wf) : Out.Wf (execWpSet d a p s)
    := by
  unfold execWpSet
  grind -linarith -ring -lia -order -ac [State.Wf, Out.Wf, State.issue_wf, State.trap_wf, State.answer_wf, State.clearCounts_wf, State.updCtx_wf]

theorem execWpClr_wf (p : BitVec 4) (s : State) (h0 : s.Wf) : Out.Wf (execWpClr p s) := by
  unfold execWpClr
  grind -linarith -ring -lia -order -ac [State.Wf, Out.Wf, State.disarm_wf]

theorem execWpClrAll_wf (s : State) (h0 : s.Wf) : Out.Wf (execWpClrAll s) := by
  unfold execWpClrAll
  grind -linarith -ring -lia -order -ac [State.Wf, Out.Wf, State.disarm_wf]

theorem execWpSt_wf (d : BitVec 6) (p : BitVec 4) (s : State) (h0 : s.Wf) : Out.Wf (execWpSt d p s) := by
  unfold execWpSt
  grind -linarith -ring -lia -order -ac [State.Wf, Out.Wf, State.issue_wf, State.advance_wf, State.writeS_wf]

theorem execWpStLog_wf (d : BitVec 6) (s : State) (h0 : s.Wf) : Out.Wf (execWpStLog d s) := by
  unfold execWpStLog
  grind -linarith -ring -lia -order -ac [State.Wf, Out.Wf, State.issue_wf, State.advance_wf, State.writeRecord_wf, State.updCtx_wf]

theorem execDbgHalt_wf (d : BitVec 6) (a : BitVec 6) (scope : BitVec 2) (s : State) (h0 : s.Wf) : Out.Wf (execDbgHalt
    d a scope s) := by
  unfold execDbgHalt
  grind -linarith -ring -lia -order -ac [State.Wf, Out.Wf, State.debug_wf, State.haltTarget_wf, State.advance_wf, State.at_wf, State.writeS_wf]

theorem execDbgGo_wf (d : BitVec 6) (a : BitVec 6) (scope : BitVec 2) (s : State) (h0 : s.Wf) : Out.Wf (execDbgGo d a
    scope s) := by
  unfold execDbgGo
  grind -linarith -ring -lia -order -ac [State.Wf, Out.Wf, State.debug_wf, State.goTarget_wf, State.advance_wf, State.at_wf, State.writeS_wf]

theorem execDbgStep_wf (d : BitVec 6) (a : BitVec 6) (s : State) (h0 : s.Wf) : Out.Wf (execDbgStep d a s) := by
  unfold execDbgStep
  grind -linarith -ring -lia -order -ac [State.Wf, Out.Wf, State.debug_wf, State.stepTarget_wf, State.advance_wf]

theorem execDbgRd_wf (d : BitVec 6) (a : BitVec 6) (r : BitVec 9) (s : State) (h0 : s.Wf) : Out.Wf (execDbgRd d a r s)
    := by
  unfold execDbgRd
  grind -linarith -ring -lia -order -ac [State.Wf, Out.Wf, State.debug_wf, State.advance_wf, State.launchEntry_wf]

theorem execDbgWr_wf (d : BitVec 6) (a : BitVec 6) (r : BitVec 9) (s : State) (h0 : s.Wf) : Out.Wf (execDbgWr d a r s)
    := by
  unfold execDbgWr
  grind -linarith -ring -lia -order -ac [State.Wf, Out.Wf, State.debugWr_wf]

theorem execDbgWrF_wf (d : BitVec 6) (a : BitVec 6) (r : BitVec 9) (s : State) (h0 : s.Wf) : Out.Wf (execDbgWrF d a r
    s) := by
  unfold execDbgWrF
  grind -linarith -ring -lia -order -ac [State.Wf, Out.Wf, State.debugWr_wf]

theorem execDbgLs_wf (d : BitVec 6) (a : BitVec 6) (s : State) (h0 : s.Wf) : Out.Wf (execDbgLs d a s) := by
  unfold execDbgLs
  grind -linarith -ring -lia -order -ac [State.Wf, Out.Wf, State.issue_wf, State.trap_wf, State.advance_wf, State.writeRecord_wf]

theorem execDmHalt_wf (vf : BitVec 7) (scope : BitVec 2) (s : State) (h0 : s.Wf) : Out.Wf (execDmHalt vf scope s) :=
    by
  unfold execDmHalt
  grind -linarith -ring -lia -order -ac [State.Wf, Out.Wf, State.mirror_wf, State.haltTarget_wf, State.mirrorStat_wf]

theorem execDmGo_wf (vf : BitVec 7) (scope : BitVec 2) (s : State) (h0 : s.Wf) : Out.Wf (execDmGo vf scope s) := by
  unfold execDmGo
  grind -linarith -ring -lia -order -ac [State.Wf, Out.Wf, State.mirror_wf, State.goTarget_wf, State.mirrorStat_wf]

theorem execDmStep_wf (vf : BitVec 7) (s : State) (h0 : s.Wf) : Out.Wf (execDmStep vf s) := by
  unfold execDmStep
  grind -linarith -ring -lia -order -ac [State.Wf, Out.Wf, OptWf, ExcWf, Pass.Wf, Fetched.Wf, RecFetch.Wf, StepWf, State.mirror_wf,
      State.stepTarget_wf, State.mirrorStat_wf]

theorem execDmRd_wf (vf : BitVec 7) (r : BitVec 9) (s : State) (h0 : s.Wf) : Out.Wf (execDmRd vf r s) := by
  unfold execDmRd
  grind -linarith -ring -lia -order -ac [State.Wf, Out.Wf, State.mirror_wf, State.updCtx_wf]

theorem execDmWr_wf (vf : BitVec 7) (r : BitVec 9) (s : State) (h0 : s.Wf) : Out.Wf (execDmWr vf r s) := by
  unfold execDmWr
  grind -linarith -ring -lia -order -ac [State.Wf, Out.Wf, State.mirror_wf, State.writeTarget_wf, State.mirrorStat_wf]

theorem execDmWrF_wf (vf : BitVec 7) (r : BitVec 9) (s : State) (h0 : s.Wf) : Out.Wf (execDmWrF vf r s) := by
  unfold execDmWrF
  grind -linarith -ring -lia -order -ac [State.Wf, Out.Wf, State.mirror_wf, State.writeTarget_wf, State.mirrorStat_wf]

theorem execTrMark_wf (a : BitVec 6) (k : BitVec 9) (s : State) (h0 : s.Wf) : Out.Wf (execTrMark a k s) := by
  unfold execTrMark
  grind -linarith -ring -lia -order -ac [State.Wf, Out.Wf, State.issue_wf, State.advance_wf, State.packet_wf]

/-! ## Faults -/

theorem execProducerCompletion_wf (g : GroupRef) (id : Nat) (lanes : Mask) (s : State) (h0 : s.Wf) : Out.Wf
    (execProducerCompletion g id lanes s) := by
  unfold execProducerCompletion
  grind -linarith -ring -lia -order -ac [State.Wf, Out.Wf, OptWf, ExcWf, Pass.Wf, Fetched.Wf, RecFetch.Wf, StepWf,
    State.onFlight_wf, State.performLoad_wf, State.finishBank_wf, State.endTv_wf, State.endPop_wf, State.endPush_wf,
    State.endPermit_wf, State.endDbgRd_wf]

theorem execWatchLoadValueEvaluation_wf (g : GroupRef) (s : State) (h0 : s.Wf) : Out.Wf (execWatchLoadValueEvaluation
    g s) := by
  unfold execWatchLoadValueEvaluation
  grind -linarith -ring -lia -order -ac [State.Wf, Out.Wf, State.onGroup_wf, State.evaluate_wf, State.dropEntry_wf, State.actLate_wf]

theorem execFrespResume_wf (vf : BitVec 7) (die : BitVec 3) (slot : BitVec 12) (s : State) (h0 : s.Wf) : Out.Wf
    (execFrespResume vf die slot s) := by
  unfold execFrespResume
  grind -linarith -ring -lia -order -ac [State.Wf, Out.Wf, State.releasePage_wf, State.dropRecord_wf]

theorem execFrespRefuse_wf (vf : BitVec 7) (die : BitVec 3) (slot : BitVec 12) (s : State) (h0 : s.Wf) : Out.Wf
    (execFrespRefuse vf die slot s) := by
  unfold execFrespRefuse
  grind -linarith -ring -lia -order -ac [State.Wf, Out.Wf, State.atAll_wf, State.dropRecord_wf, State.refuseHere_wf]

theorem execFaultBufferRetry_wf (g : GroupRef) (id : Nat) (s : State) (h0 : s.Wf) : Out.Wf (execFaultBufferRetry g id
    s) := by
  unfold execFaultBufferRetry
  grind -linarith -ring -lia -order -ac [State.Wf, Out.Wf, State.onGroup_wf, State.retryEntry_wf, State.unparkIdle_wf]

theorem execMigrateOnTouchService_wf (die : BitVec 3) (slot : BitVec 12) (frame : Option (BitVec 52)) (s : State) (h0
    : s.Wf) : Out.Wf (execMigrateOnTouchService die slot frame s) := by
  unfold execMigrateOnTouchService
  repeat' split
  all_goals grind -linarith -ring -lia -order -ac [State.Wf, Out.Wf, OptWf, ExcWf, Pass.Wf, Fetched.Wf, RecFetch.Wf, StepWf, State.releasePage_wf,
      State.dropRecord_wf, State.toHost_wf, State.movePage_wf]

theorem execFqhead_wf (vf : BitVec 7) (v : W64) (s : State) (h0 : s.Wf) : Out.Wf (execFqhead vf v s) := by
  unfold execFqhead
  grind -linarith -ring -lia -order -ac [State.Wf, Out.Wf, State.forward_wf, State.updCtx_wf]

theorem execInvalPage_wf (vf : BitVec 7) (va : W64) (s : State) (h0 : s.Wf) : Out.Wf (execInvalPage vf va s) := by
  unfold execInvalPage
  grind -linarith -ring -lia -order -ac [State.Wf, Out.Wf, OptWf, ExcWf, Pass.Wf, Fetched.Wf, RecFetch.Wf, StepWf,
    State.markStale_wf, State.dropPage_wf]

theorem execInvalAll_wf (vf : BitVec 7) (s : State) (h0 : s.Wf) : Out.Wf (execInvalAll vf s) := by
  unfold execInvalAll
  grind -linarith -ring -lia -order -ac [State.Wf, Out.Wf, OptWf, ExcWf, Pass.Wf, Fetched.Wf, RecFetch.Wf, StepWf,
    State.markStale_wf, State.dropAllPages_wf]

/-! ## Sched -/

theorem execSplitPromotion_wf (g : GroupRef) (k : BitVec 2) (s : State) (h0 : s.Wf) : Out.Wf (execSplitPromotion g k
    s) := by
  unfold execSplitPromotion
  grind -linarith -ring -lia -order -ac [State.Wf, Out.Wf, State.onGroup_wf]

theorem execGroupMoveOut_wf (g : GroupRef) (s : State) (h0 : s.Wf) : Out.Wf (execGroupMoveOut g s) := by
  unfold execGroupMoveOut
  grind -linarith -ring -lia -order -ac [State.Wf, Out.Wf, State.onGroup_wf]

theorem execGroupMoveIn_wf (g : GroupRef) (s : State) (h0 : s.Wf) : Out.Wf (execGroupMoveIn g s) := by
  unfold execGroupMoveIn
  grind -linarith -ring -lia -order -ac [State.Wf, Out.Wf, State.onGroup_wf, State.atAll_wf]

theorem execGroupRetirement_wf (g : GroupRef) (s : State) (h0 : s.Wf) : Out.Wf (execGroupRetirement g s) := by
  unfold execGroupRetirement
  grind -linarith -ring -lia -order -ac [State.Wf, Out.Wf, State.onGroup_wf, State.checkBars_wf, State.retireGang_wf]

theorem execGangAdmission_wf (g : GangRef) (die : BitVec 3) (core : BitVec 7) (s : State) (h0 : s.Wf) : Out.Wf
    (execGangAdmission g die core s) := by
  unfold execGangAdmission
  repeat' split
  all_goals grind -linarith -ring -lia -order -ac [State.Wf, Out.Wf, OptWf, ExcWf, Pass.Wf, Fetched.Wf, RecFetch.Wf, StepWf, State.comeBack_wf,
      State.rerunFailed_wf, State.place_wf, State.countAdmitted_wf]

theorem execBandAdmission_wf (vf : BitVec 7) (seq : W64) (band : BitVec 32) (die : BitVec 3) (cores : List (BitVec 7))
    (base : BitVec 29) (s : State) (h0 : s.Wf) : Out.Wf (execBandAdmission vf seq band die cores base s) := by
  have hf (m : Memory) (n : Nat) (l : SMap 8) (h : Memory.wf m = true) :
      Memory.wf (l.foldl (fun m c => SMap.set m (c.1 + n) c.2) m) = true :=
    foldl_map_wf _ (fun t x ht => SMap.wf_set t _ _ ht) _ _ h
  unfold execBandAdmission
  simp only [Out.Wf]
  repeat' split
  all_goals first
    | exact h0
    | exact State.rerunFailed_wf _ _ (State.placeBack_wf die _ cores _ ⟨h0.1, hf _ _ _ (SMap.wf_filter _ _ h0.2)⟩)
    | exact State.countAdmitted_wf _ _ _ _ (State.placeNew_wf _ _ _ _ _ _ _ (State.zeroBank_wf _ _ _ h0))

theorem execCandidateReservation_wf (g : GangRef) (s : State) (h0 : s.Wf) : Out.Wf (execCandidateReservation g s) :=
    by
  unfold execCandidateReservation
  simp only [Out.Wf]
  repeat' split
  all_goals exact h0

theorem execGangEviction_wf (g : GangRef) (s : State) (h0 : s.Wf) : Out.Wf (execGangEviction g s) := by
  unfold execGangEviction
  grind -linarith -ring -lia -order -ac [State.Wf, Out.Wf, State.evictUnit_wf]

theorem execGangWake_wf (g : GangRef) (s : State) (h0 : s.Wf) : Out.Wf (execGangWake g s) := by
  unfold execGangWake
  grind -linarith -ring -lia -order -ac [State.Wf, Out.Wf, OptWf, ExcWf, Pass.Wf, Fetched.Wf, RecFetch.Wf, StepWf, State.wakeGang_wf]

/-! ## Save -/

theorem execCtxctlReset_wf (vf : BitVec 7) (v : W64) (s : State) (h0 : s.Wf) : Out.Wf (execCtxctlReset vf v s) := by
  unfold execCtxctlReset
  grind -linarith -ring -lia -order -ac [State.Wf, Out.Wf, State.writeCtxCtl_wf]

theorem execContextDestruction_wf (vf : BitVec 7) (s : State) (h0 : s.Wf) : Out.Wf (execContextDestruction vf s) := by
  unfold execContextDestruction
  grind -linarith -ring -lia -order -ac [State.Wf, Out.Wf, State.updCtx_wf, State.releaseRegions_wf, State.resetContext_wf]

theorem execBankRegionReservation_wf (vf : BitVec 7) (base : BitVec 29) (bytes : BitVec 27) (s : State) (h0 : s.Wf) :
    Out.Wf (execBankRegionReservation vf base bytes s) := by
  unfold execBankRegionReservation
  grind -linarith -ring -lia -order -ac [State.Wf, Out.Wf, State.updCtx_wf, State.zeroBank_wf]

theorem execCapture_wf (vf : BitVec 7) (s : State) (h0 : s.Wf) : Out.Wf (execCapture vf s) := by
  unfold execCapture
  grind -linarith -ring -lia -order -ac [State.Wf, Out.Wf, OptWf, ExcWf, Pass.Wf, Fetched.Wf, RecFetch.Wf, StepWf,
    State.updCtx_wf, State.mapWhere_wf, State.putImage_wf]

theorem execResume_wf (vf : BitVec 7) (s : State) (h0 : s.Wf) : Out.Wf (execResume vf s) := by
  unfold execResume
  grind -linarith -ring -lia -order -ac [State.Wf, Out.Wf, OptWf, ExcWf, Pass.Wf, Fetched.Wf, RecFetch.Wf, StepWf,
    State.shiftSleepers_wf, State.updCtx_wf, State.atAll_wf, State.rerun_wf]

theorem execDiscard_wf (vf : BitVec 7) (s : State) (h0 : s.Wf) : Out.Wf (execDiscard vf s) := by
  unfold execDiscard
  grind -linarith -ring -lia -order -ac [State.Wf, Out.Wf, State.resetContext_wf]

theorem execRestore_wf (vf : BitVec 7) (places : List Placement) (s : State) (h0 : s.Wf) : Out.Wf (execRestore vf
    places s) := by
  have hz (s : State) (l : List (Nat × Nat)) (h : s.Wf) : (l.foldl (fun (t : State) r => t.zeroBank r.1 r.2) s).Wf :=
    foldl_wf _ (fun t x ht => State.zeroBank_wf t _ _ ht) _ _ h
  have hf (m : Memory) (l : SMap 8) (h : Memory.wf m = true) :
      Memory.wf (l.foldl (fun (m : List Host.Cell) (c : Nat × Byte) => SMap.set m c.1 c.2) m) = true :=
    foldl_map_wf _ (fun t x ht => SMap.wf_set t _ _ ht) _ _ h
  unfold execRestore
  grind -linarith -ring -lia -order -ac (splits := 40) [State.Wf, Out.Wf, OptWf, State.updCtx_wf, State.placeAll_wf, State.zeroBank_wf,
    State.mapWhere_wf, State.atAll_wf, State.rerun_wf, State.dropCaches_wf]

theorem execLogon_wf (vf : BitVec 7) (s : State) (h0 : s.Wf) : Out.Wf (execLogon vf s) := by
  unfold execLogon
  exact h0

theorem execLogoff_wf (vf : BitVec 7) (s : State) (h0 : s.Wf) : Out.Wf (execLogoff vf s) := by
  unfold execLogoff
  exact h0

theorem execCoreRetirement_wf (die : BitVec 3) (core : BitVec 7) (s : State) (h0 : s.Wf) :
    Out.Wf (execCoreRetirement die core s) := by
  unfold execCoreRetirement
  simp only [Out.Wf]
  repeat' split
  all_goals first
    | exact h0
    | exact State.atAll_wf _ _ _ (State.freshSegs_wf _ _ (State.clearCore_wf _ _ _ _ _ h0))
        fun t ht => State.rerun_wf t ht
    | exact foldl_wf _ (fun t x ht => State.evictAlways_wf t x ht) _ _ (State.clearCore_wf _ _ _ _ _ h0)

theorem execSoftErrorReexecution_wf (g : GroupRef) (id : Nat) (s : State) (h0 : s.Wf) : Out.Wf
    (execSoftErrorReexecution g id s) := by
  unfold execSoftErrorReexecution
  grind -linarith -ring -lia -order -ac [State.Wf, Out.Wf, OptWf, ExcWf, Pass.Wf, Fetched.Wf, RecFetch.Wf, StepWf, State.focus_wf]

/-! ## Host -/

theorem execRegisterWrite_wf (r : RegName) (v : W64) (s : State) (h0 : s.Wf) : Out.Wf (execRegisterWrite r v s) := by
  unfold execRegisterWrite
  grind -linarith -ring -lia -order -ac [State.Wf, Out.Wf, State.setIdle_wf, State.writeCtxCtl_wf, State.updCtx_wf, State.forward_wf,
    State.updSink_wf, State.updSampleSink_wf]

theorem execCbimg_wf (vf : BitVec 7) (v : W64) (s : State) (h0 : s.Wf) : Out.Wf (execCbimg vf v s) := by
  unfold execCbimg
  grind -linarith -ring -lia -order -ac [State.Wf, Out.Wf, State.updCtx_wf, State.readChunks_wf]

theorem execHostCxlMemAccess_wf (mapping : Option (BitVec 7)) (addr : W64) (data : Option (List Byte)) (n : Nat) (s :
    State) (h0 : s.Wf) : Out.Wf (execHostCxlMemAccess mapping addr data n s) := by
  unfold execHostCxlMemAccess
  grind -linarith -ring -lia -order -ac [State.Wf, Out.Wf, State.hostAddr_wf, State.writeBoth_wf, State.readLine_wf]

theorem execRemoteAccess_wf (m : RemoteMsg) (s : State) (h0 : s.Wf) : Out.Wf (execRemoteAccess m s) := by
  unfold execRemoteAccess
  grind -linarith -ring -lia -order -ac [State.Wf, Out.Wf, State.reply_wf, State.writeReach_wf, State.readReach_wf]

theorem execRemoteQpush_wf (sender : BitVec 12) (p : RemotePush) (s : State) (h0 : s.Wf) : Out.Wf (execRemoteQpush
    sender p s) := by
  have hf (s : State) (l : List (Reach × List Byte)) (h : s.Wf) :
      (l.foldl (fun (s : State) x => s.writeReach x.1 x.2) s).Wf :=
    foldl_wf _ (fun t x ht => State.writeReach_wf t _ _ ht) _ _ h
  unfold execRemoteQpush
  grind -linarith -ring -lia -order -ac (splits := 30) [State.Wf, Out.Wf, State.reply_wf, State.pushed_wf]

theorem execRemotePermit_wf (sender : BitVec 12) (p : RemotePmt) (s : State) (h0 : s.Wf) : Out.Wf (execRemotePermit
    sender p s) := by
  unfold execRemotePermit
  grind -linarith -ring -lia -order -ac [State.Wf, Out.Wf, State.reply_wf, State.setRemoteHeld_wf, State.setCtl_wf]

theorem execRemotePermitReturn_wf (sender : BitVec 12) (context : Option (BitVec 7)) (s : State) (h0 : s.Wf) : Out.Wf
    (execRemotePermitReturn sender context s) := by
  unfold execRemotePermitReturn
  grind -linarith -ring -lia -order -ac [State.Wf, Out.Wf, State.giveBack_wf, State.reply_wf]

theorem execFabricDown_wf (device : BitVec 12) (s : State) (h0 : s.Wf) : Out.Wf (execFabricDown device s) := by
  unfold execFabricDown
  grind -linarith -ring -lia -order -ac [State.Wf, Out.Wf]

theorem execTimeAlignment_wf (t : W64) (s : State) (h0 : s.Wf) : Out.Wf (execTimeAlignment t s) := by
  unfold execTimeAlignment
  grind -linarith -ring -lia -order -ac [State.Wf, Out.Wf, State.pass_wf]

theorem execTraceTs_wf (g : GroupRef) (s : State) (h0 : s.Wf) : Out.Wf (execTraceTs g s) := by
  unfold execTraceTs
  grind -linarith -ring -lia -order -ac [State.Wf, Out.Wf, State.onGroup_wf, State.packet_wf]

theorem execSample_wf (die : BitVec 3) (core : BitVec 7) (quad : BitVec 2) (s : State) (h0 : s.Wf) : Out.Wf
    (execSample die core quad s) := by
  unfold execSample
  grind -linarith -ring -lia -order -ac [State.Wf, Out.Wf, State.putSample_wf]

/-! ## Service -/

theorem execPowerOn_wf (fabricTime : W64) (s : State) (h0 : s.Wf) : Out.Wf (execPowerOn fabricTime s) := by
  unfold execPowerOn
  split
  · exact ⟨rfl, rfl⟩
  · exact h0

theorem execPerst_wf (s : State) (h0 : s.Wf) : Out.Wf (execPerst s) := by
  unfold execPerst
  grind -linarith -ring -lia -order -ac [State.Wf, Out.Wf, State.moduleReset_wf]

theorem execModuleReset_wf (s : State) (h0 : s.Wf) : Out.Wf (execModuleReset s) := by
  unfold execModuleReset
  grind -linarith -ring -lia -order -ac [State.Wf, Out.Wf, State.moduleReset_wf]

theorem execUndervoltagePowerOff_wf (s : State) (h0 : s.Wf) : Out.Wf (execUndervoltagePowerOff s) := by
  unfold execUndervoltagePowerOff
  exact h0

theorem execThermalTrip_wf (s : State) (h0 : s.Wf) : Out.Wf (execThermalTrip s) := by
  unfold execThermalTrip
  grind -linarith -ring -lia -order -ac [State.Wf, Out.Wf, OptWf, ExcWf, Pass.Wf, Fetched.Wf, RecFetch.Wf, StepWf, State.freezeFor_wf]

theorem execObsfrzN_wf (s : State) (h0 : s.Wf) : Out.Wf (execObsfrzN s) := by
  unfold execObsfrzN
  grind -linarith -ring -lia -order -ac [State.Wf, Out.Wf, State.freezeFor_wf]

theorem execFreeze_wf (s : State) (h0 : s.Wf) : Out.Wf (execFreeze s) := by
  unfold execFreeze
  grind -linarith -ring -lia -order -ac [State.Wf, Out.Wf, State.freezeFor_wf]

theorem execFreezeReadout_wf (s : State) (h0 : s.Wf) : Out.Wf (execFreezeReadout s) := by
  unfold execFreezeReadout
  grind -linarith -ring -lia -order -ac [State.Wf, Out.Wf, State.reply_wf]

theorem execThermalThrottle_wf (die : BitVec 3) (s : State) (h0 : s.Wf) : Out.Wf (execThermalThrottle die s) := by
  unfold execThermalThrottle
  exact h0

theorem execPowerCapThrottle_wf (s : State) (h0 : s.Wf) : Out.Wf (execPowerCapThrottle s) := by
  unfold execPowerCapThrottle
  exact h0

theorem execPowerCapSet_wf (watts : BitVec 16) (s : State) (h0 : s.Wf) : Out.Wf (execPowerCapSet watts s) := by
  unfold execPowerCapSet
  grind -linarith -ring -lia -order -ac [State.Wf, Out.Wf]

theorem execSensorRead_wf (_sensor : BitVec 8) (s : State) (h0 : s.Wf) : Out.Wf (execSensorRead _sensor s) := by
  unfold execSensorRead
  exact h0

theorem execFirmwareUpdate_wf (image : W64) (signed : Bool) (s : State) (h0 : s.Wf) : Out.Wf (execFirmwareUpdate image
    signed s) := by
  unfold execFirmwareUpdate
  exact h0

theorem execFirmwareActivation_wf (s : State) (h0 : s.Wf) : Out.Wf (execFirmwareActivation s) := by
  unfold execFirmwareActivation
  grind -linarith -ring -lia -order -ac [State.Wf, Out.Wf]

theorem execDeviceNumberSet_wf (n : BitVec 12) (s : State) (h0 : s.Wf) : Out.Wf (execDeviceNumberSet n s) := by
  unfold execDeviceNumberSet
  exact h0

theorem execSpdmRequest_wf (measurements : Bool) (s : State) (h0 : s.Wf) : Out.Wf (execSpdmRequest measurements s) :=
    by
  unfold execSpdmRequest
  exact h0

theorem execKeyInstall_wf (vf : BitVec 7) (index : BitVec 13) (key : BitVec 512) (session : Bool) (s : State) (h0 :
    s.Wf) : Out.Wf (execKeyInstall vf index key session s) := by
  unfold execKeyInstall
  grind -linarith -ring -lia -order -ac [State.Wf, Out.Wf, State.reply_wf, State.updCtx_wf]

theorem execHbmRowRemap_wf (stack : BitVec 4) (row : BitVec 32) (spare : BitVec 32) (s : State) (h0 : s.Wf) : Out.Wf
    (execHbmRowRemap stack row spare s) := by
  unfold execHbmRowRemap
  exact h0

theorem execChannelRetrain_wf (hbm : Bool) (channel : BitVec 16) (retire : Bool) (s : State) (h0 : s.Wf) : Out.Wf
    (execChannelRetrain hbm channel retire s) := by
  unfold execChannelRetrain
  grind -linarith -ring -lia -order -ac [State.Wf, Out.Wf, OptWf, ExcWf, Pass.Wf, Fetched.Wf, RecFetch.Wf, StepWf, State.evacuate_wf]

theorem execFabricLaneRetrain_wf (port : BitVec 4) (lane : BitVec 3) (retrained : Bool) (s : State) (h0 : s.Wf) :
    Out.Wf (execFabricLaneRetrain port lane retrained s) := by
  unfold execFabricLaneRetrain
  grind -linarith -ring -lia -order -ac [State.Wf, Out.Wf, OptWf, ExcWf, Pass.Wf, Fetched.Wf, RecFetch.Wf, StepWf]

end Sys2Proof.Machine
end

