-- ==== Sys2Proof/Tests/Slice0.lean ====
section
/-!
SUPPORT. Sys2Proof/Tests/Slice0.lean: words and steps worked out from the spec by hand, and states that meet the hypotheses of
the claims.
-/

-- one theorem after another: in parallel they take more memory than the package may
set_option Elab.async false

open Sys2Proof Sys2Proof.Machine

namespace Sys2Proof.Tests

/-! ## Helpers -/

/-- One group of 16 lanes with every register declared, resident and active, at address 0x1_0000. -/
def base : State := State.reset.startGroup

/-- The base state with a MODE. -/
def moded (m : W64) : State := base.updSp fun x => { x with mode := m }

/-- The base state under an element type. -/
def typed (t : Nat) : State := moded (BitVec.ofNat 64 (64 * t))

/-- Scalar registers written. -/
def withS (s : State) (l : List (BitVec 6 × W64)) : State := l.foldl (fun s x => s.writeS x.1 x.2) s

/-- Lane 0 of vector registers written. -/
def withV (s : State) (l : List (Nat × W32)) : State := { s with grp := l.foldl (fun g x => g.setV x.1 0 x.2) s.grp }

/-- Lane 0 of moment registers written. -/
def withM (s : State) (l : List (Nat × W64)) : State := { s with grp := l.foldl (fun g x => g.setM x.1 0 x.2) s.grp }

/-- What the next state of an outcome gives. -/
def after {α : Type} [Inhabited α] (o : Out) (f : State → α) : α := match o with | .next t => f t | _ => default

/-- A scalar register after an instruction. -/
def sAfter (i : Instr) (s : State) (r : BitVec 6) : W64 := after (exec i s) fun t => t.readS r

/-- Lane 0 of a vector register after an instruction. -/
def vAfter (i : Instr) (s : State) (r : Nat) : W32 := after (exec i s) fun t => t.grp.vreg r 0

/-- The PC of the executing split after an instruction. -/
def pcAfter (i : Instr) (s : State) : W64 := after (exec i s) fun t => t.sp.pc

/-! ## Decoding: words written out from the strips of the spec (04 R56 to R61 and the encodings of each chapter) -/
theorem test_decode_vadd : decode 0x50080010 = some (.add 2 0 1 0 0) := by decide
theorem test_decode_brmAny : decode 0x06380003 = some (.brmAny 7 0 3) := by decide
theorem test_decode_ld : decode 0xA00C0200 = some (.ld 3 2 0 0) := by decide
theorem test_decode_tmm : decode 0xDC181416 = some (.tmm 12 10 11) := by decide
theorem test_decode_cpA : decode 0xB8200408 = some (.cpA 8 1 2 0) := by decide
theorem test_decode_exit : decode 0x02000000 = some .exit := by decide
theorem test_decode_sadd : decode 0x20382100 = some (.sadd 7 1 2 0 0) := by decide
theorem test_decode_vcmpLt : decode 0x381C1852 = some (.vcmpLt 7 3 5 0 0) := by decide
theorem test_decode_brnz : decode 0x0E3BFFFA = some (.brnz 7 0 (-6)) := by decide
theorem test_decode_cvt : decode 0x880C1000 = some (.cvt 3 2 0 0) := by decide
theorem test_decode_permS : decode 0x98141091 = some (.permS 5 2 9 0 0) := by decide
theorem test_decode_reduAdd : decode 0x9A280880 = some (.reduAdd 10 1 8 0 0) := by decide
theorem test_decode_stS : decode 0xA62C0618 = some (.stS 11 6 12 0) := by decide
theorem test_decode_waitc : decode 0xBE000300 = some (.waitc 0 3 0) := by decide
theorem test_decode_recSet : decode 0xD6488400 = some (.recSet 9 4 0x20) := by decide
theorem test_decode_tld : decode 0xD8142800 = some (.tld 10 20 0) := by decide
theorem test_decode_ttrsmL : decode 0xE8161412 = some (.ttrsmL 11 10 9) := by decide
theorem test_decode_tv : decode 0xEE0A1806 = some (.tv 5 12 3) := by decide
theorem test_decode_tsal : decode 0xECA84000 = some (.tsal 21 2) := by decide
theorem test_decode_tinfo : decode 0xEC200C0D = some (.tinfo 4 13) := by decide
theorem test_decode_launch : decode 0xF8488000 = some (.launch 9 4) := by decide
theorem test_decode_qpush : decode 0xF851852C = some (.qpush 10 12 300) := by decide
theorem test_decode_qpop : decode 0xF940092C = some (.qpop 40 300) := by decide
theorem test_decode_done : decode 0xF800112D = some (.done 301) := by decide
theorem test_decode_trap : decode 0xFA000005 = some (.trap 5) := by decide
theorem test_decode_rte : decode 0xFA000400 = some .rte := by decide
theorem test_decode_rqRd : decode 0xFA412C00 = some (.rqRd 8 9) := by decide
theorem test_decode_elog : decode 0xFAA01800 = some (.elog 20) := by decide
theorem test_decode_wpSet : decode 0xFC03E000 = some (.wpSet 0 31 0) := by decide
theorem test_decode_dbgRd : decode 0xFCA10C05 = some (.dbgRd 20 8 5) := by decide
theorem test_decode_dbgWrF : decode 0xFCB11103 = some (.dbgWrF 22 8 0x103) := by decide
theorem test_decode_trMark : decode 0xFC001407 = some (.trMark 0 7) := by decide
theorem test_decode_madd : decode 0xF0100820 = some (.madd 4 1 2 0 0) := by decide
theorem test_decode_mscl : decode 0xF20C1890 = some (.mscl 3 3 9 0 0) := by decide
theorem test_decode_mset : decode 0xF4043000 = some (.mset 1 6 0) := by decide
theorem test_decode_mst : decode 0xF609050E = some (.mst 2 5 7 0) := by decide
theorem test_decode_tmmM : decode 0xEA505255 = some (.tmmM 40 41 42) := by decide
theorem test_decode_bankMx : decode 0xCE280206 = some (.bankMx 10 2 3 0) := by decide
theorem test_decode_barSync : decode 0xC200A010 = some (.barSync 5 1 0) := by decide
theorem test_decode_chunk : decode 0xCE3B0400 = some (.chunk 14 4 0 0) := by decide
theorem test_decode_sliHi : decode 0x261204C0 = some (.sliHi 4 0x204C0) := by decide
theorem test_decode_tlu : decode 0xE63C1001 = some (.tlu 30 8) := by decide

/-- Words with an unassigned opcode, a reserved field that is set, or the permanently illegal opcode mean nothing. -/
theorem test_decode_illegal : decode 0x391C1852 = none ∧ decode 0x3A1C1853 = none ∧ decode 0x00000001 = none ∧
    decode 0xFE000000 = none := by decide

/-! ## Operand values that are not accepted, one for each check -/
theorem test_wf_rdsr : ¬(Instr.rdsr 1 19).WellFormed ∧ ¬(Instr.rdsr 1 0).WellFormed := by decide
theorem test_wf_wrsr : ¬(Instr.wrsr 1 13).WellFormed ∧ (Instr.wrsr 1 14).WellFormed := by decide
theorem test_wf_cvt : ¬(Instr.cvt 1 2 0 18).WellFormed ∧ (Instr.cvt 1 2 0 17).WellFormed := by decide
theorem test_wf_waitc : ¬(Instr.waitc 1 1 0).WellFormed ∧ (Instr.waitc 0 3 0).WellFormed := by decide
theorem test_wf_cnt : ¬(Instr.cnt 1 2 3).WellFormed := by decide
theorem test_wf_fence : ¬(Instr.fence 6).WellFormed ∧ (Instr.fence 5).WellFormed := by decide
theorem test_wf_pf : ¬(Instr.pf 1 2 3 4).WellFormed := by decide
theorem test_wf_cpB : ¬(Instr.cpB 1 2 3 0).WellFormed ∧ (Instr.cpB 4 2 3 0).WellFormed := by decide
theorem test_wf_recSet : ¬(Instr.recSet 1 2 3).WellFormed ∧ ¬(Instr.recSet 1 2 35).WellFormed := by decide
theorem test_wf_recGet : ¬(Instr.recGet 1 2 18).WellFormed ∧ (Instr.recGet 1 2 17).WellFormed := by decide
theorem test_wf_dbgHalt : ¬(Instr.dbgHalt 1 2 3).WellFormed := by decide
theorem test_wf_dbgGo : ¬(Instr.dbgGo 1 2 3).WellFormed := by decide
theorem test_wf_dbgRd : ¬(Instr.dbgRd 1 2 0x187).WellFormed ∧ (Instr.dbgRd 1 2 0x186).WellFormed := by decide
theorem test_wf_dbgWr : ¬(Instr.dbgWr 1 2 0x1FF).WellFormed := by decide
theorem test_wf_dbgWrF : ¬(Instr.dbgWrF 1 2 0x187).WellFormed := by decide

/-! ## Steps worked out by hand from the rules -/
theorem test_sadd : sAfter (.sadd 3 1 2 0 0) (withS base [(1, 5), (2, 0xFFFFFFFFFFFFFFFF)]) 3 = 4 := by decide
theorem test_ssub_same : sAfter (.ssub 1 1 1 0 0) (withS base [(1, 5)]) 1 = 0 := by decide
theorem test_smulh : sAfter (.smulh 3 1 2 0 0) (withS base [(1, 0xFFFFFFFFFFFFFFFF), (2, 2)]) 3 = 0xFFFFFFFFFFFFFFFF := by decide
theorem test_sshl_count : sAfter (.sshl 3 1 2 0 0) (withS base [(1, 3), (2, 65)]) 3 = 6 := by decide
theorem test_ssra : sAfter (.ssra 3 1 2 0 0) (withS base [(1, 0x8000000000000000), (2, 63)]) 3 = 0xFFFFFFFFFFFFFFFF := by decide
theorem test_smin_signed : sAfter (.smin 3 1 2 0 0) (withS base [(1, 0xFFFFFFFFFFFFFFFF), (2, 1)]) 3 = 0xFFFFFFFFFFFFFFFF := by decide
theorem test_sclz : sAfter (.sclz 3 1 0) (withS base [(1, 1)]) 3 = 63 ∧ sAfter (.sclz 3 2 0) base 3 = 64 := by decide
theorem test_sffs : sAfter (.sffs 3 1 0) (withS base [(1, 0x80)]) 3 = 7 ∧ sAfter (.sffs 3 2 0) base 3 = 64 := by decide
theorem test_s0_discards : sAfter (.sadd 0 1 2 0 0) (withS base [(1, 5)]) 0 = 0 ∧ pcAfter (.sadd 0 1 2 0 0) base = 0x10004 := by decide
theorem test_saddi : sAfter (.saddi 3 1 0x1FFF) (withS base [(1, 5)]) 3 = 4 := by decide
theorem test_sliHi : sAfter (.sliHi 4 3) (withS base [(4, 1)]) 4 = 0x40003 := by decide
theorem test_mnot_width : sAfter (.mnot 3 1 0) base 3 = 0xFFFF := by decide
theorem test_mlive : sAfter (.mlive 3) base 3 = 0xFFFF := by decide
theorem test_mexpand : vAfter (.mexpand 3 1 0) (withS base [(1, 1)]) 3 = 0xFFFFFFFF := by decide
theorem test_bra_back : pcAfter (.bra 0x3FFFF) base = 0xFFFC := by decide
theorem test_brz : pcAfter (.brz 1 0 4) base = 0x10010 ∧ pcAfter (.brz 1 0 4) (withS base [(1, 1)]) = 0x10004 := by decide
theorem test_brm_any_divides :
    after (exec (.brmAny 1 0 4) (withS base [(1, 0xF)])) (fun t => (t.sp.mask, t.sp.pc, t.grp.splits.e1.mask, t.grp.splits.e1.pc)) =
      (0xFFF0, 0x10004, 0xF, 0x10010) := by decide
theorem test_call_link : sAfter (.call 5 16) base 5 = 0x10004 ∧ pcAfter (.call 5 16) base = 0x10040 := by decide
theorem test_ret_align : after (exec (.ret 1) (withS base [(1, 2)])) (fun t => t.grp.killed) = true := by decide
theorem test_exit_guard :
    after (exec .exit (withS (moded 1) [(1, 0x00FF)])) (fun t => (t.grp.live, t.sp.mask, t.sp.pc)) = (0xFF00, 0xFF00, 0x10004) := by decide
theorem test_join_passes : pcAfter (.join 1) (withS base [(1, 0xFFFFFFFFFFFFFFFF)]) = 0x10004 := by decide
theorem test_setm_reserved : after (exec (.setm 1) (withS base [(1, 21 * 64)])) (fun t => (t.grp.killed, t.sp.mode)) = (true, 0) := by decide
theorem test_rdsr_width : sAfter (.rdsr 3 7) base 3 = 16 := by decide
theorem test_wrsr_aef : after (exec (.wrsr 1 15) (withS base [(1, 0xFFFF)])) (fun t => t.grp.aef) = 0x3F := by decide
theorem test_add_i32_wraps : vAfter (.add 3 1 2 0 0) (withV base [(1, 0xFFFFFFFF), (2, 2)]) 3 = 1 := by decide
theorem test_add_sat_n8 : vAfter (.addI 3 1 0 0x3FF) (moded (7 * 64 + 2 ^ 14)) 3 = 0 := by decide
theorem test_add_f32 : vAfter (.add 3 1 2 0 0) (withV (typed 8) [(1, 0x3F800000), (2, 0x40000000)]) 3 = 0x40400000 := by decide
theorem test_mul_f32_invalid :
    after (exec (.mul 3 1 2 0 0) (withV (typed 8) [(1, 0x7F800000), (2, 0)])) (fun t => (t.grp.vreg 3 0, t.grp.aef.getLsbD 0)) =
      (0x7FC00000, true) := by decide
theorem test_div_i32_zero :
    after (exec (.div 3 1 2 0 0) (withV base [(1, 7)])) (fun t => t.grp.vreg 3 0) = 0xFFFFFFFF := by decide
theorem test_rem_sign : vAfter (.rem 3 1 2 0 0) (withV base [(1, 0xFFFFFFF9), (2, 2)]) 3 = 0xFFFFFFFF := by decide
theorem test_fma_once :
    -- 1 + 2^-12 squared less 1 + 2^-11 leaves 2^-24, which two roundings would lose
    vAfter (.fms 3 1 2 0 0) (withV (typed 8) [(1, 0x3F800800), (2, 0x3F800800), (3, 0x3F801000)]) 3 = 0x33800000 := by decide
theorem test_vcmp_nan :
    sAfter (.vcmpUn 3 1 2 0 0) (withV (typed 8) [(1, 0x7FC00000)]) 3 = 1 ∧
    sAfter (.vcmpLt 3 1 2 0 0) (withV (typed 8) [(1, 0x7FC00000)]) 3 = 0 := by decide
theorem test_sel_lanes : vAfter (.sel 3 1 1 0 0) (withS (withV base [(1, 9), (3, 5)]) [(1, 0xFFFE)]) 3 = 5 := by decide
theorem test_li : vAfter (.li 3 0x3FFFF) base 3 = 0xFFFFFFFF := by decide
theorem test_cvt_f32_i32 : vAfter (.cvt 3 1 0 8) (withV base [(1, 0x40200000)]) 3 = 2 := by decide
theorem test_cvt_i32_f32 : vAfter (.cvt 3 1 0 0) (withV (typed 8) [(1, 0xFFFFFFFF)]) 3 = 0xBF800000 := by decide
theorem test_pk8 : vAfter (.pk8 4 8 0) (withV base [(8, 0x101), (9, 2), (10, 3), (11, 4)]) 4 = 0x04030201 := by decide
theorem test_rcp : vAfter (.rcp 3 1 0) (withV (typed 8) [(1, 0x40000000)]) 3 = 0x3F000000 := by decide
theorem test_sqrt : vAfter (.sqrt 3 1 0) (withV (typed 8) [(1, 0x40800000)]) 3 = 0x40000000 := by decide +kernel
theorem test_exp2 : vAfter (.exp2 3 1 0) (withV (typed 8) [(1, 0x40400000)]) 3 = 0x41000000 := by decide +kernel
theorem test_redu_add : sAfter (.reduAdd 3 1 2 0 0) (withS (withV (typed 1) [(1, 7)]) [(2, 0xFFFF)]) 3 = 7 := by decide
theorem test_bcast : vAfter (.bcast 3 1 2 0 0) (withS (withV (typed 1) [(1, 7)]) [(2, 0xFFFF)]) 3 = 7 := by decide
theorem test_madd : after (exec (.madd 4 1 2 0 0) (withM (typed 19) [(1, 0x400000003F800000), (2, 0x4040000040000000)]))
    (fun t => t.grp.mreg 4 0) = 0x40A0000040400000 := by decide
theorem test_mset : after (exec (.mset 1 6 0) (withV (typed 19) [(6, 5), (7, 9)])) (fun t => t.grp.mreg 1 0) = 0x0000000900000005 := by decide
theorem test_fe_set : after (exec (.feSet 1 1) (withS base [(1, 0x25)])) (fun t => (t.gang.full 1, t.gang.full 2, t.gang.full 3, t.gang.full 4)) =
    (false, true, true, false) := by decide
theorem test_fe_rd : after (exec (.feRd 3 1) { base with gang := { base.gang with granules := [(2, 1)] } }) (fun t => t.readS 3) = 4 := by decide
theorem test_bar_init_value : after (exec (.barInit 1 2 0 0) base) (fun t => t.grp.killed) = true := by decide
theorem test_tsal : after (exec (.tsalNw 3 1) (withS base [(1, 64)])) (fun t => (t.readS 3, t.gang.pool)) = (1, 64) := by decide
theorem test_tinfo_kind : after (exec (.tinfo 3 0) base) (fun t => t.grp.killed) = true := by decide
theorem test_trap_frame :
    after (exec (.trap 5) { base with gang := { base.gang with tvec := 0x20000 } })
      (fun t => (t.grp.frame.cause, t.grp.frame.pc, t.sp.pc, t.grp.frame.splits.e0.pc)) = (0x1E5, 0x10000, 0x20000, 0x10004) := by decide
theorem test_rte_outside : after (exec .rte base) (fun t => t.grp.killed) = true := by decide
theorem test_illegal_kills :
    after (exec (.illegalWord false) base) (fun t => (t.grp.live, field (t.ctx 1).ctxErr 53 9, (t.ctx 1).ctxErr.getLsbD 63)) =
      (0, 1, true) := by decide
theorem test_reg_range : after (exec (.add 1 2 3 0 0) { base with gang := { base.gang with lrec := { base.gang.lrec with vregs := 0 } } })
    (fun t => t.grp.killed) = false ∧
    after (exec (.add 1 2 8 0 0) { base with gang := { base.gang with lrec := { base.gang.lrec with vregs := 0 } } })
    (fun t => t.grp.killed) = true := by decide
theorem test_wp_st : sAfter (.wpSt 3 0) base 3 = 0 := by decide
theorem test_dbg_cap : after (exec (.dbgHalt 3 4 0) base) (fun t => t.grp.killed) = true := by decide
theorem test_fetch_runs :
    (match step (State.reset.withFetchWord 32 0x20382100) with | .next t => t.sp.pc | _ => 0) = 0x10004 := by decide +kernel
theorem test_freeze : after (exec .freeze State.reset) (fun t => (match t.power with | .frozen c => c | _ => 0)) = 2 := by decide
theorem test_bytes_little_endian : (base.writePhys 0x100 (toBytes 4 0x11223344)).readPhys 0x100 2 = [0x44, 0x33] := by decide
theorem test_memory_canonical : (base.writePhys 0x100 [0, 5, 0]).mem = [(0x101, 5)] := by decide

/-! ## States that meet the hypotheses of the claims, one theorem for each claim -/

/-- The base state with a handler. -/
def handled : State := { base with gang := { base.gang with tvec := 0x20000 } }

/-- One whose save area is not mapped. -/
def arealess : State := handled.updCtx 1 fun c => { c with csBase := 0x100000 }

/-- Memory holding one page table entry of the root table, for addresses below 2^48. -/
def rooted (e : BitVec 128) : State := base.writePhys 0 (toBytes 16 e.toNat)

/-- A page at 0x1_0000 mapped to a frame of tier 1, all accesses permitted, its key granted. -/
def mapped : State := (base.withFetchWord 32 0x20382100)

/-- No line has a key where none was written under one. -/
theorem keyFits_of_none (s : State) (key : Option (BitVec 13)) (a n : Nat) (h : s.lineKeys = []) : s.KeyFits key a n :=
  fun line _ _ _ => .inl (by simp [State.lineKey, h, SMap.get])

/-- An outcome is a next state: none of this model's faults exists, and no refusal is given. -/
def goes (o : Out) : Bool := match o with | .next _ => true | _ => false

theorem goes_next {o : Out} (h : goes o = true) : ∃ t, o = .next t := by
  cases o <;> simp_all [goes]

/-- Whether the next move issues a split, which may issue, has no trap due, and fetches a word of which something holds. -/
def issues (s : State) (g : GroupRef) (k : BitVec 2) (p : W32 → State → Bool) : Bool :=
  match s.nextMove with
  | (.issue g' k', s1) =>
    g' == g && k' == k && match s1.focus g with
      | some t => ({ t with k := k }).canIssue && t.grp.due.isEmpty &&
          match ({ t with k := k }).fetch with | .word w u => p w u | .stop _ => false
      | none => false
  | _ => false

theorem issues_spec {s : State} {g : GroupRef} {k : BitVec 2} {p : W32 → State → Bool} (h : issues s g k p = true) :
    ∃ s1 t u w, s.nextMove = (.issue g k, s1) ∧ s1.focus g = some t ∧ ({ t with k := k }).canIssue = true ∧ t.grp.due = [] ∧
      ({ t with k := k }).fetch = .word w u ∧ p w u = true := by
  unfold issues at h
  split at h
  next s1 hm =>
    simp only [Bool.and_eq_true, beq_iff_eq] at h
    obtain ⟨⟨rfl, rfl⟩, h⟩ := h
    split at h
    next t hf =>
      simp only [Bool.and_eq_true, List.isEmpty_iff] at h
      obtain ⟨⟨h1, h2⟩, h3⟩ := h
      split at h3
      next w u hw => exact ⟨s1, t, u, w, hm, hf, h1, h2, hw, h3⟩
      next => exact absurd h3 (by simp)
    next => exact absurd h (by simp)
  next => exact absurd h (by simp)

/-- A walk that meets no table ends at once. -/
theorem walk_unmapped (va : W64) (l : Nat) (t : BitVec 52) : walk [] [] va l t = .invalid := by
  have hr : ∀ a, BitVec.ofNat 128 (ofBytes (SMap.getRange ([] : List Host.Cell) a 16)) = 0 := by
    intro a
    have : SMap.getRange ([] : List Host.Cell) a 16 = List.replicate 16 0 := by
      simp [SMap.getRange, SMap.get, List.range_succ, List.replicate]
    rw [this]; decide
  unfold walk
  simp only [hr]
  rfl

/-- Where nothing is mapped no page of the save area can be written. -/
theorem pageCause_unmapped (s : State) (vf : BitVec 7) (va : W64) (hm : s.mem = []) (hu : s.uncorrectable = []) :
    s.pageCause vf va = cADDR_RANGE ∨ s.pageCause vf va = cPAGE_INVALID := by
  have hw : s.walkVa vf none va = .invalid := by unfold State.walkVa; rw [hm, hu]; exact walk_unmapped ..
  unfold State.pageCause State.translate
  split
  · next h => split at h <;> simp_all [State.tlbFind]
  · next h => split at h <;> simp_all [State.tlbFind]
  · exact .inr rfl

theorem saveFault_unmapped (s : State) (p : Piece) (hm : s.mem = []) (hu : s.uncorrectable = [])
    (hc : (s.ctx s.gang.vf).csBase ≠ 0) : s.saveFault p ≠ 0 := by
  have h1 : ∀ vf va n, s.pagesCause vf va (n + 1) ≠ 0 := by
    intro vf va n
    have h : s.pageCause vf va ≠ 0 := by
      rcases pageCause_unmapped s vf va hm hu with h | h <;> rw [h] <;> decide
    unfold State.pagesCause
    rw [if_neg h]; exact h
  unfold State.saveFault
  simp only [hc, if_false]
  exact h1 _ _ _

/-- A context without a save area has nothing to write there. -/
theorem saveFault_none (s : State) (hc : (s.ctx s.gang.vf).csBase = 0) (p : Piece) : s.saveFault p = 0 := by
  simp [State.saveFault, hc]

/-- An operation in flight or queued, all of its fields at their least. -/
def entry (op : MemOp) : Entry :=
  { (default : Entry) with op := op, mask := 0xFFFF, active := 0xFFFF, split := 1 }

/-- The base state with one operation in flight. -/
def flying (e : Entry) : State := { base with grp := { base.grp with flight := [e] } }

/-- The base state inside a handler. -/
def inHandler : State := { base with grp := { base.grp with frame := { Frame.none with active := true, cause := 0x040 } } }

/-- A buffer record of a space, format and BOUNDS, writable, of 4096 bytes at a base. -/
def buf (space fmt bounds base_ : Nat) : W256 :=
  BitVec.ofNat 256 (1 + base_ * 2 ^ 32 + 4096 * 2 ^ 96 + fmt * 2 ^ 208 + bounds * 2 ^ 216 + space * 2 ^ 220)

/-- The base state with record 2 of the local window. -/
def record2 (r : W256) : State := { base with gang := { base.gang with window := [(2, r)] } }

/-- An access of lane 0 to n bytes of gang memory. -/
def acc0 (n : Nat) : Acc := { lane := 0, place := .gmem, addr := 0x100, n := n, pa := 0, via := {} }

/-- An operation on gang memory alone may be performed where its order lets it. -/
theorem performable_gmem (s : State) (id : Nat) (e : Entry)
    (h : s.gang.present = true ∧ s.captured s.gang.vf = false ∧ s.grp.entry id = some e ∧ e.err = 0 ∧ e.held = none ∧ e.done = 0 ∧
      e.cancelled = [] ∧ e.shut = (0, 0) ∧ e.watch = [] ∧ e.fired = [] ∧ s.grp.logs = [] ∧ s.grp.flushes = [] ∧ s.gang.badGmem = [] ∧
      (∀ a ∈ e.accs, s.mayPerform e a = true ∧ a.lane < 64 ∧ a.place = .gmem) ∧ (e.accs.map (·.lane)).Nodup) :
    s.Performable id e := by
  obtain ⟨h1, h2, h3, h4, h5, h6, h7, h14, h8, h9, h10, h11, hb, h12, h13⟩ := h
  refine ⟨h1, h2, h3, h4, h5, h6, h7, h14, h8, h9, h10, h11, fun a ha => ?_, h13⟩
  obtain ⟨p, q, r⟩ := h12 a ha
  exact ⟨p, by simp [State.Serves, r, hb], q⟩

/-- A barrier object for one arrival at 0x100 of gang memory. -/
def barred (more : List (Nat × BitVec 8)) : State :=
  { (withS base [(1, 0x100), (2, 1)]) with gang := { base.gang with gmem := (0x108, 1) :: more } }

/-- A copy of 32 bytes of gang memory from 0x100 to 0x200, within its first 4096 bytes. -/
def copying : Entry :=
  { entry .cpB with snaps := [buf 1 6 0 0, buf 1 6 0 0], scal := [0x100, 0x200, 32, BitVec.allOnes 64], recs := [2, 3] }

/-- An empty f32 tile of 64 by 64 elements. -/
def tile64 : W256 := 2#256 ||| (8#256 <<< 32) ||| (1#256 <<< 47) ||| (64#256 <<< 78) ||| (64#256 <<< 85)

/-- A zero of record 2 in flight, the pool holding n segments. -/
def zeroing (n : BitVec 13) (mode : W64) : Entry × State :=
  let e := { entry (.tile .tz) with recs := [2], snaps := [tile64], scal := [0], mode := mode }
  let s := { (flying e) with gang := { base.gang with window := [(2, tile64)], pool := n } }
  (e, s)

/-- A copy of a tile of one element in flight, with no segment in the pool. -/
def copyingTile (mode : W64) : Entry × State :=
  let r : W256 := 2#256 ||| (8#256 <<< 32) ||| (1#256 <<< 47) ||| (1#256 <<< 78) ||| (1#256 <<< 85)
  let e := { entry (.tile .tcp) with recs := [2, 3], snaps := [r, r ||| (1#256 <<< 40)], mode := mode }
  (e, { (flying e) with gang := { base.gang with window := [(2, r), (3, r ||| (1#256 <<< 40))], tiles := [(3, .dense [(0, 1)] [])] } })

/-- A queue of 16 records of 16 bytes at 0x1_0000, its control block at bank address 0. -/
def queueRec (node : Bool) : W256 :=
  3#256 ||| (if node then 0x100 else 0) ||| (0x10000#256 <<< 32) ||| (4#256 <<< 107) ||| (4#256 <<< 117)

/-- A mapped page at 0x1_0000, the control block's region held, the queue in record 2, and its indexes. -/
def queued (more : List Host.Cell) : State :=
  let s := mapped.updCtx 1 fun c => { c with regions := [(0, 64)] }
  { s with gang := { s.gang with window := [(2, queueRec false)] }, bank := more }

/-- A launch of one gang. -/
def oneGang (seq : W64) : Launch :=
  { seq := seq, id := 0, lrec := { LaunchRec.blank with gangs := 1, lfmt := 1, code := 0x10000 }, params := [], window := [], accepted := 0,
    admitted := 0, retired := 0, killed := false, status := 0, successors := [], node := none }

/-- Addresses below 2^30 mapped to themselves by tables at 0, 512 and 1024, and more bytes of memory. -/
def tabled (more : List Host.Cell) : State :=
  let s := base.updCtx 1 fun c => { c with keys := [0] }
  { s with mem := [(0, 1), (1, 2), (512, 1), (513, 4), (1024, 3), (1032, 0xF0), (1033, 1)] ++ more }

/-- Bytes that are not zero of a record at an address. -/
def cells (a : Nat) (b : List Byte) : List Host.Cell :=
  ((List.range b.length).zip b).filterMap fun p => if p.2 = 0 then none else some (a + p.1, p.2)

/-- A node's queue record in entry 256, the shared window at 0x8000, a copy of it in the core's record cache. -/
def noded : State :=
  { ((tabled (cells 0x8000 (toBytes 32 (queueRec true).toNat))).updCtx 1 fun c =>
      { c with rtBase := 0x8000, regions := [(0, 64)], launches := [oneGang 1] }) with
    recCache := [{ die := 0, core := 0, vf := 1, n := 256, r := queueRec true }] }

/-- A valid launch record of one gang at 0x8000 of the launch queue's memory, one launch waiting. -/
def waiting : State :=
  (tabled (cells 0x8000 (toBytes 128 (1 + 2 ^ 64 + 0x10000 * 2 ^ 128)))).updCtx 1 fun c => { c with lqBase := 0x8000, lqTail := 1, csBase := 0x100000 }

/-- The node of entry 256 with one record waiting, its threshold 2, and its flush timer. -/
def due (timer : Nat) (dep : List Host.Cell) : State :=
  let r := queueRec true ^^^ (6#256 <<< 117) ||| (BitVec.ofNat 256 timer <<< 129)
  { ((tabled (cells 0x8000 (toBytes 32 r.toNat))).updCtx 1 fun c =>
      { c with rtBase := 0x8000, regions := [(0, 64)], triggers := [256] }) with bank := (8, 1) :: dep, time := 1000 }

/-- A module with one launch to admit, and none resident. -/
def toAdmit (l : Launch) : State := State.reset.updCtx 1 fun c => { c with launches := [l] }

/-- An evicted gang whose wake condition is always met. -/
def away (woken : Bool) : Evicted :=
  { image := { gang := base.gang, groups := [{ base.grp with inActive := false }] }, woken := woken, order := 0, since := 0, always := true }

/-- A blocked gang of priority 0, a launch of priority 1 that fits nowhere, and a mapped save area. -/
def blocked : State :=
  let l := { oneGang 2 with lrec := { (oneGang 2).lrec with gmem := 0xFFFF0, prio := 1 } }
  let s := ((tabled []).updSp fun x => { x with st := .inTsal 2 5 0 }).updCtx 1 fun c => { c with launches := [l], csBase := 0x100000 }
  { s with gang := { s.gang with blockedSince := some 0 }, time := 20000 }

/-- A watch record that fires at its first match of a load value equal to 5. -/
def watchFive (act : Nat) : W256 :=
  BitVec.ofNat 256 (4 + act * 2 ^ 37 + 2 * 2 ^ 44 + 2 ^ 48 + (2 ^ 64 - 1) * 2 ^ 64 + 5 * 2 ^ 128)

/-- The capability for its own context, lane 0 in a split of its own that is held or not: the target of a zero pair. -/
def agent (held : Bool) : State :=
  let s := base.updCtx 1 fun c => { c with dbgMask := 1 }
  let x : Split := { Split.free with pc := 0x20000, mask := 1, held := held }
  { s with grp := { s.grp with splits := { s.grp.splits with e0 := { s.sp with mask := 0xFFFE }, e1 := x } } }

/-- Marks traced, into an empty sink of a size. -/
def traced (size : W64) : State :=
  { base with grp := { base.grp with tracectl := 9 }, sinks := base.sinks.set 0 { base := 0x1000, size := size, tail := 0, head := 0 } }

/-- A fault record of context 1 on the page at 0x2_0000. -/
def faultOf (kind : BitVec 2) : FaultRec := { (default : FaultRec) with vf := 1, va := 0x20000, kind := kind }

/-- A page of 64 KiB at 0x2_0000 that migrates on touch, by tables at 0, 512, 1024, 1536 and 2048. -/
def touched : State :=
  { base with
    faults := [faultOf 1]
    mem := [(0, 1), (1, 2), (512, 1), (513, 4), (1024, 1), (1025, 6), (1536, 1), (1537, 8), (2080, 3), (2082, 6), (2088, 0xF0), (2089, 9)] }

/-- Export entry 0 lets every device read and write the first bytes of tier 1, or of bank memory. -/
def exported (bank : Bool) : State :=
  { (State.reset.updCtx 1 fun c => { c with regions := [(0, 256)] }) with exports := [(0, (0xFFF#128 <<< 116) ||| (1#128 <<< 113) ||| (if bank then 1#128 <<< 111 else 0))] }

/-- A push of two records to a queue at bank address 0, its slots at bank address 64. -/
def pushed : RemotePush := { ctl := 0, capLog := 2, slots := 64, recBytes := 16, records := [List.replicate 16 1, List.replicate 16 2] }

/-- A context with a mapped save area, in whose first bytes stand 3 and 1. -/
def saveable : State := (tabled [(0x100000, 3), (0x100001, 1)]).updCtx 1 fun c => { c with csBase := 0x100000 }

/-- The image of a context of the base gang, written as 3 and 1. -/
def kept : ContextImage :=
  { ctx := (base.ctx 1), gangs := [{ gang := base.gang, groups := [base.grp] }], evicted := [], bands := [], bank := [], at_ := 0
    area := [3, 1] }

/-- The queue's page mapped, or to be filled, or mapped nowhere, its control block held. -/
def pageless (fill : Bool) : State :=
  let s := (if fill then rooted 4 else base).updCtx 1 fun c => { c with regions := [(0, 64)] }
  { s with gang := { s.gang with window := [(2, queueRec false)] } }

theorem wit_EncodeThenDecode :
    (Instr.add 127 127 127 1 1).WellFormed ∧ (encode (.add 127 127 127 1 1)).isSome = true ∧
    (Instr.rdsr 63 18).WellFormed ∧ (encode (.rdsr 63 18)).isSome = true := by decide

theorem wit_DecodeThenEncode : decode 0x50080010 = some (.add 2 0 1 0 0) ∧ decode 0xFA000400 = some .rte := by decide

theorem wit_StepRunsDecodedInstruction :
    (mapped.power = .on ∧ ∃ s1 t u w, mapped.nextMove = (.issue mapped.self 0, s1) ∧ s1.focus mapped.self = some t ∧
      ({ t with k := 0 }).canIssue = true ∧ t.grp.due = [] ∧ ({ t with k := 0 }).fetch = .word w u ∧
      (decode w == some (.sadd 7 1 2 0 0) && goes (exec (.sadd 7 1 2 0 0) u)) = true) ∧
    (let s := State.reset.withFetchWord 32 1
     s.power = .on ∧ ∃ s1 t u w, s.nextMove = (.issue s.self 0, s1) ∧ s1.focus s.self = some t ∧
      ({ t with k := 0 }).canIssue = true ∧ t.grp.due = [] ∧ ({ t with k := 0 }).fetch = .word w u ∧ (decode w == none) = true) ∧
    (∃ s1 t, let s := { base with agenda := [.issue base.self 3] }
      s.power = .on ∧ s.nextMove = (.issue base.self 3, s1) ∧ s1.focus base.self = some t ∧ ({ t with k := 3 }).canIssue = false) :=
  ⟨⟨rfl, issues_spec (p := fun w u => decode w == some (.sadd 7 1 2 0 0) && goes (exec (.sadd 7 1 2 0 0) u)) (by decide +kernel)⟩,
    ⟨rfl, issues_spec (p := fun w _ => decode w == none) (by decide +kernel)⟩, ⟨_, _, rfl, rfl, rfl, by decide⟩⟩

theorem wit_FetchReadsFourBytes :
    (∃ pa m t, mapped.translate mapped.gang.vf mapped.coreId mapped.sp.pc .fetch = (.ok pa m, t) ∧
      t.uncorrectable.contains (lineOf pa) = false ∧ regionOf pa ≠ .fabric ∧ pa.toNat % 64 ≤ 60 ∧ t.KeyFits m.key pa.toNat 4) ∧
    (∃ pa m t, ({ mapped with uncorrectable := [0x4000] }).translate 1 base.coreId base.sp.pc .fetch = (.ok pa m, t) ∧
      t.uncorrectable.contains (lineOf pa) = true ∧ regionOf pa ≠ .fabric ∧ m.mirror = false) ∧
    (∃ t, base.translate base.gang.vf base.coreId base.sp.pc .fetch = (.trap cPAGE_INVALID, t)) ∧
    (∃ l mot t, (rooted 4).translate (rooted 4).gang.vf (rooted 4).coreId (rooted 4).sp.pc .fetch = (.replay l mot, t)) :=
  ⟨⟨_, _, _, rfl, by decide, by decide, by decide, keyFits_of_none _ _ _ _ rfl⟩, ⟨_, _, _, rfl, by decide, by decide, by decide⟩,
    ⟨_, rfl⟩, ⟨_, _, _, rfl⟩⟩

theorem wit_UnpoweredAndFrozen :
    (∃ s1, { State.reset with power := .off, agenda := [.event .perst] }.nextMove = (.event .perst, s1) ∧ actsAlways (.event .perst) = false) ∧
    (∃ s1, { State.reset with power := .off, agenda := [.event (.powerOn 5)] }.nextMove = (.event (.powerOn 5), s1)) ∧
    (∃ s1, { State.reset with power := .frozen 1, agenda := [.event .obsfrzN] }.nextMove = (.event .obsfrzN, s1) ∧
      actsFrozen (.event .obsfrzN) = false) ∧
    (∃ s1, { State.reset with power := .frozen 1, agenda := [.event (.sensorRead 0)] }.nextMove = (.event (.sensorRead 0), s1) ∧
      actsAlways (.event (.sensorRead 0)) = true) :=
  ⟨⟨_, rfl, by decide⟩, ⟨_, rfl⟩, ⟨_, rfl, by decide⟩, ⟨_, rfl, by decide⟩⟩

theorem wit_MemoryFormKept : mapped.memWf = true ∧ ∃ t, step mapped = .next t := ⟨by decide, goes_next (by decide +kernel)⟩

theorem wit_MemoryReads : Memory.wf [(3, 5), (7, 1)] = true ∧ ∀ a, SMap.get ([(3, 5), (7, 1)] : Memory) a = SMap.get [(3, 5), (7, 1)] a :=
  ⟨by decide, fun _ => rfl⟩

theorem wit_LeafUse :
    (∀ acc ∈ ([.read, .write, .fetch, .both] : List Access), (acc = .read ∨ acc = .both → pteR 0 = false) ∧
      (acc = .fetch → pteX 0 = false) ∧ (acc = .write → pteW 0 = false)) ∧
    pteW (0x10#128 <<< 64) = false ∧ pteR (0x10#128 <<< 64) = true ∧
    (let e := 0xF0#128 <<< 64
     pteR e = true ∧ pteW e = true ∧ pteX e = true ∧ pteKey e ∉ (base.ctx 1).keys ∧ pteKey e ∈ (mapped.ctx 1).keys ∧ pteMOT e = false ∧
     pteMOT (e ||| (0x800#128 <<< 64)) = true ∧ pteKey (e ||| (0x800#128 <<< 64)) ∈ (mapped.ctx 1).keys) ∧
    (mapped.ctx 1).dlOn = false ∧
    -- a leaf that lies in memory valid, one that is set in the copy, and one that is no more where it lay
    (let lies := BitVec.ofNat 128 (ofBytes (mapped.readPhys 0x80000 16))
     pteV lies = true ∧ pteLeaf lies = true ∧ pteA (0x70#128 <<< 64) = false ∧ pteD (0xF0#128 <<< 64) = false ∧ pteA (0x1F0#128 <<< 64) = true ∧
     pteD (0x1F0#128 <<< 64) = true ∧
     pteV (BitVec.ofNat 128 (ofBytes (base.readPhys 0x80000 16))) = false) := by
  refine ⟨by decide, by decide, by decide, by decide, by decide, by decide⟩

theorem wit_WalkOutcome :
    (2 ^ 57 ≤ (0x200000000000000 : W64).toNat) ∧ base.tables = [] ∧ base.tlbFind 1 base.coreId 0x10000 = none ∧
    base.walkVa 1 base.coreId 0x10000 = .invalid ∧ (rooted 3).walkVa 1 base.coreId 0x10000 = .error ∧
    (rooted 4).walkVa 1 base.coreId 0x10000 = .fill 4 ∧
    ({ rooted 1 with uncorrectable := [0] }).walkVa 1 base.coreId 0x10000 = .uncorrectable 0 ∧
    (∃ l e at_, (((base.writePhys 0 [1, 2]).writePhys 512 [1, 4]).writePhys 1024 [3]).walkVa 1 base.coreId 0x10000 = .leaf l e at_) := by
  refine ⟨by decide, rfl, by decide, by decide, by decide, by decide, by decide, ?_⟩
  exact ⟨_, _, _, rfl⟩

theorem wit_IssueOutcomes :
    (∀ s ∈ [typed 2, base, { base with grp := { base.grp with vEmpty := 2 } }],
      s.canIssue = true ∧ s.grp.due = [] ∧ (s.tracing && s.grp.syncDue) = false ∧ s.pcQuiet = true ∧ s.stepping = none ∧
      s.grp.isEmpty (.s (modeG s.mode)) = false) ∧
    (is64 (typed 2).ty = true ∧ (3 : BitVec 7).toNat % 2 = 1) ∧ base.gang.lrec.nv ≤ 128 ∧
    (let s := { base with grp := { base.grp with vEmpty := 2 } }
     s.grp.isEmpty (.v 1) = true ∧ s.grp.isEmpty (.v 2) = false ∧ is64 s.ty = false ∧ 2 < s.gang.lrec.nv) ∧
    -- of any needs: ill-formed; a register read early, or waited for; another condition that waits; all met
    (let s := { base with grp := { base.grp with vEmpty := 2 } }
     ({ ok := false } : Use).ok = false ∧ ({ reads := [(.v 1, true)] } : Use).ok = true ∧ (1 < s.gang.lrec.nv) ∧
     ({ ready := false } : Use).ready = false ∧ ({} : Use).ready = true ∧ s.uncached {} = none) := by decide

theorem wit_KilledGroup :
    base.grp.tracectl = 0 ∧ (base.contexts.any fun c => c.vf == base.gang.vf) = true ∧ (base.ctx 1).ctxErr.getLsbD 63 = false ∧
    base.gang.barriers = [] ∧ base.myBand = none ∧
    (let s := base.updCtx 1 fun c => { c with ctxErr := 1 <<< 63 }
     s.grp.tracectl = 0 ∧ (s.contexts.any fun c => c.vf == s.gang.vf) = true ∧ (s.ctx 1).ctxErr.getLsbD 63 = true) ∧
    -- another group of the gang, and one of another gang
    (let g : Group := { Group.blank with idx := 1, live := 1 }
     let s := { base with peers := [g], others := [{ gang := { base.gang with idx := 1 }, groups := [g] }] }
     s.grp.tracectl = 0 ∧ s.peers[0]? = some g ∧ (s.killGroup 1 0).peers[0]? = some g ∧
     (s.killGroup 1 0).others.map (·.groups) = [[g]]) ∧
    base.canIssue = true ∧ base.grp.due = [] ∧ (base.tracing && base.grp.syncDue) = false ∧ base.pcQuiet = true ∧
    decode 0xFFFFFFFF = none := by
  repeat' apply And.intro
  all_goals decide

theorem wit_Traps :
    handled.gang.tvec ≠ 0 ∧ handled.grp.frame.active = false ∧ handled.grp.tracectl = 0 ∧ (∀ p, handled.saveFault p = 0) ∧
    base.gang.tvec = 0 ∧ inHandler.grp.frame.active = true ∧ (base.ctx 1).csBase = 0 ∧
    -- a save area that is not mapped: the write of the frame, before which none stands, fails
    (arealess.gang.tvec ≠ 0 ∧ arealess.grp.frame.active = false ∧ arealess.saveFault .frame ≠ 0) ∧
    (∀ kills ∈ [false, true],
     let d : Due := { (default : Due) with cause := 0x041, kills := kills }
     let s := { handled with grp := { handled.grp with due := [d, { d with id := 1, kills := false }] } }
     s.gang.present = true ∧ s.captured s.gang.vf = false ∧ s.grp.alive = true ∧ oldestDue s.grp.due = some d ∧ s.gang.tvec ≠ 0 ∧
     s.grp.frame.active = false ∧ s.grp.tracectl = 0 ∧ (s.ctx s.gang.vf).csBase = 0 ∧ s.canIssue = true) :=
  ⟨by decide, by decide, by decide, saveFault_none _ rfl, by decide, by decide, by decide,
    ⟨by decide, by decide, saveFault_unmapped _ _ rfl rfl (by decide)⟩, by decide⟩

theorem wit_SoftwareTraps : handled.Ready {} ∧ handled.gang.tvec ≠ 0 ∧ handled.grp.frame.active = false ∧
    handled.grp.tracectl = 0 ∧ ∀ p, handled.saveFault p = 0 :=
  ⟨by unfold State.Ready; decide, by decide, by decide, by decide, saveFault_none _ rfl⟩

/-- The base state inside a handler, with a saved split, an overflow entry and one replay entry. -/
def returning (e : List Entry) : State :=
  let x : Split := { Split.free with pc := 0x30000, mask := 0xFF }
  { base with
    gang := { base.gang with tvec := 0x20000 }
    grp := { base.grp with
      frame := { Frame.none with active := true, splits := { SplitTable.empty with e1 := x }, stack := [{ x with mask := 0xFF00 }] }
      rq := e } }

theorem wit_ReturnFromTrap :
    (let e := entry (.st .plain)
     ∀ q ∈ ([[], [{ e with word := 0xFFFFFFFF, pc := 0x40000 }], [{ e with word := 0x20382100, err := 0x041 }],
        [{ e with word := 0x20382100 }]] : List (List Entry)),
      let s := returning q
      s.Ready {} ∧ s.grp.frame.active = true ∧ s.sp.mask = s.grp.live ∧ s.grp.rq ++ s.grp.behind = q ∧ s.grp.tracectl = 0 ∧
      s.gang.tvec ≠ 0 ∧ (s.ctx s.gang.vf).csBase = 0 ∧ s.grp.frame.stack.all (fun x => !x.waits) = true ∧ (∀ j, (s.grp.frame.splits.get j).waits = false) ∧
      (s.contexts.any fun c => c.vf == s.gang.vf) = true ∧ (s.ctx s.gang.vf).ctxErr.getLsbD 63 = false) ∧
    decode 0xFFFFFFFF = none ∧ decode 0x20382100 ≠ none ∧ (entry (.st .plain)).err = 0 ∧ (0x041 : BitVec 9) ≠ 0 ∧
    (MemOp.st .plain).whole = false ∧ (returning []).grp.frame.stack ≠ [] := by
  refine ⟨fun q hq => ?_, by decide, by decide, rfl, by decide, rfl, by decide⟩
  simp only [State.Ready]
  revert q; decide

theorem wit_HandlerInstructions :
    (base.grp.frame.active = false ∧ base.Ready {} ∧ base.Ready { writes := [.s 63] } ∧
      base.Ready { reads := [(.s 0, false)], writes := [.s 63] } ∧ base.Ready { reads := [(.s 0, false), (.s 63, false)] } ∧
      base.Ready { reads := [(.s 0, false)] }) ∧
    (let s := inHandler.updSp fun x => { x with mask := 1 }
     s.grp.frame.active = true ∧ s.sp.mask ≠ s.grp.live ∧ s.Ready {}) ∧
    (let s := { inHandler with grp := { inHandler.grp with rq := [entry (.st .plain)], s := [(1, 0x10)] } }
     s.grp.frame.active = true ∧ s.Ready { writes := [.s 2] } ∧ s.Ready { reads := [(.s 0, false)], writes := [.s 2] } ∧
     s.Ready { reads := [(.s 0, false), (.s 2, false)] } ∧ s.Ready { reads := [(.s 0, false)] } ∧
     selEntry (s.readS 0) < 16 ∧ s.grp.rq[selEntry (s.readS 0)]? = some (entry (.st .plain)) ∧
     selEntry 0x10 = 16 ∧ s.Ready { reads := [(.s 1, false)], writes := [.s 2] }) ∧
    (∀ d ∈ ([2, 62] : List (BitVec 6)), inHandler.Ready { ok := 2 ≤ d.toNat && d.toNat ≤ 62, writes := [.s d, .s (d + 1)] }) ∧
    (inHandler.contexts.any fun c => c.vf == inHandler.gang.vf) = true ∧ (inHandler.ctx 1).elog = [] ∧
    ((inHandler.updCtx 1 fun c => { c with elog := [5] }).ctx 1).elog = 5 :: [] := by
  repeat' apply And.intro
  all_goals first | decide | (unfold State.Ready; decide)

theorem wit_ScalarResults : (∀ d ∈ ([0, 63] : List (BitVec 6)), base.Ready (suse d [(1, 0), (2, 1)]) ∧ base.Ready (suse d [(d, 1)]) ∧
    base.Ready (suse d [(d, 0)]) ∧ base.Ready (suse d [])) := by
  repeat' apply And.intro
  all_goals first | decide | (unfold State.Ready; decide)

theorem wit_SpecialRegisters :
    base.Ready (suse 63 []) ∧ base.Ready { writes := [.v 127] } ∧ base.grp.tracectl = 0 ∧
    (base.contexts.any fun c => c.vf == base.gang.vf) = true ∧ base.Ready { reads := [(.s 1, false)] } ∧
    (14 ≤ (14 : BitVec 5).toNat ∧ (14 : BitVec 5).toNat ≤ 18) ∧ (14 ≤ (18 : BitVec 5).toNat ∧ (18 : BitVec 5).toNat ≤ 18) ∧
    base.Ready { writes := [.s 1] } ∧
    (let m := (withS base [(1, 21 * 64)]).readS 1; 21 ≤ (field m 6 5).toNat) ∧
    (let m := (withS base [(1, 20 * 64)]).readS 1; ¬(21 ≤ (field m 6 5).toNat ∨ field m 15 2 = 3 ∨ field m 17 2 = 3 ∨ m >>> 29 ≠ 0)) ∧
    (withS base [(1, 21 * 64)]).Ready { reads := [(.s 1, false)] } := by
  repeat' apply And.intro
  all_goals first | decide | (unfold State.Ready; decide)

theorem wit_Branches :
    base.grp.tracectl = 0 ∧ base.Ready {} ∧ (∀ w ∈ ([0, 1] : List (BitVec 1)), base.Ready { reads := [(.s 1, w == 1)] }) ∧
    base.Ready { writes := [.s 1] } ∧ base.Ready { reads := [(.s 1, false)] } ∧ base.readS 1 &&& 3 = 0 ∧
    (withS base [(1, 3)]).readS 1 &&& 3 ≠ 0 ∧ (withS base [(1, 3)]).Ready { reads := [(.s 1, false)] } ∧
    base.sp.mask &&& base.readS 1 = 0 ∧
    (let s := withS base [(1, 0xFFFF)]; s.sp.mask &&& s.readS 1 ≠ 0 ∧ s.sp.mask &&& ~~~(s.readS 1) = 0) ∧
    (let s := withS base [(1, 1)]
     s.Ready { reads := [(.s 1, false)] } ∧ s.sp.mask &&& s.readS 1 ≠ 0 ∧ s.sp.mask &&& ~~~(s.readS 1) ≠ 0 ∧ s.grp.splits.firstFree ≠ none) ∧
    (let x : Split := { Split.free with mask := 2 ^ 20 }
     let t := { (withS base [(1, 1)]) with grp := { (withS base [(1, 1)]).grp with
       splits := { (withS base [(1, 1)]).grp.splits with e1 := x, e2 := x, e3 := x }, overflow := List.replicate 16 x } }
     t.Ready { reads := [(.s 1, false)] } ∧ t.sp.mask &&& t.readS 1 ≠ 0 ∧ t.sp.mask &&& ~~~(t.readS 1) ≠ 0 ∧
     t.grp.splits.firstFree = none ∧ 16 ≤ t.grp.overflow.length) ∧
    (let x : Split := { Split.free with mask := 2 ^ 20 }
     let t := { (withS base [(1, 1)]) with grp := { (withS base [(1, 1)]).grp with
       splits := { (withS base [(1, 1)]).grp.splits with e1 := x, e2 := x, e3 := x } } }
     let u := t.updCtx 1 fun c => { c with csBase := 0x100000 }
     t.Ready { reads := [(.s 1, false)] } ∧ u.Ready { reads := [(.s 1, false)] } ∧ t.sp.mask &&& t.readS 1 ≠ 0 ∧
     t.sp.mask &&& ~~~(t.readS 1) ≠ 0 ∧ u.sp.mask &&& u.readS 1 ≠ 0 ∧ u.sp.mask &&& ~~~(u.readS 1) ≠ 0 ∧
     t.grp.splits.firstFree = none ∧ t.grp.overflow.length < 16 ∧ t.saveFault .stack = 0 ∧ u.saveFault .stack ≠ 0) := by
  repeat' apply And.intro
  all_goals first | decide | (unfold State.Ready; decide) | exact saveFault_none _ rfl _ | exact saveFault_unmapped _ _ rfl rfl (by decide)

theorem wit_ExitAndJoin :
    (base.grp.tracectl = 0 ∧ base.Ready {} ∧ base.grp.overflow = [] ∧ base.grp.splits.list.all (fun q => !q.2.waits) = true ∧
      base.grp.splits.list.all (fun q => q.1 == base.k || q.2.mask &&& base.sp.mask == 0) = true ∧
      (let s := withS (moded 1) [(1, 0xFF)]; s.Ready {} ∧ s.sp.mask &&& ~~~s.active ≠ 0)) ∧
    base.Ready { reads := [(.s 1, false)] } ∧ (∀ j, (base.grp.splits.get j).waits = false) ∧
    -- a mask that leaves a lane out; one that is passed; one of several splits
    base.sp.mask &&& ~~~(base.readS 1 &&& widthMask base.width) ≠ 0 ∧
    (let s := withS base [(1, 0xFFFF)]
     let X := s.readS 1 &&& widthMask s.width
     s.sp.mask &&& ~~~X = 0 ∧ (s.grp.splits.list.filter fun q => q.1 != s.k).all (fun q => !q.2.waitsAt s.sp.pc) = true ∧
       s.sp.mask = X &&& s.grp.live) ∧
    (let x : Split := { Split.free with pc := 0x20000, mask := 0xFF }
     let b := withS base [(1, 0xFFFF)]
     let s := { b with grp := { b.grp with splits := { b.grp.splits with e0 := { b.sp with mask := 0xFF00 }, e1 := x } } }
     let X := s.readS 1 &&& widthMask s.width
     let others := s.grp.splits.list.filter fun q => q.1 != s.k
     s.Ready { reads := [(.s 1, false)] } ∧ s.sp.mask &&& ~~~X = 0 ∧ others.all (fun q => !q.2.waitsAt s.sp.pc) = true ∧
       s.sp.mask ≠ X &&& s.grp.live ∧ others.any (fun q => !q.2.isFree && !q.2.waits) = true ∧ X &&& s.grp.live &&& ~~~s.sp.mask ≠ 0) ∧
    (let x : Split := { Split.free with pc := 0x10000, mask := 0xFF, st := .waiting 0xFFFF true }
     let b := withS base [(1, 0xFFFF)]
     let s := { b with grp := { b.grp with splits := { b.grp.splits with e0 := { b.sp with mask := 0xFF00 }, e1 := x } } }
     let X := s.readS 1 &&& widthMask s.width
     let others := s.grp.splits.list.filter fun q => q.1 != s.k
     s.Ready { reads := [(.s 1, false)] } ∧ s.grp.overflow = [] ∧
       (∀ i j, i ≠ j → i ≠ s.k → j ≠ s.k → (s.grp.splits.get i).waits = true → (s.grp.splits.get j).waits = true →
         (s.grp.splits.get i).pc ≠ (s.grp.splits.get j).pc) ∧ (1 : BitVec 2) ≠ s.k ∧ (s.grp.splits.get 1).waitsAt s.sp.pc = true ∧
       (s.grp.splits.get 1).rejoin = X ∧ (s.grp.splits.get 1).advances = true ∧ (s.grp.splits.get 1).mode = s.sp.mode ∧
       s.sp.mask &&& ~~~X = 0 ∧ s.sp.mask ≠ X &&& s.grp.live ∧ s.sp.held = false ∧
       others.all (fun q => q.1 == 1 || !q.2.waitsAt s.sp.pc) = true ∧
       X &&& s.grp.live &&& ~~~(s.sp.mask ||| (s.grp.splits.get 1).mask) = 0) := by
  repeat' apply And.intro
  all_goals first | decide | (unfold State.Ready; decide)

theorem wit_YieldAndSleep :
    base.stepping = none ∧ base.Ready {} ∧ base.Ready { reads := [(.s 1, false)], writes := [.s 2] } ∧ base.readS 1 = 0 ∧
    (withS base [(1, 1)]).readS 1 ≠ 0 ∧ base.gang.present = true ∧ base.captured base.gang.vf = false ∧
    (let x : Split := { Split.free with pc := 0x20000, mask := 0xFF }
     let s := { base with grp := { base.grp with splits := { base.grp.splits with e0 := { base.sp with mask := 0xFF00 }, e1 := x } } }
     let a := s.updSp fun x => { x with st := .yielded 0 [(base.self, 1, 0)] }
     let b := { (s.updSp fun x => { x with st := .yielded 0 [(base.self, 1, 5)] }) with cycles := 63 }
     -- another split that was ready is so still; it has issued since; 64 cycles have passed
     (a.cycles - 0).toNat < 64 ∧ (base.self, 1, 0) ∈ a.quadReady ∧ (base.self, 1, 5) ∉ b.quadReady ∧
       64 ≤ (({ a with cycles := 64 }).cycles - 0).toNat) ∧
    (let s := base.updSp fun x => { x with st := .asleep 2 0 1 }
     (s.grp.splits.get 0).st = .asleep 2 0 1 ∧ (s.grp.splits.get 0).held = false ∧ s.grp.isEmpty (.s 2) = false ∧
     (s.grp.splits.get 0).woke = none ∧ (0 : W64).toNat ≤ s.time.toNat) ∧
    (let s := base.updSp fun x => { x with st := .asleep 2 1 1 }; s.time.toNat < (1 : W64).toNat ∧ (s.grp.splits.get 0).woke = none) ∧
    (let s := base.updSp fun x => { x with st := .asleep 2 1 1, woke := some 2 }; (s.grp.splits.get 0).woke = some 2) := by
  repeat' apply And.intro
  all_goals first | decide | (unfold State.Ready; decide)

theorem wit_MasksAndComparisons :
    base.Ready (suse 63 [(1, 0), (2, 1)]) ∧ base.Ready (suse 63 [(1, 1)]) ∧ base.Ready (suse 63 []) ∧
    base.Ready { reads := [(.s 1, true)], writes := [.v 127] } ∧
    (∀ t ∈ [0, 1, 2, 3, 8, 9], (typed t).Ready (cmpUse (typed t).ty 1 2 4 0 1) ∧
      ((typed t).ty.toNat ≤ 3 ∨ (typed t).ty = 8 ∨ (typed t).ty = 9)) := by
  repeat' apply And.intro
  all_goals first | decide | (unfold State.Ready; decide)

theorem wit_VectorResults : base.FlagsQuiet ∧
    (∀ t ∈ [0, 3, 7, 8, 9, 11], (typed t).Ready (vuse (typed t).ty 6 [(2, 0), (4, 1)] false) ∧
      (typed t).Ready (vuse (typed t).ty 6 [(2, 0), (4, 1)] true) ∧ (typed t).Ready (vuse (typed t).ty 2 [(2, 0)] false) ∧
      (typed t).ty.toNat ≤ 11) ∧ (typed 7).ty.toNat ≤ 7 ∧ (typed 3).ty.toNat ≤ 3 := by
  repeat' apply And.intro
  all_goals first | decide | (unfold State.FlagsQuiet; decide) | (unfold State.Ready; decide)

theorem wit_ElementFunctions :
    (∀ t ∈ ([0, 1, 2, 3, 4, 5, 6, 7] : List (BitVec 5)), ∀ sat ∈ [false, true],
      (Alu.mk t 0 false sat).t.toNat ≤ 7 ∧ 0 < 2 ^ typeBits t ∧ 2 ^ typeBits t - 1 < 2 ^ typeBits t ∧
      (Alu.mk t 0 false sat).sat = sat) ∧
    -- a float format with a NaN, an infinity, a zero and a finite number of each
    (∀ p ∈ ([(8, 32, 23), (9, 64, 52), (10, 16, 10), (11, 16, 7)] : List (BitVec 5 × Nat × Nat)),
      let (t, w, mb) := p
      let S := 2 ^ (w - 1)
      let I := S - 2 ^ mb
      ((t = 8 ∧ w = 32 ∧ mb = 23) ∨ (t = 9 ∧ w = 64 ∧ mb = 52) ∨ (t = 10 ∧ w = 16 ∧ mb = 10) ∨ (t = 11 ∧ w = 16 ∧ mb = 7)) ∧
      (Alu.mk t 3 false false).ftz = false ∧ (Alu.mk t 3 false false).sat = false ∧
      (I + 1 < 2 ^ w ∧ I < (I + 1) % S) ∧ (S + I < 2 ^ w ∧ (S + I) % S = I) ∧ (S < 2 ^ w ∧ S % S = 0) ∧
      (1 < 2 ^ w ∧ 1 % S < I ∧ 1 % S ≠ 0) ∧ (I - 1 < 2 ^ w ∧ (I - 1) % S < I)) ∧
    (typed 12).Ready (vuse (typed 12).ty 6 [(2, 0), (4, 1)] false) ∧ 12 ≤ (typed 12).ty.toNat ∧
    (typed 12).Ready (vuse (typed 12).ty 6 [(2, 0), (4, 1)] true) ∧ (typed 12).Ready (vuse (typed 12).ty 6 [(2, 0)] false) ∧
    (typed 12).Ready (cmpUse (typed 12).ty 1 2 4 0 1) ∧
    (let s := typed 18
     s.Ready { ok := pairOk 0 2 && pairOk s.ty 4, reads := (vregs 0 2).map fun r => (r, false), writes := vregs s.ty 4 } ∧ 18 ≤ s.ty.toNat) := by
  repeat' apply And.intro
  all_goals first | decide | (unfold State.Ready; decide)

theorem wit_SpecialFunctions :
    base.FlagsQuiet ∧ (typed 8).Ready (vuse (typed 8).ty 6 [(2, 0)] false) ∧ (typed 9).Ready (vuse (typed 9).ty 6 [(2, 0)] false) ∧
    (typed 8).ftz = false ∧ (typed 8).ty = 8 ∧ (typed 9).ty = 9 ∧ (2 ^ 31 < 0x80000001 ∧ 0x80000001 ≤ 0xFF800000) := by
  repeat' apply And.intro
  all_goals first | decide | (unfold State.FlagsQuiet; decide) | (unfold State.Ready; decide)

theorem wit_MovesAndConversions : base.FlagsQuiet ∧
    base.Ready { reads := [(.v 1, false), (.s 1, true)], writes := [.v 127] } ∧
    (∀ t ∈ [0, 2, 17], (typed t).Ready (vuse (typed t).ty 6 [(2, 0)] false) ∧
      (typed t).Ready { ok := pairOk (typed t).ty 6, reads := [(.s 1, true)], writes := vregs (typed t).ty 6 } ∧
      (typed t).Ready { ok := pairOk 17 2 && pairOk (typed t).ty 6, reads := (vregs 17 2).map fun r => (r, false),
                        writes := vregs (typed t).ty 6 } ∧ (17 : BitVec 5).toNat ≤ 17 ∧ (typed t).ty.toNat ≤ 17) ∧
    is64 base.ty = false ∧ is64 (typed 2).ty = true ∧ base.Ready { writes := [.v 127] } ∧
    base.Ready { reads := (vrange 124 4).map fun r => (r, true), writes := vrange 127 1 } ∧
    base.Ready { reads := (vrange 127 1).map fun r => (r, true), writes := vrange 124 4 } ∧
    base.Ready { reads := (vrange 120 8).map fun r => (r, true), writes := vrange 127 1 } ∧
    base.Ready { reads := (vrange 127 1).map fun r => (r, true), writes := vrange 120 8 } ∧
    -- a NaN, an infinity and a number of f32, as what cvt reads
    (0x7FC00000 < 2 ^ 32 ∧ 0x7F800000 < 0x7FC00000 % 2 ^ 31) ∧ 0xFF800000 % 2 ^ 31 = 0x7F800000 ∧ 0x3F800000 % 2 ^ 31 < 0x7F800000 ∧
    (Alu.mk 0 0 false true).t.toNat ≤ 7 ∧
    base.Ready { ok := (124 : BitVec 7).toNat % 4 == 0, reads := (vrange 100 21).map fun r => (r, true), writes := vrange 124 4 } ∧
    base.Ready { ok := (4 : BitVec 7).toNat % 4 == 0, reads := (vrange 4 4).map fun r => (r, true), writes := vrange 107 21 } := by
  repeat' apply And.intro
  all_goals first | decide | (unfold State.FlagsQuiet; decide) | (unfold State.Ready; decide)

theorem wit_CrossLane :
    -- one that has just come to the instruction, and one that has joined others there
    (∀ m : Bool, let s := withS ((typed 1).updSp fun x => { x with joined := if m then some 0xFFFF else none }) [(2, if m then 0 else 0xFFFF)]
     let K := s.sp.joined.getD (s.readS 2) &&& widthMask s.width &&& s.grp.live
     let member : List (Reg × Bool) := if s.sp.joined.isSome then [] else [(.s 2, true)]
     s.FlagsQuiet ∧ s.ty = 1 ∧ s.sat = false ∧ s.grp.tracectl = 0 ∧ s.sp.mask = K ∧
     s.grp.splits.list.all (fun q => q.1 == s.k || !q.2.waitsAt s.sp.pc) = true ∧ s.grp.overflow = [] ∧
     s.Ready (permUse s.ty 5 6 0 member true) ∧ s.Ready (permUse s.ty 5 6 0 member false) ∧
     s.Ready (reduUse s.ty [.s 3] 6 0 member true) ∧ s.Ready (reduUse s.ty (vregs s.ty 5) 6 0 member (pairOk s.ty 5)) ∧
     K.getLsbD 0 = true ∧ ∀ j : Nat, ¬(j < 0)) := by
  intro m
  cases m
  all_goals
    repeat' apply And.intro
    all_goals first | decide | (unfold State.FlagsQuiet; decide) | (unfold State.Ready; decide)

theorem wit_BoundsRule : (0 : Nat) < 4 ∧
    (∀ b ∈ [0, 1, 2, 3], ∀ sp ∈ [0, 1, 2, 3], bufSpace (buf sp 0 b 0x100) = BitVec.ofNat 3 sp ∧ bufBounds (buf sp 0 b 0x100) = BitVec.ofNat 2 b) := by
  repeat' apply And.intro
  all_goals decide

theorem wit_LoadsAndStoresIssue : base.Unwatched ∧
    (∀ p ∈ ([(.ld 127 2 1 1, .plain, 1), (.ldAcq 127 2 1 1, .acquire, 1), (.ldC 127 2 1 1, .clear, 1), (.ldK 127 2 1 1, .keep, 1),
        (.ldW 126 2 1 1, .wide, 2)] : List (Instr × LdKind × Nat)),
      base.Ready { ldUse (if p.2.2 = 2 then 126 else 127) p.2.2 1 1 with
        recs := [2], ready := base.stepServed (base.loadOf p.1 p.2.1 (if p.2.2 = 2 then 126 else 127) p.2.2 2 1) }) ∧
    base.Ready { reads := [(.s 1, true)], writes := [.s 63], recs := [2] } ∧
    (∀ n ∈ [1, 2], base.Ready { stUse base.grp (if n = 2 then 126 else 127) n 2 1 with recs := [2] }) ∧
    base.Ready { reads := [(.s 1, true), (.s 63, false)], ready := base.grp.heldStore.isNone, park := base.grp.heldStore, recs := [2] } := by
  repeat' apply And.intro
  all_goals first | decide | (unfold State.Unwatched; decide) | (unfold State.Ready; decide)

theorem wit_LoadsAndStoresPerform :
    (∀ p ∈ ([(.plain, Dest.vec 127 1), (.scalar, Dest.scal 63 1), (.wide, Dest.vec 126 2), (.moment, Dest.mom 31), (.clear, Dest.vec 3 1)] :
        List (LdKind × Dest)),
      let e := { entry (.ld p.1) with dest := p.2, accs := [acc0 4] }
      let s := { (flying e) with gang := { base.gang with granules := [(16, 1)] } }
      s.Performable 0 e ∧ e.op = .ld p.1 ∧ ∀ a ∈ e.accs, s.gang.served a = true) ∧
    (let e := { entry (.st .plain) with accs := [acc0 4] }
     (flying e).Performable 0 e ∧ e.op = .st .plain ∧ (flying e).grp.fabricErr = 0 ∧
       ∀ a ∈ e.accs, ∀ b ∈ e.accs, (a.place = b.place → a.key < b.key → a.key + a.n ≤ b.key) ∧
         (a.place = .virt → b.place = .virt → lineOf a.pa = lineOf b.pa → a.via = b.via)) := by
  refine ⟨fun p hp => ⟨performable_gmem _ _ _ ?_, ?_⟩, performable_gmem _ _ _ (by decide), by decide⟩
  · revert p; decide
  · revert p; decide

theorem wit_AtomicsIssue : base.Unwatched ∧
    (∀ n ∈ [1, 2, 4], base.Ready (atomUse base.grp 124 n n 2 1 true) ∧
      base.Ready { atomUse base.grp 124 n 0 2 1 (base.grp.room 6) with writes := [] }) ∧
    base.Ready { reads := [(.s 1, true)], writes := [.s 63] } ∧
    (∀ t ∈ ([0, 1, 2, 3] : List (BitVec 5)), t.toNat ≤ 3 ∧ 2 ^ typeBits t - 1 < 2 ^ typeBits t) ∧
    f32NaN 0x7FC00000 = true ∧ f32NaN 0xFF800000 = false ∧
    chunkOk (BitVec.ofNat 256 (2 ^ 144 + (1 + 2 ^ 16) * 2 ^ 176)) = true := by
  repeat' apply And.intro
  all_goals first | decide | (unfold State.Unwatched; decide) | (unfold State.Ready; decide)

theorem wit_AtomicsPerform :
    (∀ op ∈ ([.atom .add, .red .max, .bankMx, .bankSup, .bankVadd, .chunk] : List MemOp),
      let n := match op with | .atom _ | .red _ => 4 | .bankVadd => 64 | _ => 8
      let e := { entry op with accs := [acc0 n] }
      let s := { (flying e) with gang := { base.gang with granules := [(16, 1)] } }
      s.Performable 0 e ∧ e.op = op ∧ (∀ a ∈ e.accs, a.n = n) ∧
        ∀ a ∈ e.accs, ∀ b ∈ e.accs, (a.place = b.place → a.n = b.n ∧ (a.key < b.key → a.key + a.n ≤ b.key)) ∧
          (a.place = .virt → b.place = .virt → lineOf a.pa = lineOf b.pa → a.via = b.via)) ∧
    (∀ p ∈ ([(.atom .add, Dest.vec 127 1), (.atom .cas, Dest.vec 126 2), (.chunk, Dest.scal 63 1)] : List (MemOp × Dest)),
      let e := { entry p.1 with dest := p.2, accs := [acc0 4], done := 1, result := [(0, 5)] }
      let s := flying e
      s.gang.present = true ∧ s.captured s.gang.vf = false ∧ s.grp.entry 0 = some e ∧ e.finished = true ∧ e.err = 0 ∧ e.held = none ∧
        e.cancelled = [] ∧ e.watch = [] ∧ e.fired = [] ∧ s.grp.logs = [] ∧ s.grp.flushes = [] ∧ e.op = p.1 ∧ e.dest = p.2) := by
  refine ⟨fun op hp => ⟨performable_gmem _ _ _ ?_, rfl, ?_, ?_⟩, by decide⟩
  all_goals revert op; decide

theorem wit_GranulesCountersFences :
    base.Ready { reads := [(.s 1, false)], ready := base.gmemSettled } ∧
    base.Ready { reads := [(.s 1, false)], writes := [.s 2], ready := base.gmemSettled } ∧
    (base.alloc = 65536 ∧ base.alloc ≤ 16 * 4096 ∧ 16 * 4095 < base.alloc) ∧
    base.Ready { writes := [.s 63] } ∧
    (let cls := counterOf 0 3
     (base.grp.counters.filter fun x => x.cls == cls).length ≤ (0 : BitVec 8).toNat ∧
       base.Ready { ready := true, park := base.grp.heldCounted cls }) ∧
    (let s := { base with grp := { base.grp with counters := [{ cls := counterOf 1 0, id := 0, done := false }] } }
     (0 : BitVec 8).toNat < (s.grp.counters.filter fun x => x.cls == counterOf 1 0).length ∧ s.canIssue = true ∧ s.grp.due = [] ∧
       (s.tracing && s.grp.syncDue) = false ∧ s.stepping = none ∧ s.grp.isEmpty (.s (modeG s.mode)) = false) ∧
    (∀ x ∈ ([0, 0x049] : List (BitVec 9)),
      { base with grp := { base.grp with fabricErr := x } }.Ready { ready := base.drained, park := base.grp.heldStore }) ∧
    base.Ready { reads := [(.s 1, false), (.s 2, false)], recs := [2] } ∧ checkBuf (base.record 2) (fun _ => true) anySpace false false ≠ none ∧
    checkBuf (buf 0 0 0 0) (fun _ => true) anySpace false false = none ∧ base.Ready {} := by
  repeat' apply And.intro
  all_goals first | decide | (unfold State.Ready; decide)

theorem wit_Barriers :
    (0x101 : W64).toNat % 16 ≠ 0 ∧
    ((0 : W64).toNat % 16 = 0 ∧ (0 : W64).toNat < 2 ^ 63 ∧ (65520 : W64).toNat + 16 ≤ base.alloc ∧ base.alloc < (65536 : W64).toNat + 16) ∧
    ((0x8000000000000000 : W64).toNat % 16 = 0 ∧ 2 ^ 63 ≤ (0x8000000000000000 : W64).toNat ∧
      (base.updCtx 1 fun c => { c with regions := [(0, 64)] }).bankHeld 1 0 16 = true ∧ base.bankHeld 1 0 16 = false) ∧
    base.Ready { reads := [(.s 1, false), (.s 2, true)], writes := [], ready := base.settled } ∧
    base.Ready { reads := [(.s 1, false)], writes := [.s 3], ready := base.settled } ∧
    base.barOperand 1 = .error (cALIGN, 1) ∧ base.stepping = none ∧
    (let s := barred []
     let v := s.barrier (false, 0x100)
     s.barOperand (s.readS 1) = .ok (false, 0x100) ∧ s.Ready { reads := [(.s 1, false), (.s 2, true)], writes := [], ready := s.settled } ∧
     s.readS 2 ≠ 0 ∧ (s.readS 2).toNat ≤ 65535 ∧ (s.readS 2).toNat < 2 ^ 55 ∧ barArrived v ≠ barExpected v ∧ barPhase v ≠ (s.readS 2).setWidth 1 ∧
     barPhase v = (s.readS 3).setWidth 1) ∧
    (let v := (barred [(0x10A, 1)]).barrier (false, 0x100); barArrived v = barExpected v) ∧
    65535 < (65536 : W64).toNat ∧ 2 ^ 55 ≤ (0x80000000000000 : W64).toNat := by
  repeat' apply And.intro
  all_goals first | exact rfl | decide | (unfold State.Ready; decide)

theorem wit_HardwareBarriers :
    (let s := withS base [(1, 1)]
     let bar := getBar s.gang.barriers 15
     s.Ready { reads := [(.s 1, false)], ready := s.settled } ∧ s.grp.tracectl = 0 ∧ s.sp.held = false ∧ s.sp.mask = s.grp.live ∧
     s.grp.live &&& ~~~s.wmask = 0 ∧ s.grp.waitersAt s.sp.pc = [] ∧ (∀ q ∈ s.gang.barriers, q.1 < 16) ∧
     (s.readS 1).getLsbD s.grp.idx.toNat = true ∧ (s.readS 2).getLsbD s.grp.idx.toNat = false ∧ bar.arrived = [] ∧ s.peers = [] ∧ s.myBand = none) ∧
    -- another group still to come, and one whose mask differs
    (let g : Group := { Group.blank with idx := 1, live := 1 }
     let s := { (withS base [(1, 3)]) with peers := [g] }
     let t := { s with gang := { s.gang with barriers := [(0, { mask := 2, arrived := [(0, 1)], phase := 0 })] } }
     s.Ready { reads := [(.s 1, false)], ready := s.settled } ∧ g.alive = true ∧ (s.readS 1).getLsbD g.idx.toNat = true ∧
     t.Ready { reads := [(.s 1, false)], ready := t.settled } ∧ (getBar t.gang.barriers 0).arrived ≠ [] ∧ t.grp.alive = true ∧
     (getBar t.gang.barriers 0).mask.getLsbD t.grp.idx.toNat ≠ (t.readS 1).getLsbD t.grp.idx.toNat) ∧
    -- a band of one gang
    (let s0 := withS base [(1, 1)]
     let band : Band := { vf := 1, seq := 1, idx := 0, base := 0, bytes := 0, resident := true, saved := [], barriers := [] }
     let s := { s0 with gang := { s0.gang with band := some 0, lrec := { s0.gang.lrec with band := 1 } }, bands := [band] }
     s.Ready { reads := [(.s 1, false)], ready := s.settled } ∧ s.myBand = some band ∧ (∀ q ∈ band.barriers, q.1 < 16) ∧ s.gang.lrec.band.toNat ≤ 16 ∧
     s.gang.place < s.gang.lrec.band.toNat ∧ (s.readS 1).getLsbD s.gang.place = true ∧ (getBar band.barriers 0).arrived = [] ∧
     ∀ r ∈ s.bandGangs band, ∀ g ∈ r.groups, r.gang.place = s.gang.place ∧ g.idx = s.grp.idx) := by
  repeat' apply And.intro
  all_goals first | decide | (unfold State.Ready; decide)

theorem wit_EnginesIssue :
    (∀ v ∈ ([0, 125] : List (BitVec 7)), base.Ready { reads := (Dest.vec v.toNat 3).regs.map fun x => (x, false), ready := base.grp.room 3 }) ∧
    (∀ v ∈ ([0, 60] : List (BitVec 6)), base.Ready (scalUse base.grp v 4 true 0)) ∧
    base.Ready { scalUse base.grp 61 3 true 5 with recs := [(base.readS 63).setWidth 10] } ∧
    checkPair (buf 1 6 0 0) (buf 1 6 0 0) gmemSpace = none ∧ checkPair (buf 0 6 0 0) (buf 1 6 0 0) anySpace = none ∧
    checkPair 0 0 gmemSpace ≠ none ∧
    (let row : W256 := buf 1 6 0 0x400 ||| (16#256 <<< 144)
     checkGather (buf 1 1 0 0) (buf 1 6 0 0x200) row false = none ∧ (4096 : W64).toNat ≤ 4096 ∧ 4096 < (4097 : W64).toNat ∧
     2 ^ 11 ≤ (2048 : W64).toNat ∧ (2047 : W64).toNat < 2 ^ 11) ∧
    (let s := withV base [(2, 33)]; s.active.getLsbD 0 = true ∧ 32 < (s.grp.vreg 2 0).toNat) ∧
    (∀ l < 64, (base.grp.vreg 2 l).toNat ≤ 32) ∧ 2 ^ 32 ≤ (0x100000000 : W64).toNat ∧ (0xFFFFFFFF : W64).toNat < 2 ^ 32 ∧
    (∃ b, base.barOperand 0x100 = .ok b) ∧ bufSpace (buf 1 6 0 0) = 1 ∧ bufSpace (buf 1 6 3 0) = 1 := by
  repeat' apply And.intro
  all_goals first | decide | (unfold State.Ready; decide) | exact ⟨_, rfl⟩

theorem wit_EnginesLand :
    (let e := copying
     let s := flying e
     let inside (r : W256) (b : Nat) : Prop := bufSpace r = 1 ∧ b < (bufExtent r).toNat ∧ (bufBase r).toNat + b < s.alloc
     s.gang.present = true ∧ s.captured s.gang.vf = false ∧ s.grp.entry 0 = some e ∧ e.err = 0 ∧ e.held = none ∧ e.more = [] ∧ e.landed = [] ∧
     s.gang.badGmem = [] ∧ s.grp.logs = [] ∧ s.grp.flushes = [] ∧ e.op = .cpB ∧ e.sc 3 = BitVec.allOnes 64 ∧
     (∀ p < 32, p < (e.sc 2).toNat ∧ inside (e.snap 1) ((e.sc 1).toNat + p) ∧ inside (e.snap 0) ((e.sc 0).toNat + p)) ∧
     ∀ p < 32, ∀ q < 32, (e.sc 1).toNat + p ≠ (e.sc 0).toNat + q) ∧
    (let e := { entry .cpA with snaps := [buf 1 6 0 0, buf 1 6 0 0], blocks := [[(0, 0x100)], [(0, 0x200)], [(0, 3)]], active := 1 }
     let s := flying e
     let inside (r : W256) (b : Nat) : Prop := bufSpace r = 1 ∧ b < (bufExtent r).toNat ∧ (bufBase r).toNat + b < s.alloc
     s.gang.present = true ∧ s.captured s.gang.vf = false ∧ s.grp.entry 0 = some e ∧ e.err = 0 ∧ e.held = none ∧ e.more = [] ∧
     e.landed = [] ∧ s.gang.badGmem = [] ∧ s.grp.logs = [] ∧ s.grp.flushes = [] ∧ e.op = .cpA ∧
     ∀ p < 32, p < 2048 ∧ e.active.getLsbD (p / 32) = true ∧ inside (e.snap 1) ((e.blk 1 (p / 32)).toNat + p % 32) ∧
       (p % 32 < (e.blk 2 (p / 32)).toNat → inside (e.snap 0) ((e.blk 0 (p / 32)).toNat + p % 32))) ∧
    (let row : W256 := buf 1 6 0 0x400 ||| (16#256 <<< 144)
     let e := { entry .gth with snaps := [buf 1 1 0 0, buf 1 6 0 0x200, row], scal := [0, 1, 0], recs := [2, 3, 4] }
     let s := flying e
     let inside (r : W256) (b : Nat) : Prop := bufSpace r = 1 ∧ b < (bufExtent r).toNat ∧ (bufBase r).toNat + b < s.alloc
     s.gang.present = true ∧ s.captured s.gang.vf = false ∧ s.grp.entry 0 = some e ∧ e.err = 0 ∧ e.held = none ∧ e.more = [] ∧
     e.landed = [] ∧ s.gang.badGmem = [] ∧ s.grp.logs = [] ∧ s.grp.flushes = [] ∧ e.op = .gth ∧ e.refused = [] ∧ (e.sc 2).getLsbD 10 = false ∧ 0 < (e.sc 1).toNat ∧
     esize (bufFmt (e.snap 2)) = some 1 ∧ (bufStride1 (e.snap 2)).toNat = 16 ∧ (∀ j < 4, inside (e.snap 0) j) ∧
     (∀ j < 16, inside (e.snap 1) j ∧ inside (e.snap 2) j) ∧ ∀ j < 16, ∀ i < 16, 0x200 + j ≠ 0x400 + i) := by
  repeat' apply And.intro
  all_goals decide

theorem wit_WholeRecords :
    base.Ready { reads := [(.s 1, false)], ready := base.loadsDone } ∧ base.Unwatched ∧
    base.Ready { reads := [(.s 1, false)], ready := base.grp.heldStore.isNone, park := base.grp.heldStore, recs := [2] } ∧
    (∀ n ∈ ([2, 256] : List (BitVec 10)), noded.Ready {
      reads := [(.s 1, false)], ready := noded.wholeReady 0 32 && noded.changeReady n, park := noded.grp.heldStore, recs := [n] }) ∧
    base.Ready { reads := [(.s 1, false)], ready := base.wholeReady 0 768 } ∧ (0 : W64).toNat % 32 = 0 ∧ (1 : W64).toNat % 16 ≠ 0 ∧
    (∃ v u pa, mapped.translate mapped.gang.vf mapped.coreId 0x10000 .read = (.ok pa v, u) ∧ regionOf pa ≠ .fabric ∧
      u.uncorrectable.contains (lineOf pa) = false ∧ u.KeyFits v.key pa.toNat 32 ∧
      loadRefused (mapped.record 2) (BitVec.ofNat 256 (ofBytes (SMap.getRange u.mem pa.toNat 32))) = none) ∧
    (∃ l m u, (rooted 4).translate 1 (rooted 4).coreId 0x10000 .read = (.replay l m, u)) ∧
    (recKind (2#256 ||| (1#256 <<< 66)) = 2 ∧ tileSegs (2#256 ||| (1#256 <<< 66)) ≠ 0) ∧
    loadRefused (2#256 ||| (1#256 <<< 66)) 0 = some cREC_BUSY ∧ loadRefused 0 (2#256 ||| (1#256 <<< 40)) = some cREC_VALUE ∧
    (∃ l b u v, mapped.translateAll .read ((List.range 48).map fun i =>
      { lane := i, place := .virt, addr := 0x10000 + BitVec.ofNat 64 (16 * i), n := 16, pa := 0, via := {} }) = (.ok l, u) ∧
      u.readAccs l = (.ok b, v)) ∧ mapped.gang.vf ∈ mapped.contexts.map (·.vf) := by
  repeat' apply And.intro
  all_goals first | decide | (unfold State.Ready; decide) | (unfold State.Unwatched; decide) |
    exact ⟨_, _, _, rfl, by decide, by decide, keyFits_of_none _ _ _ _ rfl, by decide⟩ | exact ⟨_, _, _, _, rfl, rfl⟩ | exact ⟨_, _, _, rfl⟩

theorem wit_RecordFields :
    (∀ w : Bool, let s : State := { (if w then { noded with recCache := noded.recCache.map fun c => { c with r := buf 0 0 0 0 } } else record2 (buf 0 0 0 0)) with stepping := none }
     let n : BitVec 10 := if w then 256 else 2
     s.Ready { reads := [(.s 1, false)], writes := [.s 2], ready := s.fieldReady n, park := s.interlockHeld [n], recs := [n] } ∧
     s.Ready { reads := [(.s 1, false), (.s 2, false)], ready := s.fieldReady n && s.changeReady n,
               park := if s.fieldReady n then s.grp.heldStore else s.interlockHeld [n], recs := [n] } ∧
     (∀ f ∈ ([1, 10, 11] : List (BitVec 6)), (recField f).isSome = true ∧ fieldFault f (s.record n) none = none)) ∧
    (fieldFault 63 (buf 0 0 0 0) none).isSome = true ∧ (fieldFault 1 0 (some 0)).isSome = true ∧ fieldFault 10 (buf 0 0 0 0) (some 1) = none ∧
    -- each clause on what a record and a field are
    recKind (buf 0 0 0 0) = 1 ∧ recKind tile64 = 2 ∧ recField 63 = none ∧ recField 10 ≠ none ∧
    (∃ x, recField 28 = some x ∧ x.kind = 2 ∧ x.ro = false ∧ fieldValueOk 28 x tile64 1 = true ∧ fieldValueOk 28 x tile64 2 = false) ∧
    (∃ x, recField 0 = some x ∧ x.ro = true) ∧
    (tileSegs (tile64 ||| (1#256 <<< 66)) ≠ 0) := by
  repeat' apply And.intro
  all_goals first | decide | (intro w; cases w <;> (simp only [State.Ready]; decide)) | exact ⟨_, rfl, by decide⟩

theorem wit_TilesIssue :
    (let s := record2 (2#256 ||| (8#256 <<< 32) ||| (1#256 <<< 47) ||| (64#256 <<< 78) ||| (64#256 <<< 85))
     s.interlockFree [2] = true ∧ tileFmt (s.record 2) ≠ 9 ∧
     s.Ready { ok := true, reads := [], ready := s.interlockFree [2, 2, 2] && s.grp.room 4, park := s.interlockHeld [2, 2, 2] } ∧
     s.Ready { ok := true, reads := [(.s 1, false), (.v 127, false)], ready := s.interlockFree [2] && s.grp.room 4
               park := s.interlockHeld [2] }) := by
  repeat' apply And.intro
  all_goals first | decide | (unfold State.Ready; decide)

theorem wit_TileRetires :
    let e := (zeroing 0 0).1
    let s := (zeroing 0 0).2
    s.gang.present = true ∧ s.captured s.gang.vf = false ∧ s.grp.entry 0 = some e ∧ e.op = .tile .tz ∧ e.err = 0 ∧ e.held = none ∧ e.more = [] ∧ (2 : BitVec 10).toNat < 256 ∧
    e.claimed = none ∧ e.watch = [] ∧ s.grp.killed = false ∧ e.recs.head? = some 2 ∧ recKind (s.record 2) = 2 ∧ s.claimTurn e = true ∧
    s.gang.badTiles = [] ∧ TileOp.tz ∉ [.tld, .tldf, .ttrsmL, .tst, .tstf] ∧ (s.tileResult e .tz []).writes = [] ∧
    -- it needs no segment
    (s.tileResult e .tz []).val = some .zero ∧ 0 ≤ s.gang.pool.toNat - s.gang.inUse - s.claimedSegs e.seq := by
  repeat' apply And.intro
  all_goals decide

/-- A result that claims segments where there is none, without TOVF and with it. -/
theorem wit_TileRetiresFails :
    let e := (copyingTile 0).1
    let s := (copyingTile 0).2
    s.gang.present = true ∧ s.captured s.gang.vf = false ∧ s.grp.entry 0 = some e ∧ e.err = 0 ∧ e.held = none ∧ e.more = [] ∧ e.claimed = none ∧
    e.watch = [] ∧ s.grp.killed = false ∧ e.recs.head? = some 2 ∧ recKind (s.record 2) = 2 ∧ e.op = .tile .tcp ∧ s.claimTurn e = true ∧ s.gang.badTiles = [] ∧ TileOp.tcp ∉ [.tld, .tldf, .ttrsmL, .tst, .tstf] ∧
    modeTOVF e.mode = false ∧ modeTOVF (copyingTile 0x8000000).1.mode = true ∧ (s.tileResult e .tcp []).writes = [] ∧
    -- it needs 32 segments where the record has none
    (match (s.tileResult e .tcp []).val with | some (.dense ..) => true | _ => false) = true ∧ tileFmt (e.snap 0) = 8 ∧
    (tileSegs (s.record 2)).toNat < 32 ∧ s.gang.pool.toNat - s.gang.inUse - s.claimedSegs e.seq < 32 := by
  repeat' apply And.intro
  all_goals decide +kernel

theorem wit_TileArithmetic :
    (let z : Opnd := { r := tile64, v := .zero }
     let o : Opnd := { r := tile64 ||| (1#256 <<< 40), v := .dense [(0, 0x3F800000)] [] }
     tileTK z.r = 0 ∧ tileFmt o.r = 8 ∧ tilePrec o.r = false ∧ tileTK o.r = 1 ∧ o.rows ≤ 64 ∧ o.cols ≤ 64) ∧
    (let s := record2 (tile64 ||| (1#256 <<< 40))
     let n : BitVec 10 := 2
     let free := s.interlockFree [n]
     s.Ready { writes := [.s 63], ready := free, park := s.interlockHeld [n] } ∧ recKind (s.record n) = 2 ∧
     (tileFmt (s.record n)).toNat ≤ 20 ∧ recKind (base.record n) ≠ 2 ∧ base.Ready { writes := [.s 63], ready := base.interlockFree [n], park := base.interlockHeld [n] } ∧
     s.Ready { writes := [], ready := free, park := s.interlockHeld [n] } ∧ s.tvFault (s.record n) 0 = none ∧
     (base.tvFault (base.record n) 0).isSome = true ∧
     (let t := record2 (2#256 ||| (21#256 <<< 32))
      recKind (t.record n) = 2 ∧ 20 < (tileFmt (t.record n)).toNat ∧ t.interlockFree [n] = true) ∧
     (let r : W256 := 2#256 ||| (19#256 <<< 32) ||| (1#256 <<< 52) ||| (1#256 <<< 53)
      recKind r = 2 ∧ tileFmt r = 19 ∧ tileMom r = true ∧ tilePrec r = true) ∧
     (let pair := tvPair (s.record n) && (s.tvFault (s.record n) 0).isNone
      s.Ready { ok := !(pair && free && (127 : BitVec 7).toNat % 2 == 1), reads := [(.s 1, false)]
                writes := (Dest.vec 127 (if pair then 2 else 1)).regs, ready := free, park := s.interlockHeld [n] }) ∧
     (∀ y ∈ s.grp.flight, y.id < s.grp.nextId) ∧ s.captured s.gang.vf = false) := by
  repeat' apply And.intro
  all_goals first | decide | (unfold State.Ready; decide)

theorem wit_PoolInstructions :
    base.stepping = none ∧ base.Ready (poolUse 2 1) ∧ (base.readS 1).toNat = 0 ∧ base.earlierFits base.order = false ∧
    base.unreserved base.gang.die base.gang.core = 4096 ∧
    (let s := withS base [(1, 4096)]; base.gang.pool.toNat + (s.readS 1).toNat ≤ 4096 ∧ (s.readS 1).toNat ≤ s.unreserved s.gang.die s.gang.core) ∧
    (let s := withS base [(1, 4097)]; 4096 < s.gang.pool.toNat + (s.readS 1).toNat) ∧
    (let b := withS base [(1, 5)]
     let s := { b with others := [{ gang := { b.gang with idx := 1, pool := 4092 }, groups := [] }] }
     s.gang.pool.toNat + (s.readS 1).toNat ≤ 4096 ∧ s.unreserved s.gang.die s.gang.core < (s.readS 1).toNat) ∧
    (let s := { (withS base [(1, 5)]) with gang := { base.gang with pool := 5 } }
     s.gang.inUse + (s.readS 1).toNat ≤ s.gang.pool.toNat) ∧
    (let b := base.updSp fun x => { x with st := .inTsal 2 5 0 }
     let s := { b with gang := { b.gang with pool := 4091 } }
     let t := { b with gang := { b.gang with pool := 4092 } }
     s.gang.present = true ∧ s.captured s.gang.vf = false ∧ (s.grp.splits.get 0).st = .inTsal 2 5 0 ∧ (s.grp.splits.get 0).isFree = false ∧
     (s.grp.splits.get 0).held = false ∧ s.grp.isEmpty (.s 2) = false ∧ s.gang.pool.toNat + (5 : BitVec 13).toNat ≤ 4096 ∧
     (5 : BitVec 13).toNat ≤ s.unreserved s.gang.die s.gang.core ∧ s.earlierFits 0 = false ∧ 4096 < t.gang.pool.toNat + (5 : BitVec 13).toNat ∧
     s.others = [] ∧ s.peers = [] ∧ s.grp.overflow = [] ∧ s.grp.due = [] ∧ s.grp.alive = true ∧ s.grp.live ≠ 0 ∧ s.gang.pool.toNat ≠ 0 ∧
     ∀ j, j ≠ 0 → (s.grp.splits.get j).isFree = true) := by
  repeat' apply And.intro
  all_goals first | decide | (unfold State.Ready; decide)

theorem wit_Moments : base.Unwatched ∧
    (∀ t ∈ [19, 20, 0],
      (typed t).Unwatched ∧ (typed t).Ready (mUse2 31 1 2 0 1 false) ∧ (typed t).Ready (mUse2 31 1 2 0 1 true)) ∧
    (∀ t ∈ [19, 20, 0], (typed t).Ready (mUse1 31 1 1) ∧
      (typed t).Ready { reads := [(.m 1, false), (.s 1, true)], writes := [.m 31] } ∧
      (typed t).Ready { ok := (126 : BitVec 7).toNat % 2 == 0, reads := [(.v 126, false), (.v 127, false)], writes := [.m 31] }) ∧
    (∀ t ∈ [19, 20, 0],
      (typed t).Ready { ok := (126 : BitVec 7).toNat % 2 == 0, reads := [(.m 1, false)], writes := [.v 126, .v 127] } ∧
      (typed t).Ready { reads := [(.m 1, false)], writes := [.v 127] }) ∧
    ((typed 19).ty = 19 ∧ (typed 20).ty = 20 ∧ ¬(base.ty = 19 ∨ base.ty = 20)) ∧
    (fNeg 0xBF800000 = true ∧ fNeg 0x3F800000 = false ∧ fNaN 0x7FC00000 = true ∧ fNeg 0x7FC00000 = false ∧ fNaN 0 = false) ∧
    base.Ready { reads := [(.v 1, true)], writes := [.m 31] } ∧
    base.Ready { reads := [(.v 1, true), (.m 31, false)], ready := base.grp.heldStore.isNone, park := base.grp.heldStore } ∧
    (∀ f ∈ [19, 20], let r := buf 1 f 0 0x100
      checkBuf r (fun f => f == 19 || f == 20) anySpace false true = none ∧ (bufBase r).toNat % 8 = 0 ∧ bufFmt r = BitVec.ofNat 8 f) ∧
    (∃ l, (record2 (buf 1 19 0 0x100)).byLane 2 1 = .ok l) ∧ ∃ f, (record2 (buf 1 19 0 0xFFFC)).byLane 2 1 = .error f := by
  repeat' apply And.intro
  all_goals first | exact ⟨_, rfl⟩ | (unfold State.Unwatched; decide) | decide | (unfold State.Ready; decide) | (unfold State.Ready State.Unwatched; decide)

theorem wit_Queues :
    base.Ready (base.pushUse 63 8 2) ∧ (base.queueCheck 2 (base.record 2) .any).isSome = true ∧
    (∀ s ∈ [queued [], pageless true, pageless false], let r := s.record 2
     s.Ready (s.pushUse 63 8 2) ∧ s.queueCheck 2 r .any = none ∧ s.lanes.length ≠ 0 ∧ s.lanes.length ≤ qCap r ∧ s.queueRemote r = false ∧
     s.qUsed (qCtl r) + s.lanes.length ≤ qCap r) ∧
    (let s := queued []
     let r := s.record 2
     ∃ accs u, s.translateAll .write (slotAccs r (s.qTail (qCtl r)) s.lanes.length) = (.ok accs, u) ∧
       (accs.all fun a => decide (regionOf a.pa ≠ .fabric)) = true) ∧
    (let s := pageless true
     let r := s.record 2
     ∃ va l m u, s.translateAll .write (slotAccs r (s.qTail (qCtl r)) s.lanes.length) = (.hold va l m, u)) ∧
    (let s := pageless false
     let r := s.record 2
     ∃ cause va u, s.translateAll .write (slotAccs r (s.qTail (qCtl r)) s.lanes.length) = (.trap cause va, u) ∧ cause ≠ 0) ∧
    (let s := queued [(8, 1)]; qCap (s.record 2) < s.qUsed (qCtl (s.record 2)) + s.lanes.length) ∧
    (let s := (queued []).updSp fun x => { x with mask := 0 }; s.lanes.length = 0) ∧
    (let s := { (queued []) with gang := { (queued []).gang with window := [(2, queueRec false ^^^ (7#256 <<< 107))] } }
     qCap (s.record 2) < s.lanes.length ∧ s.queueCheck 2 (s.record 2) .any = none) ∧
    (∀ s ∈ [queued [], queued [(8, 1)]], s.Ready (popUse 62 2 (s.record 2)) ∧ s.stepping = none ∧ s.queueCheck 2 (s.record 2) .plain = none ∧
      s.earlierPop (qCtl (s.record 2)) s.order = false) ∧
    (queued [(8, 1)]).qWaiting 0 ≠ 0 ∧ (queued []).qWaiting 0 = 0 ∧
    (∀ m ∈ ([[], [(8, 1)]] : List (List Host.Cell)), let s := (queued m).updSp fun x => { x with st := .inPop 62 (queueRec false) 2 0 }
      s.gang.present = true ∧ s.captured s.gang.vf = false ∧ (s.grp.splits.get 0).st = .inPop 62 (queueRec false) 2 0 ∧
      (s.grp.splits.get 0).isFree = false ∧ (s.grp.splits.get 0).held = false ∧ s.earlierPop 0 0 = false ∧
      ((Dest.scal 62 (popRegs (queueRec false))).regs.any s.grp.isEmpty) = false) ∧
    (let e := { entry .qpop with dest := Dest.scal 62 2, accs := [{ lane := 0, place := .virt, addr := 0x10000, n := 16, pa := 0x1000, via := {} }] }
     (flying e).grp.entry 0 = some e ∧ e.op = .qpop ∧ e.err = 0 ∧ e.held = none ∧ e.cancelled = [] ∧ (62 : BitVec 6).toNat + 2 ≤ 64 ∧
     ∃ b, (flying e).readAccs e.accs = (.ok b, flying e)) := by
  repeat' apply And.intro
  all_goals first | exact ⟨_, rfl⟩ | exact ⟨_, _, rfl, by decide +kernel⟩ | exact ⟨_, _, _, _, rfl⟩ |
    exact ⟨_, _, _, rfl, by decide⟩ | decide +kernel | (unfold State.Ready; decide +kernel)

theorem wit_WorkInstructions :
    ((base.contexts.any fun c => c.vf == base.gang.vf) = true ∧ base.Ready { recs := [2] } ∧
      (base.queueCheck 300 (base.record 300) .node).isSome = true) ∧
    (let s := withS base [(1, 0)]
     s.Ready { reads := [(.s 1, false)], writes := [.s 2]
               ready := (s.readS 1).toNat % 128 != 0 || s.drained
               park := s.grp.heldStore }) ∧
    (let s := withS base [(1, 1)]
     s.Ready { reads := [(.s 1, false)], writes := [.s 2]
               ready := (s.readS 1).toNat % 128 != 0 || s.drained
               park := s.grp.heldStore }) ∧
    -- a node of the shared window
    (noded.Ready { recs := [256] } ∧ 256 ∉ ((noded.ctx noded.gang.vf).launches.filter fun l => l.seq == noded.gang.seq).flatMap (·.successors)) ∧
    (let s := withS (queued [(24, 1)]) [(1, 1)]
     s.Ready { reads := [(.s 1, false)], writes := [.s 3], recs := [2] } ∧ s.Ready { reads := [(.s 1, false)], recs := [2] }) ∧
    -- a push of the group before it, held by a fault
    (let e := { entry .qpush with held := some 0x10000 }
     let s := { noded with grp := { noded.grp with flight := [e], nextId := 1 } }
     e ∈ s.grp.flight ++ s.grp.rq ∧ e.op = .qpush ∧ e.id < s.grp.nextId) := by
  unfold State.Ready
  decide +kernel

theorem wit_DoneNode : noded.queueCheck 256 (noded.record 256) .node = none := by decide +kernel

theorem wit_Permits :
    let s := withS (queued [(24, 1)]) [(1, 1)]
    let r := s.record 2
    s.queueCheck 2 r .any = none ∧ s.readS 1 ≠ 0 ∧ (s.readS 1).toNat < 2 ^ 16 ∧ s.queueRemote r = false ∧
    (s.readS 1).toNat ≤ (s.qAvail (qCtl r)).toNat ∧ s.gang.holdersFull 2 = false ∧ (s.gang.holding 2).toNat < (s.readS 1).toNat ∧
    (let t := { s with gang := { s.gang with holders := [(2, 1)] } }; (t.readS 1).toNat ≤ (t.gang.holding 2).toNat) ∧
    (let t := { s with gang := { s.gang with holders := (List.range 16).map fun i => (BitVec.ofNat 10 (i + 3), 1) } }
     t.gang.holdersFull 2 = true) ∧
    ((queued []).qAvail 0).toNat < (s.readS 1).toNat ∧ 2 ^ 16 ≤ (65536 : W64).toNat := by decide +kernel

theorem wit_SchedulerMoves :
    base.gang.present = true ∧ base.captured base.gang.vf = false ∧
    (let s := base.updSp fun x => { x with age := 32 }
     s.grp.inActive = true ∧ s.grp.alive = true ∧ (s.grp.splits.get 0).ready = true ∧ (s.grp.splits.get 0).promoted = none ∧ 32 ≤ (s.grp.splits.get 0).age.toNat) ∧
    (base.updSp fun x => { x with age := 31 }).sp.age.toNat < 32 ∧
    (let s := { base with grp := { base.grp with idle := 256 } }
     s.grp.inActive = true ∧ s.grp.retired = false ∧ 256 ≤ s.grp.idle.toNat) ∧
    { base.grp with idle := 255 }.idle.toNat < 256 ∧
    (let s := { base with grp := { base.grp with inActive := false } }
     s.grp.inActive = false ∧ s.grp.alive = true ∧ (s.ctx s.gang.vf).stopped = false ∧ (s.grp.splits.get 0).ready = true ∧
     s.gang.lrec.footprint ≤ (s.fileOf s.gang.die s.gang.core).1 / 4 ∧ (s.quadGroups s.gang.die s.gang.core (quadOf s.grp.idx)).filter (·.active) = []) ∧
    (let s := { base with grp := { base.grp with live := 0 } }
     let g : Group := { Group.blank with idx := 1, live := 1 }
     s.grp.retired = false ∧ s.grp.live = 0 ∧ s.grp.due = [] ∧ s.grp.flight = [] ∧ (∃ x ∈ { s with peers := [g] }.peers, x.retired = false) ∧
     ∀ x ∈ s.peers, x.retired = true) ∧ base.grp.live ≠ 0 := by
  repeat' apply And.intro
  all_goals decide +kernel

theorem wit_Launches :
    (base.contexts.any fun c => c.vf == 1) = true ∧ (base.ctx 1).lqHead = (base.ctx 1).lqTail ∧ (waiting.contexts.any fun c => c.vf == 1) = true ∧
    (waiting.ctx 1).accepts = true ∧ (waiting.ctx 1).lqHead ≠ (waiting.ctx 1).lqTail ∧
    (waiting.ctx 1).lwImg = 0 ∧
    (∃ u, (base.updCtx 1 fun c => { c with lqTail := 1 }).readChunks 1 64 0 2 = (none, u)) ∧
    (let l := { oneGang 7 with retired := 1 }
     let s := base.updCtx 1 fun c => { c with launches := [l] }
     ((s.ctx 1).launches.find? fun l => l.seq == 7) = some l ∧ l.retired = l.lrec.gangs.toNat ∧ l.successors = [] ∧ l.node = none ∧
     l.lrec.doneAddr = 0 ∧ (oneGang 7).retired ≠ (oneGang 7).lrec.gangs.toNat) ∧
    (∃ w, waiting.writeVirt 1 none 0x9000 (toBytes 8 (7 <<< 16)) = some w) := by
  refine ⟨by decide, by decide, by decide, by decide, by decide, by decide, ⟨_, rfl⟩, by decide, ?_⟩
  exact Option.isSome_iff_exists.mp (by decide +kernel)

/-- Its record reads as one that is accepted, and its save area is mapped. -/
theorem wit_LaunchAccepted :
    let raw := (waiting.readChunks 1 64 0x8000 2).1
    let r := LaunchRec.ofBits (BitVec.ofNat 1024 (ofBytes ((raw.map List.flatten).getD [])))
    raw.isSome = true ∧ r.status false = 0 ∧ r.paramN = 0 ∧ r.rtimg = 0 ∧
    waiting.saveMapped 1 ((waiting.ctx 1).saveSize + r.saveBytes) = true := by decide +kernel

theorem wit_NodeDecisions :
    (base.contexts.any fun c => c.vf == 1) = true ∧
    ¬(((base.updCtx 1 fun c => { c with stopped := true }).ctx 1).accepts = true) ∧ ((due 1 []).ctx 1).accepts = true ∧
    256 ∈ ((due 1 []).ctx 1).triggers ∧
    -- after a launch has completed, entry 256 comes before entry 257
    (let s := (due 1 []).updCtx 1 fun c => { c with sweep := some [] }
     s.nodeTurn 1 256 = true ∧ s.nodeTurn 1 257 = false ∧ (s.ctx 1).sweep = some [] ∧ (s.nodeRecord 1 256).1 ≠ none) := by decide +kernel

theorem wit_NodeDue :
    let r := (due 1 []).record 256
    let u := ((due 1 []).nodeRecord 1 256).2
    ((due 1 []).nodeRecord 1 256).1 = some r ∧ u.decisionDue 1 256 r = true ∧ u.qDep (qCtl r) = 0 ∧ u.qWaiting (qCtl r) = 1 ∧
    u.qWaiting (qCtl r) < (qThresh r).toNat ∧ u.timerDue r = true ∧
    (due 1 []).nodeTurn 1 256 = true ∧ 256 ∈ ((due 1 []).ctx 1).triggers := by decide +kernel

theorem wit_NodeWaits :
    let r := (due 0 [(12, 1)]).record 256
    let u := ((due 0 [(12, 1)]).nodeRecord 1 256).2
    ((due 0 [(12, 1)]).nodeRecord 1 256).1 = some r ∧ u.qDep (qCtl r) ≠ 0 ∧ u.timerDue r = false ∧ u.decisionDue 1 256 r = true := by
  decide +kernel

theorem wit_PlacementNew :
    let s := toAdmit (oneGang 1)
    ∃ c a rest, (s.candidates.find? fun c => c.ref == ⟨1, 1, 0⟩) = some c ∧ c.band = none ∧ c.asks = a :: rest ∧ s.mayAdmit c = true ∧
      s.fits a 0 0 = true ∧ s.fits a 0 127 = false ∧ c.woken = false ∧
      ((s.ctx 1).launches.find? fun l => l.seq == 1) = some (oneGang 1) :=
  ⟨_, _, _, rfl, rfl, rfl, by decide +kernel, by decide +kernel, by decide +kernel, rfl, rfl⟩

theorem wit_PlacementBand :
    let l := { oneGang 1 with lrec := { (oneGang 1).lrec with band := 1 } }
    let s := toAdmit l
    ∃ c, (s.candidates.find? fun c => c.ref.vf == 1 && c.ref.seq == 1 && c.band == some 0) = some c ∧ s.mayAdmit c = true ∧
      distinct ([0] : List (BitVec 7)) = true ∧ s.fitAll 0 c.asks [0] = true ∧ s.fitAll 0 c.asks [127] = false ∧
      s.bankFree 0 l.lrec.bandBytes = true ∧ (0 : BitVec 29).toNat / dieBank = (0 : BitVec 3).toNat ∧ c.woken = false ∧
      ((s.ctx 1).launches.find? fun l => l.seq == 1) = some l :=
  ⟨_, rfl, by decide +kernel, by decide, by decide +kernel, by decide +kernel, by decide +kernel, by decide, rfl, rfl⟩

theorem wit_PlacementWoken :
    (let e := { away true with always := false }
     let s := { State.reset with evicted := [e] }
     ∃ c a rest, (s.candidates.find? fun c => c.ref == ⟨1, 1, 0⟩) = some c ∧ c.band = none ∧ c.asks = a :: rest ∧ s.mayAdmit c = true ∧
       s.fits a 0 0 = true ∧ c.woken = true ∧ (s.evicted.find? fun e => e.image.gang.isRef ⟨1, 1, 0⟩) = some e ∧ e.always = false) ∧
    (let s := { State.reset with evicted := [away false] }
     (s.evicted.find? fun e => e.image.gang.isRef ⟨1, 1, 0⟩) = some (away false) ∧ (away false).woken = false ∧ (away false).always = true) ∧
    -- one that waits for a phase of a barrier, which has come and has not
    (∀ p : BitVec 1,
      let x : Split := { base.sp with blk := .barWait 0x8000000000000100 p }
      let e := { away false with always := false, image := { gang := base.gang, groups := [{ base.grp with splits := { base.grp.splits with e0 := x } }] } }
      e.always = false ∧ e.woken = false ∧ e.image.wakes.any (State.reset.wakeMet e.image) = (p == 1)) :=
  ⟨⟨_, _, _, rfl, rfl, rfl, by decide +kernel, by decide +kernel, rfl, rfl, rfl⟩, ⟨rfl, rfl, rfl⟩, by decide +kernel⟩

theorem wit_PlacementReserves :
    -- a request for more gang memory than a core holds fits nowhere
    let s := { (toAdmit { oneGang 1 with lrec := { (oneGang 1).lrec with gmem := 0xFFFF0 } }) with time := 1000000 }
    ∃ c, (s.candidates.find? fun c => c.ref == ⟨1, 1, 0⟩) = some c ∧ c.since.toNat + 1000000 ≤ s.time.toNat ∧ s.placeable c = false ∧
      (⟨1, 1, 0⟩ : GangRef) ∉ s.reserving :=
  ⟨_, rfl, by decide +kernel, by decide +kernel, by decide⟩

theorem wit_PlacementEvicts :
    let u := blocked.unitOf { gang := blocked.gang, groups := blocked.grp :: blocked.peers }
    let may (v : EvictUnit) : Bool := (blocked.candidates.filter fun c => !blocked.placeable c).any fun c => blocked.mayEvict v c
    blocked.gang.present = true ∧ blocked.bands = [] ∧ may u = true ∧
    (blocked.residents.all fun q => !may (blocked.unitOf q) || !(blocked.unitOf q).beforeUnit u) = true ∧
    base.saveMapped 1 (base.ctx 1).saveSize = false := by decide +kernel

theorem wit_PlacementSaves : blocked.saveMapped blocked.gang.vf (blocked.ctx blocked.gang.vf).saveSize = true := by decide +kernel

theorem wit_WatchInstructions :
    (base.contexts.any fun c => c.vf == base.gang.vf) = true ∧ base.Ready { reads := [(.s 1, false)], writes := [.s 2], recs := [field (base.readS 1) 0 10] } ∧ base.Ready {} ∧
    recKind (base.record (field (base.readS 1) 0 10)) ≠ 4 ∧
    (let s := withS (record2 (watchFive 1)) [(1, 2)]
     let r := s.record (field (s.readS 1) 0 10)
     s.Ready { reads := [(.s 1, false)], writes := [.s 2], recs := [field (s.readS 1) 0 10] } ∧ recKind r = 4 ∧ watchMalformed r = false) ∧ watchMalformed 4 = true ∧
    (let c : Context := { Context.reset 2 with watch := [{ p := 0, record := watchFive 1, gang := 0, seq := 1 }] }
     let y : Resident := { gang := { base.gang with vf := 2 }, groups := [] }
     let s := { base with others := [y], contexts := [Context.reset 1, c] }
     ∃ x ∈ s.residents, ∃ y ∈ s.residents, x.gang.vf = s.gang.vf ∧ y.gang.vf ≠ s.gang.vf ∧ y.gang.die = x.gang.die ∧
       y.gang.core = x.gang.core ∧ (s.ctx y.gang.vf).watch ≠ []) ∧
    ¬(∃ x ∈ base.residents, ∃ y ∈ base.residents, x.gang.vf = base.gang.vf ∧ y.gang.vf ≠ base.gang.vf ∧ y.gang.die = x.gang.die ∧
       y.gang.core = x.gang.core ∧ (base.ctx y.gang.vf).watch ≠ []) ∧
    base.Ready { writes := [.s 63] } ∧ base.Ready { ok := (62 : BitVec 6) != 63, writes := [.s 62, .s (62 + 1)] } ∧ (base.ctx 1).wlog = [] ∧
    ((base.updCtx 1 fun c => { c with wlog := [7] }).ctx 1).wlog = 7 :: [] ∧
    base.gang.present = true ∧ base.captured base.gang.vf = false ∧ base.grp.tracectl = 0 ∧ base.grp.logs = [] ∧ base.grp.flushes = [] ∧ inHandler.grp.frame.active = true ∧
    (∀ act ∈ [1, 3], let e := { entry (.ld .plain) with accs := [acc0 4], done := 1, result := [(0, 5)], watch := [(0, watchFive act)] }
      let s := flying e
      s.grp.killed = false ∧ s.grp.logs = [] ∧ s.grp.flushes = [] ∧ e.fired = [] ∧ s.grp.frame.active = false ∧ (s.grp.flight.find? fun e => e.toEvaluate && e.writes.isEmpty) = some e ∧ wSrc (watchFive act) = 2 ∧
      ((wLanes (watchFive act)).getLsbD 0 && watchCmp (watchFive act) (e.result.get 0)) = true ∧
      (s.watchCount 0).1 + 1 = wCount (watchFive act) ∧ wAct (watchFive act) = BitVec.ofNat 3 act) ∧
    -- one whose address has fired a predicate
    (∀ act ∈ ([1, 3] : List (BitVec 3)), let f : Firing := { p := 0, src := 0, act := act, lane := 0, value := 0 }
      let e := { entry (.ld .plain) with accs := [acc0 4], done := 1, result := [(0, 5)], fired := [f] }
      let s := flying e
      s.grp.killed = false ∧ s.grp.frame.active = false ∧ (s.grp.flight.find? fun e => e.toEvaluate && e.writes.isEmpty) = some e ∧ e.watch = [] ∧ e.fired = [f]) ∧
    (let e := { entry (.ld .plain) with accs := [acc0 4], done := 1, result := [(0, 6)], watch := [(0, watchFive 1)] }
     e.toEvaluate = true ∧ ∀ q ∈ e.watch, ∀ x ∈ e.accs, wSrc q.2 = 2 →
       ((wLanes q.2).getLsbD x.lane && watchCmp q.2 (e.result.get x.lane)) = false) := by
  repeat' apply And.intro
  all_goals first
    | (intro q hq x hx; obtain rfl := List.mem_singleton.mp hq; obtain rfl := List.mem_singleton.mp hx; decide)
    | decide | (unfold State.Ready; decide)

theorem wit_DebugInstructions :
    (∀ s ∈ [agent true, agent false, base], s.Ready (dbgUse 1 true [] [.s 3]) ∧ s.Ready (dbgUse 1 ((3 : BitVec 6) != 63) [] [.s 3, .s (3 + 1)]) ∧
      s.Ready (dbgUse 1 ((3 : BitVec 6) != 63) [(.s 3, false)] [.s (3 + 1)])) ∧
    base.debugCap base.gang.vf (field (base.readS 1) 32 7) = false ∧
    (∀ h, (agent h).debugCap (agent h).gang.vf (field ((agent h).readS 1) 32 7) = true ∧
      (agent h).findTarget (agent h).gang.vf ((agent h).readS 1) ((agent h).readS 2) = some ⟨(agent h).self, 0⟩ ∧ (agent h).stepping = none) ∧
    (agent true).findTarget (agent true).gang.vf ((agent true).readS 1) 1 = none ∧
    (∀ h, ∀ u ∈ (agent h).advance.focus (agent h).self, (∀ g ∈ u.grp :: u.peers, g.tracectl = 0) ∧
      (∀ g ∈ u.grp :: u.peers, ∀ y ∈ g.allSplits, y.st = .running) ∧ ((u.grp :: u.peers).map (·.idx)).Nodup ∧
      (∀ scope ∈ ([0, 1, 2] : List (BitVec 2)), u.haltGone scope 0 = false ∧ u.haltGone scope 63 = (scope == 0) ∧ (u.debugGo scope 0).1 = h) ∧
      (∃ y ∈ u.grp.allSplits, y.mask.getLsbD 0 = true) ∧ u.grp.live.getLsbD 0 = true ∧ u.grp.splitOf 0 = some 1 ∧
      (u.grp.splits.get 1).held = h ∧ (u.grp.splits.get 1).mask = laneBit 0) ∧
    (∀ h, ((agent h).advance.focus (agent h).self).isSome = true ∧ ((agent h).focus (agent h).self).isSome = true) ∧
    ((agent true).ctx 1).stopped = false ∧ (((agent true).updCtx 1 fun c => { c with stopped := true }).ctx 1).stopped = true ∧
    { base.grp with live := 0xFFFE }.live.getLsbD 0 = false ∧ Group.blank.splitOf 0 = none ∧
    (let e := { entry (.dbgRd base.self 0 0x080) with dest := Dest.scal 62 2 }
     (flying e).grp.entry 0 = some e ∧ e.dest = Dest.scal (62 : BitVec 6).toNat 2 ∧ e.cancelled = [] ∧ ((flying e).focus base.self).isSome = true ∧
     (flying e).gang.present = true ∧ (flying e).captured (flying e).gang.vf = false) := by
  repeat' apply And.intro
  all_goals first | decide | (unfold State.Ready; decide)

theorem wit_DebugRegisters :
    base.hasReg 0x183 = true ∧ base.hasReg 0x187 = false ∧
    (codeFile 0x07F = 0 ∧ codeNum 0x07F < base.gang.lrec.nv) ∧ (codeFile 0x11F = 2 ∧ codeNum 0x11F < base.gang.lrec.nm) ∧
    (codeFile 0x0BF = 1 ∧ codeNum 0x0BF < 64) ∧ codeFile 0x186 = 3 ∧
    (let s := agent true
     s.grp.live.getLsbD 0 = true ∧ s.grp.laneSplit 0 = some (s.grp.splits.get 1) ∧ (s.grp.splits.get 1).held = true ∧ s.grp.isEmpty (.v 127) = false) ∧
    (let s := base.updSp fun x => { x with held := true }
     s.grp.allHeld = true ∧ s.grp.live ≠ 0 ∧ s.grp.laneSplit 0 = some s.sp) ∧
    (let s := { (agent true) with grp := { (agent true).grp with vEmpty := 1 } }; s.grp.isEmpty (.v 0) = true) ∧
    modeOk (21 * 64) = false ∧ modeOk 0 = true ∧ { base.grp with live := 0 }.live = 0 ∧
    (let s := agent true
     let x := s.readS 1
     s.Ready { ok := (60 : BitVec 6).toNat ≤ 60, reads := [(.s 1, false)], writes := [.s 60, .s (60 + 1), .s (60 + 2), .s (60 + 3)] } ∧
     s.debugCap s.gang.vf (field x 32 7) = true ∧
     ¬(field x 0 32 ≠ (0 : BitVec 32) ∨ x.getLsbD 39 = true ∨ field x 56 8 ≠ (0 : BitVec 8)) ∧
     (s.heldSplits s.gang.vf).length = 1 ∧ ((s.heldSplits s.gang.vf)[0]?).isSome = true) ∧
    base.debugCap base.gang.vf 0 = false ∧ (agent false).heldSplits 1 = [] ∧ (1 : W64).getLsbD 0 = true := by
  repeat' apply And.intro
  all_goals first | decide | (unfold State.Ready; decide)

theorem wit_TraceAndSampling :
    (base.Ready { reads := [(.s 1, false)] } ∧ (base.tracing && base.grp.tracectl.getLsbD 3) = false) ∧
    ((traced 0).Ready { reads := [(.s 1, false)] } ∧ (traced 0).tracing = true ∧ (traced 0).grp.tracectl.getLsbD 3 = true ∧
      (traced 0).grp.quiet = false ∧ (traced 0).grp.brBits = []) ∧
    ((traced 64).Ready { reads := [(.s 1, false)] } ∧ (traced 64).tracing = true ∧ (traced 64).grp.tracectl.getLsbD 3 = true ∧
      (traced 64).grp.quiet = false ∧ (traced 64).grp.brBits = []) ∧
    (sinkAt (traced 64).sinks 0).fits 14 = true ∧ (sinkAt (traced 0).sinks 0).fits 14 = false ∧
    base.gang.present = true ∧ base.captured base.gang.vf = false ∧ base.tracing = false ∧
    (let s := { (traced 64) with cycles := 65536 }; (s.cycles - s.grp.tsAt).toNat = 65536 ∧ s.grp.brBits = []) ∧
    (let s := { (traced 64) with cycles := 65535 }; (s.cycles - s.grp.tsAt).toNat = 65535) ∧
    ((base.samplers[0]?).getD Sampler.reset).period = none ∧
    (let x : Sampler := { Sampler.reset with ctl := 40 }
     let s := { base with samplers := base.samplers.set 0 x, cycles := 256
                          sampleSinks := base.sampleSinks.set 0 { base := 0x1000, size := 64, tail := 0, head := 0 } }
     x.period.isSome = true ∧ (x.taken.get 0).toNat < (s.cycles - x.start).toNat / (x.period.getD 1) ∧
     (nextSlot (x.next.get 0).toNat (s.rotation 0 0 0)).isSome = true ∧ (sinkAt s.sampleSinks 0).fits 32 = true ∧ s.rotation 0 0 1 = [] ∧
     (sinkAt base.sampleSinks 0).fits 32 = false ∧ (0 : Nat) / (x.period.getD 1) ≤ (x.taken.get 0).toNat) := by
  repeat' apply And.intro
  all_goals first | decide +kernel | (unfold State.Ready; decide +kernel)

theorem wit_HostFaults :
    (base.contexts.any fun c => c.vf == 1) = true ∧
    (let s := { (base.updCtx 1 fun c => { c with forward := [(0, 0)] }) with faults := [faultOf 0] }
     (s.ctx 1).forward = [(0, 0)] ∧ s.faultAt 0 0 = some (faultOf 0) ∧ ((s.ctx 1).fqTail - 0).toNat ≠ 2 ^ 4 ∧
     ((s.ctx 1).fqTail - (0xFFFFFFFFFFFFFFF0 : W64)).toNat = 2 ^ 4) ∧
    (base.ctx 1).forward = [] ∧ base.faultAt 0 0 = none ∧
    (∀ op ∈ ([.ld .plain, .cpB] : List MemOp),
      let e := { entry op with held := some 0x20000 }
      let s0 := flying e
      let s := { s0 with faults := [faultOf 0] }
      s.faultAt 0 0 = some (faultOf 0) ∧ (faultOf 0).vf = 1 ∧ (faultOf 0).kind ≠ 1 ∧ s.gang.present = true ∧ s.gang.vf = 1 ∧ s.grp.killed = false ∧ s.peers = [] ∧
      (s.ctx 1).stopped = false ∧
      (∀ r ∈ s.others, r.gang.vf ≠ 1) ∧ (s.grp.flight.filter fun e => e.pages.contains (faultOf 0).va) = [e] ∧ e.op.whole = false ∧
      e.op.isEngine = (op == .cpB)) ∧
    (let s := { (base.updSp fun x => { x with st := .parked 0x20000 true }) with faults := [faultOf 0] }
     (s.grp.splits.get 0).st = .parked (faultOf 0).va true ∧ (s.grp.splits.get 0).isFree = false) ∧
    (let e := { entry (.ld .plain) with accs := [{ lane := 0, place := .virt, addr := 0x20010, n := 4, pa := 0, via := {} }] }
     let s := flying e
     s.gang.vf = 1 ∧ e ∈ s.grp.flight ∧ ∃ a ∈ e.openAccs, a.place = .virt ∧ pageOf a.addr = pageOf 0x20000) := by
  repeat' apply And.intro
  all_goals decide +kernel

theorem wit_MigrationAndRetry :
    base.faultAt 0 0 = none ∧
    touched.faultAt 0 0 = some (faultOf 1) ∧ (faultOf 1).kind = 1 ∧ touched.gang.present = true ∧
    (touched.contexts.any fun c => c.vf == (faultOf 1).vf) = true ∧ touched.tier1Free = [] ∧
    (touched.ctx 1).forward = [] ∧ ((touched.ctx 1).fqTail - (touched.ctx 1).fqHead).toNat ≠ 2 ^ 4 ∧
    (let s := touched.updCtx 1 fun c => { c with fqTail := 16 }; ((s.ctx 1).fqTail - (s.ctx 1).fqHead).toNat = 2 ^ 4) ∧
    (let e := { entry (.ld .plain) with held := some 0x20000 }
     let s := flying e
     s.gang.present = true ∧ s.captured s.gang.vf = false ∧ s.grp.killed = false ∧ (s.ctx s.gang.vf).stopped = false ∧ s.grp.entry 0 = some e ∧ e.held = some 0x20000 ∧
     (s.grp.allSplits.all fun y => y.st == .running) = true ∧ s.outstanding 0x20000 = false ∧ e.op.isEngine = false ∧ e.op.whole = false ∧
     { s with faults := [faultOf 0] }.outstanding 0x20000 = true) ∧
    MemOp.cpB.isEngine = true := by
  repeat' apply And.intro
  all_goals decide +kernel

theorem wit_Migrates :
    -- one free frame of the page's size, and an access that the old translation has let through
    (let s := { touched with tier1Free := [(0, 0x80000)] }
     ∃ l e at_, walk s.mem s.uncorrectable (faultOf 1).va 4 (s.ctx 1).root = .leaf l e at_ ∧ pteMOT e = true ∧ pteD e = true ∧
      (BitVec.ofNat 3 l, (0x80000 : BitVec 52)) ∈ s.tier1Free ∧ s.letThrough (pteAddr e) (2 ^ pageBits l) = false ∧
      regionOf 0x80000 = .tier1 ∧ (0x80000 : BitVec 52).toNat % 2 ^ pageBits l = 0 ∧ (BitVec.ofNat 3 l, (0x90000 : BitVec 52)) ∉ s.tier1Free ∧
      (let f := { entry (.ld .plain) with accs := [{ lane := 0, place := .virt, addr := 0x20010, n := 4, pa := pteAddr e, via := {} }] }
       ({ flying f with mem := s.mem }).letThrough (pteAddr e) (2 ^ pageBits l) = true)) ∧ touched.memWf = true ∧
    (∀ r ∈ touched.residents, ∀ g ∈ r.groups, ∀ e ∈ g.flight, (faultOf 1).va ∉ e.pages) := by
  refine ⟨⟨_, _, _, rfl, ?_⟩, ?_⟩ <;> decide +kernel

theorem wit_RemoteAccesses :
    (State.reset.reach 5 0x100 8 true = none) ∧
    (∀ kind ∈ ([.load 8, .store [1, 2], .atomic .add 0 1 0] : List RemoteKind), ∀ bank ∈ [true, false],
      ((exported bank).reach 5 0x40 (match kind with | .load n => n | .store b => b.length | .atomic _ f _ _ => typeBits f / 8)
        (match kind with | .load _ => false | _ => true)).isSome = true ∧ (exported bank).uncorrectable = []) ∧
    (let s := { (exported false) with uncorrectable := [lineOf 0x40] }
     ∃ pa key, s.reach 5 0x40 8 false = some (.phys pa key) ∧ s.uncorrectable.contains (lineOf (pa + BitVec.ofNat 52 (8 - 1))) = true) ∧
    ((0x1000 : W64).toNat < 2 ^ 52 ∧ State.reset.hostAddr none 0x1000 true = (some (0x1000, { }), State.reset) ∧
      (∃ u, State.reset.hostAddr none 0xFFF0000000000000 true = (none, u)) ∧ regionOf 0x1000 = .tier1 ∧ (0x1000 : BitVec 52).toNat % 64 + 64 ≤ 64 ∧
      regionOf 0x4000000000000 ≠ .tier1 ∧ 64 < (0x1001 : BitVec 52).toNat % 64 + 64) ∧
    (∀ bank key a n, (exported bank).KeyFits key a n) ∧ (∀ key a n, State.reset.KeyFits key a n) := by
  refine ⟨by decide +kernel, by decide +kernel, ⟨0x40, 0, by decide +kernel⟩, ⟨by decide, rfl, ⟨_, rfl⟩, by decide +kernel⟩,
    fun _ _ _ _ => keyFits_of_none _ _ _ _ rfl, fun _ _ _ => keyFits_of_none _ _ _ _ rfl⟩

theorem wit_RemoteQueues :
    (let s := exported true
     pushOk pushed = true ∧ s.ctlReached 5 pushed.ctl = true ∧ (s.bankOwner pushed.ctl.toNat 32).isSome = true ∧ pushed.ctl.toNat + 32 ≤ 2 ^ 29 ∧
     s.qUsed pushed.ctl + 2 ≤ 2 ^ pushed.capLog.toNat ∧ (slotReaches s 5 pushed (s.qTail 0) 0 pushed.records).isSome = true ∧
     slotReaches s 5 { pushed with slots := 4096 } (s.qTail 0) 0 pushed.records = none) ∧
    (let s := { (exported true) with bank := [(8, 3)] }; 2 ^ pushed.capLog.toNat < s.qUsed pushed.ctl + 2) ∧
    State.reset.ctlReached 5 0 = false ∧ pushOk { pushed with recBytes := 8 } = false := by
  repeat' apply And.intro
  all_goals decide +kernel

theorem wit_RemotePermits :
    let p : RemotePmt := { get := true, context := 1, gang := ⟨1, 1, 0⟩, queue := 2, ctl := 0, count := 1 }
    let s := { (exported true) with bank := [(24, 1)] }
    let h : RemoteHolder := { device := 5, context := 1, gang := ⟨1, 1, 0⟩, ctl := 0, count := 1 }
    let t := { s with remoteHolders := [h], down := [5] }
    s.ctlReached 5 p.ctl = true ∧ (s.bankOwner p.ctl.toNat 32).isSome = true ∧ (p.count.setWidth 32 : W32) ≠ 0 ∧
    (p.count.setWidth 32 : W32).toNat ≤ (s.qAvail p.ctl).toNat ∧ s.remoteHeld 5 p = 0 ∧ s.remoteHolders.length < 256 ∧
    ((exported true).qAvail p.ctl).toNat < (p.count.setWidth 32 : W32).toNat ∧
    (p.count.setWidth 32 : W32).toNat ≤ (t.remoteHeld 5 p).toNat ∧ (s.remoteHeld 5 p).toNat < (p.count.setWidth 32 : W32).toNat ∧
    256 ≤ { s with remoteHolders := List.replicate 256 h }.remoteHolders.length ∧ s.down.contains 5 = false ∧ t.down.contains 5 = true ∧
    (t.remoteHolders.filter fun h => h.device == 5) = [h] ∧ (t.bankOwner h.ctl.toNat 32).isSome = true ∧ (5 : BitVec 12) ≠ s.device := by
  decide +kernel

theorem wit_TimeAlignment :
    let s := { State.reset with time := 10000 }
    s.time.toNat < (10001 : W64).toNat ∧ s.slewedAt.toNat + 10000 ≤ s.time.toNat ∧ (10000 : W64).toNat ≤ s.time.toNat ∧
    { State.reset with time := 9999 }.time.toNat < s.slewedAt.toNat + 10000 := by decide +kernel

theorem wit_HostRegisters :
    (base.contexts.any fun c => c.vf == 1) = true ∧ (base.ctx 1).launches = [] ∧ (base.ctx 1).forward = [] ∧
    (base.updCtx 1 fun c => { c with launches := [oneGang 1] }).contexts ≠ base.contexts ∧
    ((base.updCtx 1 fun c => { c with launches := [oneGang 1] }).ctx 1).launches ≠ [] ∧ (2 : W64).getLsbD 0 = false ∧ (1 : W64).getLsbD 0 = true ∧
    base.gang.present = true ∧ base.gang.vf = 1 ∧ (∀ r ∈ base.others, r.gang.vf ≠ 1) ∧ (∀ e ∈ base.evicted, e.image.gang.vf ≠ 1) := by decide

/-- The leaf of the tables of `saveable`: the first 2^30 bytes, as they lie. -/
def leafE : BitVec 128 := 0x1f00000000000000003

theorem walkIndex_low (va : W64) (h : va.toNat < 2 ^ 30) : walkIndex va 4 = 0 ∧ walkIndex va 3 = 0 ∧ walkIndex va 2 = 0 := by
  have f : ∀ p, 30 ≤ p → (field va p 9 : BitVec 9).toNat = 0 := fun p hp => by
    have : va.toNat < 2 ^ p := Nat.lt_of_lt_of_le h (Nat.pow_le_pow_right (by decide) hp)
    simp [field, Nat.shiftRight_eq_div_pow, Nat.div_eq_of_lt this]
  exact ⟨f 48 (by decide), f 39 (by decide), f 30 (by decide)⟩

theorem walk_low (va : W64) (h : va.toNat < 2 ^ 30) : walk saveable.mem [] va 4 0 = .leaf 2 leafE 0x400 := by
  have e : ∀ a : BitVec 52, ∀ n, ofBytes (SMap.getRange saveable.mem a.toNat 16) = n → BitVec.ofNat 128 (ofBytes (SMap.getRange saveable.mem a.toNat 16)) = BitVec.ofNat 128 n :=
    fun a n h => by rw [h]
  have h0 := e 0 513 (by decide +kernel)
  have h1 := e 512 1025 (by decide +kernel)
  have h2 := e 1024 9149585060559937601539 (by decide +kernel)
  obtain ⟨i4, i3, i2⟩ := walkIndex_low va h
  unfold walk
  simp only [i4, Nat.mul_zero]
  rw [show (0 : BitVec 52) + BitVec.ofNat 52 0 = 0 from rfl, h0]
  rw [show pteAddr (BitVec.ofNat 128 513) = 512 by decide]
  simp (decide := true) only [if_false]
  unfold walk
  simp only [i3, Nat.mul_zero]
  rw [show (512 : BitVec 52) + BitVec.ofNat 52 0 = 512 from rfl, h1]
  rw [show pteAddr (BitVec.ofNat 128 1025) = 1024 by decide]
  simp (decide := true) only [if_false]
  unfold walk
  simp only [i2, Nat.mul_zero]
  rw [show (1024 : BitVec 52) + BitVec.ofNat 52 0 = 1024 from rfl, h2]
  simp (decide := true) only [if_false, if_true]

/-- The state that captures: the saveable one, its context standing still. -/
def capturing : State := saveable.updCtx 1 fun c => { c with csStat := 1 }

/-- An address below 2^30 is written to its own place of tier 1, and nothing is marked. -/
theorem translate_low (s : State) (va : W64) (h : va.toNat < 2 ^ 30) (hm : s.mem = saveable.mem) (hu : s.uncorrectable = [])
    (hr : (s.ctx 1).root = 0) (hk : (s.ctx 1).keys.contains 0 = true) :
    ∃ pa v, s.translate 1 none va .write = (.ok pa v, s) ∧ regionOf pa = .tier1 := by
  have hf : (field va 57 7 : BitVec 7) = 0 := by
    apply BitVec.eq_of_toNat_eq
    simp [field, Nat.shiftRight_eq_div_pow, Nat.div_eq_of_lt (Nat.lt_trans h (by decide : 2 ^ 30 < 144115188075855872))]
  have hw : s.walkVa 1 none va = .leaf 2 leafE 0x400 := by
    unfold State.walkVa State.walkFrom; rw [hm, hu]; simp only [hr]; exact walk_low va h
  refine ⟨pteAddr leafE + BitVec.ofNat 52 (va.toNat % 2 ^ pageBits 2), { mirror := pteMirror leafE, key := some (pteKey leafE) }, ?_, ?_⟩
  · unfold State.translate
    simp only [hf, ne_eq, not_true_eq_false, if_false, State.tlbFind, hw, State.cacheTables]
    unfold State.useLeaf
    rw [show pteKey leafE = 0 by decide, hk]
    simp (decide := true) only [if_false]
    rfl
  · rw [show pteAddr leafE = 0#52 by decide, show pageBits 2 = 30 from rfl, Nat.mod_eq_of_lt h]
    have hn : (0#52 + BitVec.ofNat 52 va.toNat).toNat = va.toNat := by
      rw [BitVec.zero_add, BitVec.toNat_ofNat]; omega
    have hb : ∀ i, 30 ≤ i → (0#52 + BitVec.ofNat 52 va.toNat).getLsbD i = false := fun i hi => by
      rw [← BitVec.testBit_toNat, hn]
      exact Nat.testBit_lt_two_pow (Nat.lt_of_lt_of_le h (Nat.pow_le_pow_right (by decide) hi))
    unfold regionOf
    rw [hb 51 (by decide), hb 50 (by decide), hn]
    simp only [Bool.false_eq_true, if_false]
    rw [if_pos (by omega)]

theorem placeVirt_low (s : State) (hm : s.mem = saveable.mem) (hu : s.uncorrectable = [])
    (hr : (s.ctx 1).root = 0) (hk : (s.ctx 1).keys.contains 0 = true) :
    ∀ (b : List Byte) (va : W64), va.toNat + b.length ≤ 2 ^ 30 →
      ∃ l, s.placeVirt 1 none va b = (some l, s) ∧ ∀ x ∈ l, regionOf x.1 = .tier1
  | [], _, _ => ⟨[], rfl, by simp⟩
  | x :: t, va, h => by
    simp only [List.length_cons] at h
    obtain ⟨pa, v, h1, h2⟩ := translate_low s va (by omega) hm hu hr hk
    obtain ⟨l, h3, h4⟩ := placeVirt_low s hm hu hr hk t (va + 1) (by rw [BitVec.toNat_add]; simp; omega)
    refine ⟨(pa, v, x) :: l, ?_, ?_⟩
    · simp only [State.placeVirt, h1, h3]
    · simpa [h2] using h4

theorem writePlaces_low : ∀ (l : List (BitVec 52 × Via × Byte)) (s : State), (∀ x ∈ l, regionOf x.1 = .tier1) →
    ∃ t, State.writePlaces l s = (false, t)
  | [], s, _ => ⟨s, rfl⟩
  | (pa, v, b) :: t, s, h => by
    have h1 := h _ (List.mem_cons_self ..)
    have : s.writePa pa v [b] = (none, s.writeBoth pa v [b]) := by simp [State.writePa, h1]
    simp only [State.writePlaces, this]
    exact writePlaces_low t _ fun x hx => h x (List.mem_cons_of_mem _ hx)

theorem writeVirt_low (s : State) (hm : s.mem = saveable.mem) (hu : s.uncorrectable = [])
    (hr : (s.ctx 1).root = 0) (hk : (s.ctx 1).keys.contains 0 = true) (b : List Byte) (va : W64) (h : va.toNat + b.length ≤ 2 ^ 30) :
    ∃ t, s.writeVirt 1 none va b = some t := by
  obtain ⟨l, h1, h2⟩ := placeVirt_low s hm hu hr hk b va h
  obtain ⟨t, h3⟩ := writePlaces_low l s h2
  exact ⟨t, by unfold State.writeVirt; rw [h1]; simp only [h3]⟩

theorem wit_CaptureAndRestore :
    (base.ctx 1).csStat = 0 ∧ base.saveMapped 1 (base.ctx 1).saveSize = false ∧ saveable.saveMapped 1 (saveable.ctx 1).saveSize = true ∧ (base.contexts.any fun c => c.vf == 1) = true ∧
    (base.updCtx 1 fun c => { c with csStat := 1, launches := [{ oneGang 1 with retired := 1 }] }).still 1 = false ∧
    (let s := base.updCtx 1 fun c => { c with csStat := 1 }; s.still 1 = true ∧ s.saveMapped 1 (s.ctx 1).saveSize = false) ∧
    (8 : BitVec 4) ≠ 0 ∧ (8 : BitVec 4) ≠ 1 ∧ (8 : BitVec 4) ≠ 3 ∧ base.captured 1 = false := by
  repeat' apply And.intro
  all_goals decide +kernel

/-- A capture whose bytes can all be written. -/
theorem wit_CaptureWrites :
    (capturing.ctx 1).csStat = 1 ∧ capturing.still 1 = true ∧ capturing.saveMapped 1 (capturing.ctx 1).saveSize = true ∧
    ∃ w, ({ capturing with free := capturing.free + 1 } : State).writeVirt 1 none (capturing.ctx 1).csBase
      ((List.range (capturing.ctx 1).saveSize).map (Config.imageByte capturing.free)) = some w := by
  refine ⟨by decide +kernel, by decide +kernel, by decide +kernel, ?_⟩
  apply writeVirt_low
  · rfl
  · rfl
  · decide +kernel
  · decide +kernel
  · rw [List.length_map, List.length_range]; decide +kernel

theorem wit_Resumes :
    let s := base.updCtx 1 fun c => { c with csStat := 2, stopped := true }
    let e := { entry (.ld .plain) with err := 0, word := 0x20382100 }
    let t := { s with grp := { s.grp with rq := [e] } }
    s.captured 1 = true ∧ s.gang.present = true ∧ (s.residents.all fun r => r.groups.all fun g => g.rq.isEmpty && g.behind.isEmpty) = true ∧
    t.captured 1 = true ∧ t.gang.vf = 1 ∧ t.peers = [] ∧ (∀ r ∈ t.others, r.gang.vf ≠ 1) ∧ t.grp.frame.active = false ∧ t.grp.rq = [e] ∧ t.grp.behind = [] ∧
    e.err = 0 ∧ e.op.whole = false ∧ decode e.word ≠ none := by decide +kernel

/-- A module without gangs whose context 1 has the mapped save area, and some images written before. -/
def targetWith (l : List ContextImage) : State := { State.reset with mem := saveable.mem, contexts := [saveable.ctx 1], images := l }

theorem wit_RestoreAreas :
    let stands (s : State) (x : ContextImage) : Bool := (s.readVirt 1 none (s.ctx 1).csBase x.area.length).1 == some x.area
    ((targetWith []).ctx 1).launches = [] ∧ ((targetWith []).ctx 1).csStat ≠ 1 ∧
    stands (targetWith [kept]) kept = true ∧ (targetWith [kept]).images = [kept] ∧
    stands (targetWith [{ kept with area := [3, 2] }]) { kept with area := [3, 2] } = false := by decide +kernel

theorem wit_Restores :
    let s := targetWith [kept]
    let u := s.updCtx 1 fun k => k.restored kept.ctx
    (s.ctx 1).launches = [] ∧ (s.ctx 1).csStat ≠ 1 ∧ kept.bands = [] ∧ kept.gangs = [{ gang := base.gang, groups := [base.grp] }] ∧
    kept.evicted = [] ∧ kept.ctx.regions = [] ∧ kept.bank = [] ∧ s.gang.vf ≠ 1 ∧ (∀ q ∈ s.others, q.gang.vf ≠ 1) ∧
    (∀ g ∈ [base.grp], g.rq = [] ∧ g.behind = []) ∧ [base.grp] ≠ [] ∧ ([base.grp].map (·.idx)).Nodup ∧ base.gang.present = true ∧
    ({ s with gang := { base.gang with vf := 2 } }).gang.present = true ∧
    u.canPlace 1 kept [] kept.gangs = true ∧
    u.fits { vf := 1, lrec := base.gang.lrec, segs := 0 } 0 0 = true ∧ u.fits { vf := 1, lrec := base.gang.lrec, segs := 0 } 0 127 = false ∧
    -- an image whose gang wants more gang memory than a core has, and one of a region that another context holds
    (let big : Resident := { gang := { base.gang with lrec := { base.gang.lrec with gmem := 0xFFFF0 } }, groups := [base.grp] }
     u.canPlace 1 { kept with gangs := [big] } [] [big] = false) ∧
    (({ s with contexts := [{ saveable.ctx 1 with regions := [(0, 64)] }] }).bankFree 0 64 = false) := by decide +kernel

theorem wit_RestoreWhole : ∀ x ∈ (targetWith [kept]).service.repaired, x.1 ≠ (0, 0) := fun x h => absurd (h : x ∈ []) List.not_mem_nil

theorem wit_RestoreRepaired : let r := { (targetWith [kept]).service with repaired := [((0, 0), (1, 1))] }; ∃ x ∈ r.repaired, x.1 = (0, 0) :=
  ⟨((0, 0), (1, 1)), List.mem_singleton.mpr rfl, rfl⟩

/-- The keys of the tables are those granted. -/
theorem wit_RestoreKeys : (tableKeys [(0, 3)] 4 0).all ([0] : List (BitVec 13)).contains = true ∧
    (tableKeys [(0, 3)] 4 0).all ([] : List (BitVec 13)).contains = false := by decide +kernel

theorem wit_DebugMirror :
    (base.contexts.any fun c => c.vf == 1) = true ∧ (base.ctx 1).dmStat.getLsbD 63 = false ∧
    ((base.updCtx 1 fun c => { c with dmStat := dmBUSY }).ctx 1).dmStat.getLsbD 63 = true ∧
    (let s := base.updCtx 1 fun c => { c with dmt1 := 1 }; s.findTarget 1 (s.ctx 1).dmt0 (s.ctx 1).dmt1 = none) ∧
    (∀ h, let s := agent h
      s.findTarget 1 (s.ctx 1).dmt0 (s.ctx 1).dmt1 = some ⟨s.self, 0⟩ ∧ s.self.gang.vf = 1 ∧ (s.focus s.self).isSome = true ∧
      (s.ctx 1).dmStat.getLsbD 63 = false ∧
      ∀ u ∈ s.focus s.self, (∀ g ∈ u.grp :: u.peers, g.tracectl = 0) ∧ u.haltGone 0 0 = false ∧ u.haltGone 0 63 = true ∧ (u.debugGo 0 0).1 = h ∧
        ((u.grp :: u.peers).map (·.idx)).Nodup ∧
        (∀ g ∈ u.grp :: u.peers, ∀ y ∈ g.allSplits, y.st = .running) ∧ u.grp.splitOf 0 = some 1 ∧ (u.grp.splits.get 1).held = h ∧
        (u.grp.splits.get 1).mask = laneBit 0 ∧ (s.ctx 1).stopped = false) := by decide +kernel

theorem wit_Repairs :
    (base.contexts.any fun c => c.vf == 1) = true ∧ (base.ctx 1).launches = [] ∧ base.gang.present = true ∧ base.gang.vf = 1 ∧
    (∀ r ∈ base.others, r.gang.vf ≠ 1) ∧ (∀ e ∈ base.evicted, e.image.gang.vf ≠ 1) ∧ (64 : BitVec 27) ≠ 0 ∧
    base.bankFree 0 64 = true ∧ base.bankFree 1 64 = false ∧
    ((0 : BitVec 7).toNat < coreCount ∧ coreCount ≤ (127 : BitVec 7).toNat ∧ base.service.failed.contains (0, 0) = false) ∧ base.bands = [] ∧
    (base.service.spares.filter fun x => x.1 == 0).length < 4 ∧
    -- a core with gangs that stand still once it fails, and one without gangs
    (({ base with service := { base.service with failing := [(0, 0)] } }).gangsStill (base.gangsOn 0 0) = true ∧ base.gangsOn 0 1 = [] ∧
      base.gang.die = 0 ∧ base.gang.core = 0 ∧ (∀ x ∈ base.grp :: base.peers, x.flight = [] ∧ x.rq = [])) ∧
    -- a load that may be performed keeps a gang from standing still
    (let s := { (flying { entry (.ld .plain) with accs := [acc0 4] }) with service := { base.service with failing := [(0, 0)] } }; s.gangsStill (s.gangsOn 0 0) = false) ∧
    (let s := { base with service := { base.service with spares := [(0, 1), (0, 2), (0, 3), (0, 4)] } }
     4 ≤ (s.service.spares.filter fun x => x.1 == 0).length ∧ s.gang.die = 0 ∧ s.gang.core = 0 ∧ s.bands = [] ∧
     ∀ r ∈ s.others, r.gang.die ≠ 0 ∨ r.gang.core ≠ 0) := by decide +kernel

theorem wit_SoftErrors :
    State.reset.focus base.self = none ∧ base.focus base.self = some base ∧ base.service.softErrors.contains (base.self, 0) = false ∧
    (let s := { base with service := { base.service with softErrors := [(base.self, 0)] } }
     s.service.softErrors.contains (base.self, 0) = true ∧ s.service.failing.contains (0, 0) = false ∧
     { s.service with failing := [(0, 0)] }.failing.contains (0, 0) = true) := by decide +kernel

theorem wit_PowerAndManagement :
    { State.reset with power := .off }.power = .off ∧ State.reset.power = .on ∧ { State.reset with power := .frozen 2 }.power = .frozen 2 ∧
    (∀ c, State.reset.power ≠ .frozen c) ∧
    regionOf 0x4000000000000 = .host ∧ State.reset.memWf = true ∧ (1500 ≤ (1500 : BitVec 16).toNat ∧ (4800 : BitVec 16).toNat ≤ 4800) ∧
    ((1499 : BitVec 16).toNat < 1500 ∧ 4800 < (4801 : BitVec 16).toNat) ∧ { State.reset with inactive := some 7 }.inactive = some 7 ∧
    { State.reset with inactive := none }.inactive = none ∧ (State.reset.contexts.any fun c => c.vf == 1) = true ∧
    ((95 : BitVec 16).toNat < 96 ∧ 96 ≤ (96 : BitVec 16).toNat) ∧ ((11 : BitVec 4).toNat < 12 ∧ 12 ≤ (12 : BitVec 4).toNat) := by
  refine ⟨rfl, rfl, rfl, fun c => nofun, ?_⟩
  decide +kernel

/-- A page of tier 2 at 0x2_0000, its leaf in the table at 2048. -/
def tierTwo : Leaf := { vf := 1, va := 0x20000, level := 0, pte := (0x5F0#128 <<< 64) ||| 0x40000000003, at_ := 2080 }

/-- A module with that page mapped, and no free frame of tier 1. -/
def inTierTwo : State :=
  { base with
    mem := [(0, 1), (1, 2), (512, 1), (513, 4), (1024, 1), (1025, 6), (1536, 1), (1537, 8), (2080, 3), (2085, 4), (2088, 0xF0), (2089, 5)] }

/-- The entry of a table at an index. -/
def entryIn (mem : List Host.Cell) (table : BitVec 52) (i : Nat) : BitVec 128 :=
  BitVec.ofNat 128 (ofBytes (SMap.getRange mem (table + BitVec.ofNat 52 (16 * i)).toNat 16))

/-- What the table that a valid entry names holds, the table that holds the entry holds. -/
theorem tableLeaves_down {mem : List Host.Cell} {vf : BitVec 7} {l : Nat} {table : BitVec 52} {va : W64} {x : Leaf} (i : Nat) (hi : i < 512)
    (hv : pteV (entryIn mem table i) = true) (hl : pteLeaf (entryIn mem table i) = false)
    (hx : x ∈ tableLeaves mem vf l (pteAddr (entryIn mem table i))
      (va ||| BitVec.ofNat 64 (i <<< indexBit (l + 1)))) :
    x ∈ tableLeaves mem vf (l + 1) table va := by
  unfold tableLeaves
  refine List.mem_flatMap.mpr ⟨i, List.mem_range.mpr (by rw [if_neg (Nat.succ_ne_zero l)]; exact hi), ?_⟩
  unfold entryIn at hv hl hx
  simp only [hv, hl, Bool.not_true, if_neg Bool.false_ne_true]
  exact hx

theorem tierTwo_leaf : tierTwo ∈ tableLeaves inTierTwo.mem 1 4 0 0 := by
  refine tableLeaves_down 0 (by decide) (by decide) (by decide) ?_
  refine tableLeaves_down 0 (by decide) (by decide) (by decide) ?_
  refine tableLeaves_down 0 (by decide) (by decide) (by decide) ?_
  refine tableLeaves_down 0 (by decide) (by decide) (by decide) ?_
  decide +kernel

theorem wit_ChannelPages : inTierTwo.tier1Free = [] ∧ (∀ channel, ({ base with contexts := [] }).channelPages channel = []) ∧
    ∃ channel : BitVec 16, channel.toNat < 96 ∧ inTierTwo.channelPages channel ≠ [] := by
  refine ⟨rfl, fun _ => rfl, BitVec.ofNat 16 (Config.lpddrChannel (pteAddr tierTwo.pte)).val, ?_, fun h => ?_⟩
  · have := (Config.lpddrChannel (pteAddr tierTwo.pte)).isLt
    simp only [BitVec.toNat_ofNat]; omega
  · have hc : Context.reset 1 ∈ inTierTwo.contexts := by decide
    have hr : (Context.reset 1).root = 0 ∧ (Context.reset 1).vf = 1 := by decide
    have hi : tierTwo.inChannel (BitVec.ofNat 16 (Config.lpddrChannel (pteAddr tierTwo.pte)).val) = true := by
      have := (Config.lpddrChannel (pteAddr tierTwo.pte)).isLt
      simp only [Leaf.inChannel, Bool.and_eq_true, List.any_eq_true]
      refine ⟨by decide, 0, List.mem_range.mpr (by decide), ?_⟩
      simp only [BitVec.toNat_ofNat, beq_iff_eq]
      rw [Nat.mod_eq_of_lt (by omega)]
      exact congrArg (fun a => (Config.lpddrChannel a).val) (by decide)
    have : tierTwo ∈ inTierTwo.channelPages (BitVec.ofNat 16 (Config.lpddrChannel (pteAddr tierTwo.pte)).val) := by
      refine List.mem_flatMap.mpr ⟨_, hc, List.mem_filter.mpr ⟨?_, hi⟩⟩
      rw [hr.1, hr.2]; exact tierTwo_leaf
    rw [h] at this
    exact absurd this (by simp)

/-! ## Witnesses of single clauses -/

/-- Two finite numbers of each float format, one the negative of the other, zeros of both signs, and results at, beyond and below the
ends of the format. -/
theorem wit_FloatRounding :
    (∀ p ∈ ([(8, 32, 23), (9, 64, 52), (10, 16, 10), (11, 16, 7)] : List (BitVec 5 × Nat × Nat)),
      let (t, w, mb) := p
      let top := 2 ^ (w - 1) - 2 ^ mb - 1
      let S := 2 ^ (w - 1)
      ((t = 8 ∧ w = 32 ∧ mb = 23) ∨ (t = 9 ∧ w = 64 ∧ mb = 52) ∨ (t = 10 ∧ w = 16 ∧ mb = 10) ∨ (t = 11 ∧ w = 16 ∧ mb = 7)) ∧
      (Alu.mk t 3 false false).ftz = false ∧ (∀ x ∈ [0, S, 1, S + 1, top, S + top], x < 2 ^ w ∧ x % 2 ^ (w - 1) ≤ top) ∧
      units w mb 1 = 1 ∧ units w mb (S + 1) = -1 ∧ units w mb 0 = 0 ∧ units w mb S = 0 ∧ shape t = some (w, mb, top)) ∧
    overflows 23 0x7F7FFFFF 0 (2 * units 32 23 0x7F7FFFFF) 1 ∧ ¬overflows 23 0x7F7FFFFF 0 (units 32 23 0x7F7FFFFF) 1 ∧ isTiny 23 0 1 2 := by
  exact ⟨by decide +kernel, Or.inl (by decide +kernel), fun h => h.elim (by decide +kernel) (fun h => absurd h.1 (by decide +kernel)),
    And.intro (by decide) (show 4 * ((1 : Int).natAbs : Int) < (4 * 2 ^ 23 - 1) * 2 by decide)⟩

theorem wit_SpecialValues :
    (∀ p ∈ ([(8, 32, 23, 0x7F7FFFFF, 0x7F800000, 0x7FC00000), (9, 64, 52, 0x7FEFFFFFFFFFFFFF, 0x7FF0000000000000, 0x7FF8000000000000)] :
        List (BitVec 5 × Nat × Nat × Nat × Nat × Nat)),
      let (t, w, mb, top, inf, nan) := p
      (t = 8 ∨ t = 9) ∧ shape t = some (w, mb, top) ∧ (nan < 2 ^ w ∧ top + 1 < nan % 2 ^ (w - 1)) ∧ inf = top + 1 ∧
      2 ^ (w - 1) < 2 ^ (w - 1) + 1 ∧ (1 < 2 ^ w ∧ 1 % 2 ^ (w - 1) ≤ top) ∧ units w mb 1 ≠ 0 ∧ 0 < 1 ∧ 1 ≤ top) ∧
    -- of f32: 256 and −256, 2 and 1/4 as the exponents and turns that are exact
    256 * (2 : Int) ^ 149 ≤ units 32 23 0x43800000 ∧ units 32 23 0xC3800000 ≤ -256 * (2 : Int) ^ 149 ∧
    units 32 23 0x40000000 = (((151 : Nat) : Int) - 149) * (2 : Int) ^ 149 ∧ units 32 23 0x40000000 = (2 : Int) ^ 150 ∧
    4 * units 32 23 0x3E800000 = 1 * (2 : Int) ^ 149 := by decide +kernel

/-- A number, an infinity and a NaN of each type that has them, as what cvt reads. -/
theorem wit_Convert :
    (∀ t ∈ ([0, 1, 2, 3, 4, 5, 6, 7] : List (BitVec 5)), isNumber t 1 false 1 1) ∧ isNumber 0 0xFFFFFFFF true (-1) 1 ∧
    (∀ t ∈ ([8, 9, 10, 11, 12, 13, 14, 15, 16] : List (BitVec 5)), ∃ w mb top, shape t = some (w, mb, top) ∧
      isNumber t 1 false (units w mb 1) (oneUnits w mb)) ∧ isNumber 17 1 false 2 ((2 : Int) ^ 127) ∧
    (∀ p ∈ ([(8, 0x7F800000), (10, 0x7C00), (11, 0x7F80), (13, 0x7C)] : List (BitVec 5 × Nat)), isInfinite p.1 p.2 false) ∧
    (∀ p ∈ ([(8, 0x7FC00000), (10, 0x7E00), (11, 0x7FC0), (12, 0x7F), (13, 0x7E), (17, 255)] : List (BitVec 5 × Nat)), isNaN p.1 p.2) ∧
    -- in units of f32, of 2^-149: a number of e2m1 above the integers of i8, one within; the largest of e4m3, and one beyond it
    integral 0 ((2 : Int) ^ 156) ((2 : Int) ^ 149) = 128 ∧ integral 0 ((2 : Int) ^ 150) ((2 : Int) ^ 149) = 2 ∧
    overflows 3 0x7E 0 (2 * units 8 3 0x7E) 1 ∧ ¬overflows 3 0x7E 0 (units 8 3 0x7E) 1 := by
  refine ⟨fun t ht => ?_, ?_, fun t ht => ?_, ?_, fun p hp => ?_, fun p hp => ?_, by decide +kernel, by decide +kernel,
    Or.inl (by decide), fun h => h.elim (by decide) (fun h => absurd h.1 (by decide))⟩
  · simp only [List.mem_cons, List.not_mem_nil, or_false] at ht
    rcases ht with rfl | rfl | rfl | rfl | rfl | rfl | rfl | rfl
    all_goals exact And.intro (by decide) (And.intro rfl (And.intro (by decide) (by decide)))
  · exact And.intro (by decide) (And.intro rfl (And.intro (by decide) (by decide)))
  · simp only [List.mem_cons, List.not_mem_nil, or_false] at ht
    rcases ht with rfl | rfl | rfl | rfl | rfl | rfl | rfl | rfl | rfl
    all_goals exact ⟨_, _, _, rfl, And.intro (And.intro (by decide) (by decide)) (And.intro (by decide) (And.intro rfl rfl))⟩
  · exact And.intro (by decide) (And.intro rfl (And.intro rfl rfl))
  · simp only [List.mem_cons, List.not_mem_nil, or_false] at hp
    rcases hp with rfl | rfl | rfl | rfl
    all_goals exact And.intro (by decide) rfl
  · simp only [List.mem_cons, List.not_mem_nil, or_false] at hp
    rcases hp with rfl | rfl | rfl | rfl | rfl | rfl
    all_goals first | exact And.intro (by decide) (And.intro (by decide) (by decide)) | exact And.intro rfl rfl

theorem wit_CrossLaneTypes :
    ∀ t ∈ [0, 2, 3, 8, 9], let s := withS (typed t) [(2, 0xFFFF)]
      (s.ty.toNat ≤ 3 ∨ s.ty = 8 ∨ s.ty = 9) ∧ s.FlagsQuiet ∧ s.grp.tracectl = 0 ∧
      s.sp.mask = s.sp.joined.getD (s.readS 2) &&& widthMask s.width &&& s.grp.live ∧ s.sp.joined.isSome = false ∧
      s.Ready (reduUse s.ty [.s 3] 6 0 [(.s 2, true)] true) ∧ s.Ready (reduUse s.ty (vregs s.ty 4) 6 0 [(.s 2, true)] (pairOk s.ty 4)) ∧
      s.saveFault .elog = 0 := by
  intro t ht
  simp only [List.mem_cons, List.not_mem_nil, or_false] at ht
  rcases ht with rfl | rfl | rfl | rfl | rfl
  all_goals
    repeat' apply And.intro
    all_goals first | decide | (unfold State.FlagsQuiet; decide) | (unfold State.Ready; decide)

/-- An 8-byte element, and one of 4, as the steps of an atomic read their operands. -/
theorem wit_AtomicValues :
    (let e := { entry (.atom .cas) with snaps := [buf 2 3 0 0] }; e.op = .atom .cas ∧ esize (bufFmt (e.snap 0)) = some 8) ∧
    (let e := { entry (.red .add) with snaps := [buf 2 8 0 0] }; e.op = .red .add ∧ AtomFn.add ≠ .cas ∧ esize (bufFmt (e.snap 0)) = some 4) ∧
    f32NaN 0x3F800000 = false ∧ f32NaN 0x7FC00000 = true := by decide

/-- A barrier object in a line of gang memory that cannot be corrected. -/
theorem wit_BarrierLines :
    let s := { (barred []) with gang := { (barred []).gang with badGmem := [4] } }
    s.barOperand (s.readS 1) = .ok (false, 0x100) ∧ (s.gang.badGmem.any fun l => lineMeets l 0x100 16) = true ∧ (s.readS 2).toNat < 2 ^ 55 ∧
    s.Ready { reads := [(.s 1, false), (.s 2, true)], writes := [], ready := s.settled } ∧
    s.Ready { reads := [(.s 1, false)], writes := [.s 3], ready := s.settled } ∧
    (barred []).gang.badGmem = [] := by
  repeat' apply And.intro
  all_goals first | exact rfl | decide | (unfold State.Ready; decide)

/-- A shared record whose table does not translate, as one that is prefetched. -/
theorem wit_Prefetch :
    (let s := base.updCtx 1 fun c => { c with rtBase := 0x8000 }
     s.Ready { reads := [(.s 1, false), (.s 2, false)] } ∧ s.uncached { recs := [256] } = some 256) ∧
    (let s := { (base.updCtx 1 fun c => { c with rtBase := 0x8000 }) with mem := [(0, 4)] }
     (match s.fetchRecord 256 with | .hold .. => true | _ => false) = true) := by
  refine ⟨⟨?_, by decide +kernel⟩, by decide +kernel⟩
  unfold State.Ready; decide

/-- A band of two gangs: the other still to come, come with another mask, or come before. -/
theorem wit_BandBarriers :
    let s0 := withS base [(1, 3)]
    let band (l : List SyncBar) : Band :=
      { vf := 1, seq := 1, idx := 0, base := 0, bytes := 0, resident := true, saved := [], barriers := l.map fun x => (0, x) }
    let other : Resident := { gang := { s0.gang with idx := 1, band := some 0, lrec := { s0.gang.lrec with band := 2 } }, groups := [base.grp] }
    let s (l : List SyncBar) : State :=
      { s0 with gang := { s0.gang with band := some 0, lrec := { s0.gang.lrec with band := 2 } }, bands := [band l], others := [other] }
    (∀ l ∈ [[], [{ mask := 3, arrived := [(1, 0)], phase := 0 }], [({ mask := 1, arrived := [(1, 0)], phase := 0 } : SyncBar)]],
      (s l).Ready { reads := [(.s 1, false)], ready := (s l).settled } ∧ (s l).myBand = some (band l) ∧ (∀ q ∈ (band l).barriers, q.1 < 16) ∧
      (s l).gang.lrec.band.toNat ≤ 16 ∧ (s l).gang.place < (s l).gang.lrec.band.toNat ∧ ((s l).readS 1).getLsbD (s l).gang.place = true) ∧
    other ∈ (s []).bandGangs (band []) ∧ base.grp.alive = true ∧ other.gang.place = 1 ∧ (BitVec.ofNat 5 1, base.grp.idx) ∉ (getBar (band []).barriers 0).arrived ∧
    (getBar (band [{ mask := 1, arrived := [(1, 0)], phase := 0 }]).barriers 0).mask.getLsbD 1 ≠ ((s []).readS 1).getLsbD 1 ∧
    ((withS (s []) [(1, 2)]).readS 1).getLsbD 0 = false := by
  refine ⟨fun l hl => ?_, by decide +kernel⟩
  simp only [List.mem_cons, List.not_mem_nil, or_false] at hl
  rcases hl with rfl | rfl | rfl
  all_goals
    repeat' apply And.intro
    all_goals first | decide +kernel | (unfold State.Ready; decide +kernel)

/-- One byte of a copy, credited to a barrier or not; a byte beyond the destination's end. -/
theorem wit_CopyBytes :
    (∀ m ∈ [true, false], let e := { copying with scal := [0x100, 0x200, 32, if m then 0x300 else BitVec.allOnes 64] }
     let s := flying e
     s.grp.entry 0 = some e ∧ 0 < (e.sc 2).toNat ∧ (match s.barOperand 0x300 with | .ok o => o == (false, 0x300) | _ => false) = true ∧ s.badBank = [] ∧ e.partCount = 32 ∧
     (match s.byteAcc (e.snap 1) 0x200, s.byteAcc (e.snap 0) 0x100 with
      | .ok d, .ok a => (match s.engineXlat e d true 0 4, s.engineXlat e a false 0 4 with
        | (.at_ d, s1), (.at_ a, s2) => s1.grp == s.grp && s2.grp == s.grp && d.place == .gmem && a.place == .gmem && d.addr == 0x200
        | _, _ => false)
      | _, _ => false) = true) ∧
    { copying with scal := [0x100, 0x200, 1, BitVec.allOnes 64] }.partCount = 1 ∧
    (match (flying copying).byteAcc (copying.snap 1) 0x1000 with | .error c => c.1 == cBOUNDS | _ => false) = true := by decide +kernel

theorem inside_gmem (s : State) (r : W256) (h : bufSpace r = 1 ∧ (bufExtent r).toNat = 4096 ∧ (bufBase r).toNat + 4096 ≤ s.alloc) :
    ∀ b, b < 4096 → bufSpace r = 1 ∧ b < (bufExtent r).toNat ∧ (bufBase r).toNat + b < s.alloc :=
  fun b hb => ⟨h.1, by omega, by omega⟩

/-- A gather of one tile, and one whose index names a tile beyond the data. -/
theorem wit_GatherTiles :
    let data : W256 := buf 1 6 0 0x4000 ||| (64#256 <<< 144) ||| (4096#256 <<< 176)
    let e := { entry .gth with snaps := [buf 1 1 0 0, buf 1 6 0 0x2000, data], scal := [0, 1, 1024], recs := [2, 3, 4] }
    let s := flying e
    let t : State := { s with gang := { s.gang with gmem := [(0, 1)] } }
    s.grp.entry 0 = some e ∧ e.op = .gth ∧ e.refused = [] ∧ (e.sc 1).toNat = 1 ∧ (e.sc 2).getLsbD 10 = true ∧ esize (bufFmt (e.snap 2)) = some 1 ∧
    bufBounds data = 0 ∧ (bufStride1 data).toInt = 64 ∧ (bufStride2 data).toInt = 4096 ∧
    ofBytes (SMap.getRange s.gang.gmem 0 4) = 0 ∧ ofBytes (SMap.getRange t.gang.gmem 0 4) = 1 ∧
    (∀ r ∈ [buf 1 1 0 0, buf 1 6 0 0x2000, data], ∀ b, b < 4096 → bufSpace r = 1 ∧ b < (bufExtent r).toNat ∧ (bufBase r).toNat + b < s.alloc) := by
  refine ⟨rfl, rfl, rfl, rfl, rfl, rfl, rfl, rfl, rfl, rfl, rfl, fun r hr => ?_⟩
  apply inside_gmem
  simp only [List.mem_cons, List.not_mem_nil, or_false] at hr
  rcases hr with rfl | rfl | rfl <;> decide +kernel

/-- A zero tile, a dense one of element (0, 0) being 1, and a low-rank one of a column of each factor, in f32; f64 and narrow forms. -/
def zeroT : Opnd := { r := tile64, v := .zero }
def denseT (fmt : Nat) : Opnd :=
  { r := (tile64 ^^^ (8#256 <<< 32)) ||| (BitVec.ofNat 256 fmt <<< 32) ||| (1#256 <<< 40) ||| (if fmt = 9 then 1#256 <<< 53 else 0)
    v := .dense [(0, 1)] [] }
def rankT : Opnd := { r := tile64 ||| (2#256 <<< 40) ||| (1#256 <<< 42), v := .lowRank [(0, 0x3F800000)] [(0, 0x3F800000)] }
def momT : Opnd := { r := (tile64 ^^^ (8#256 <<< 32)) ||| (19#256 <<< 32) ||| (1#256 <<< 40) ||| (1#256 <<< 52), v := .dense [(0, 0x3F800000)] [] }

theorem wit_TileOperands :
    (∀ o ∈ [zeroT, denseT 8, denseT 9, denseT 6, denseT 10, denseT 12, denseT 18, rankT, momT], o.rows = 64 ∧ o.cols = 64 ∧ o.inside 0 0 = true) ∧
    tileTK zeroT.r = 0 ∧ (∀ f ∈ [8, 9, 6, 10, 12, 18], tileTK (denseT f).r = 1 ∧ tileFmt (denseT f).r = BitVec.ofNat 8 f) ∧
    tilePrec (denseT 9).r = true ∧ tilePrec (denseT 8).r = false ∧ tilePrec rankT.r = false ∧
    (tileTK rankT.r = 2 ∧ (tileRank rankT.r).toNat = 1 ∧ ∃ u v, rankT.v = .lowRank u v ∧ SMap.wf u = true ∧ SMap.wf v = true) ∧
    (tileTK momT.r = 1 ∧ tileFmt momT.r = 19) ∧ (∃ els sc, (denseT 8).v = .dense els sc ∧ SMap.wf els = true ∧ SMap.wf sc = true) ∧
    tileScale (denseT 6).r = 0 ∧ (denseT 6).scales.getD 0 0x7F = 0x7F := by
  refine ⟨by decide +kernel, by decide, by decide, by decide, by decide, by decide, ⟨by decide, by decide, _, _, rfl, by decide, by decide⟩,
    by decide, ⟨_, _, rfl, by decide, by decide⟩, by decide, by decide +kernel⟩

/-- One column of zeros, finite; a column that is not. -/
theorem wit_TileColumns :
    let u : Cols := #[zeros 64]
    u.sized 64 1 ∧ (∀ t j, t < 64 → j < 1 → u.elem t j % 2 ^ 31 ≤ 2 ^ 31 - 2 ^ 23 - 1) ∧ ¬(0x7F800000 % 2 ^ 31 ≤ 2 ^ 31 - 2 ^ 23 - 1) ∧
    (tileKcap zeroT.r).toNat = 1 ∧ modePROMO 0 = false ∧ modeRKM 0 ≠ 3 := by
  refine ⟨⟨rfl, fun j hj => ?_⟩, ?_, by decide, by decide, by decide, by decide⟩
  · obtain rfl : j = 0 := by omega
    decide +kernel
  · intro t j ht hj
    obtain rfl : j = 0 := by omega
    revert t; decide +kernel

/-- Records of tz, tcp and tst that pass every check but one, and one that passes all. -/
theorem wit_TileChecks :
    let c := tile64
    let b := buf 1 8 0 0
    -- of no refused cause: kinds, formats, spaces, RO
    (recKind c = 2 ∧ (tileFmt c).toNat ≤ 20 ∧ recRO c = false ∧ recKind b = 1 ∧ bufSpace b = 1 ∧ bufFmt b = tileFmt c ∧ recRO b = false) ∧
    (recKind b ≠ 2) ∧
    -- check 2, 3 and 5: a KCAP of 0, an f32 tile with PREC, a tile that is not square
    (tileTK c ≠ 3 ∧ tileKcap c ≠ 0 ∧ (tileRows c).toNat = 64 ∧ (tileCols c).toNat = 64 ∧ tileMom c = false ∧ tilePrec c = false) ∧
    tileKcap (c ^^^ (1#256 <<< 47)) = 0 ∧ tilePrec (c ||| (1#256 <<< 53)) = true ∧ tileTK (c ||| (1#256 <<< 40)) = 1 ∧
    tileCols (c ^^^ (3#256 <<< 84)) ≠ tileRows (c ^^^ (3#256 <<< 84)) ∧
    -- check 6: a rank above KCAP; check 7: an image within gang memory, one that ends beyond it
    ¬((2 : W64).toNat ≤ (tileKcap c).toNat) ∧ (1 : W64).toNat ≤ (tileKcap c).toNat ∧
    (base.tileFault .tz [c] 1 = none ∧ base.tileFault .tz [c] 2 = some (cTILE_VALUE, 0) ∧ base.tileFault .tz [b] 0 = some (cREC_KIND, 0) ∧
      base.tileFault .tz [c ^^^ (1#256 <<< 47)] 0 = some (cTILE_RECORD, 0) ∧ base.tileFault .tz [c ||| (1#256 <<< 53)] 0 = some (cTILE_FORMAT, 0) ∧
      base.tileFault .tlu [c, b ^^^ (9#256 <<< 208)] 0 = some (cTILE_KIND, 0)) := by decide +kernel

/-- A tile whose bits cannot be corrected, inspected by tv. -/
theorem wit_TileDamaged :
    let s : State := let t := record2 (tile64 ||| (1#256 <<< 40)); { t with gang := { t.gang with badTiles := [2] } }
    s.gang.badTiles.contains 2 = true ∧ s.tvFault (s.record 2) 0 = none ∧ s.grp.killed = false ∧
    s.Ready { ok := true, reads := [(.s 1, false)], writes := [.v 127], ready := s.interlockFree [2], park := s.interlockHeld [2] } ∧
    (record2 (tile64 ||| (1#256 <<< 40))).gang.badTiles.contains 2 = false := by
  repeat' apply And.intro
  all_goals first | decide | (unfold State.Ready; decide)

/-- An operation whose first operand is a tile of factors to load. -/
theorem wit_TileFactors :
    let e := { entry (.tile .tldf) with recs := [2, 3], snaps := [rankT.r, buf 1 8 0 0], scal := [0] }
    let s := { (flying e) with gang := { base.gang with window := [(2, rankT.r)] } }
    (s.opnd e 0).r = rankT.r ∧ tileTK rankT.r ≠ 1 ∧ tileFmt rankT.r = 8 ∧ (tileRank rankT.r).toNat ≠ 0 ∧ (tileRank zeroT.r).toNat = 0 ∧
    ((([(0, 1), (1, 2)] : List (Nat × Nat)).map (·.1)).Nodup ∧ ∀ l ∈ ([(0, 1), (1, 2)] : List (Nat × Nat)), 62 + l.1 < 64) := by decide +kernel

/-- The queue of `queued` with its BASE in a page that migrates on touch. -/
def queuedTouch : State :=
  let s := touched.updCtx 1 fun c => { c with regions := [(0, 64)], keys := [0] }
  { s with gang := { s.gang with window := [(2, queueRec false ^^^ (0x30000#256 <<< 32))] } }

/-- A translation that a fault of a page holds. -/
def isHold (x : Xlat × State) : Bool := match x.1 with | .hold .. => true | _ => false

/-- A queue whose control block cannot be read. -/
theorem wit_QueueDamaged :
    let s := { (queued []) with badBank := [0] }
    let r := s.record 2
    recKind r = 3 ∧ qRsz r ≠ 3 ∧ (qCapLog r).toNat ≤ 16 ∧ s.queueAway r = false ∧ s.bankHeld s.gang.vf (qCtl r).toNat 32 = true ∧
    s.badCtl (qCtl r) = true ∧ (queued []).badCtl 0 = false := by decide +kernel

/-- One whose BASE is in a page to be filled. -/
theorem wit_QueueUnfilled :
    let s := pageless true
    let r := s.record 2
    s.stepping = none ∧ recKind r = 3 ∧ qRsz r ≠ 3 ∧ (qCapLog r).toNat ≤ 16 ∧ s.queueUnfilled r = true ∧ s.queueCheck 2 r .any = none ∧
    (match s.walkVa s.gang.vf s.coreId (qBase r) with | .fill _ => true | _ => false) = true := by decide +kernel

/-- Ones that are of this module, the slots of the last held by its page. -/
theorem wit_QueueHeld :
    (queued []).queueAway ((queued []).record 2) = false ∧ (pageless false).queueAway ((pageless false).record 2) = false ∧
    qBase (queuedTouch.record 2) = 0x20000 ∧ queuedTouch.queueAway (queuedTouch.record 2) = false ∧
    queuedTouch.queueCheck 2 (queuedTouch.record 2) .any = none ∧ queuedTouch.lanes.length ≤ qCap (queuedTouch.record 2) ∧
    isHold (queuedTouch.translateAll .write (slotAccs (queuedTouch.record 2) (queuedTouch.qTail (qCtl (queuedTouch.record 2)))
      queuedTouch.lanes.length)) = true := by
  refine ⟨by decide +kernel, by decide +kernel, by decide +kernel, by decide +kernel, by decide +kernel, by decide +kernel, by decide +kernel⟩

theorem wit_QueueUses :
    (pageless true).Ready (popUse 62 2 ((pageless true).record 2)) ∧ (pageless true).Ready { recs := [2] } ∧
    queuedTouch.Ready (queuedTouch.pushUse 63 8 2) := by
  refine ⟨?_, ?_, ?_⟩
  all_goals unfold State.Ready; decide +kernel

/-- A pop that waits at a control block that cannot be read. -/
theorem wit_PopDamaged :
    let s := { ((queued []).updSp fun x => { x with st := .inPop 62 (queueRec false) 2 0 }) with badBank := [0] }
    s.badCtl (qCtl (queueRec false)) = true ∧ (s.grp.splits.get 0).st = .inPop 62 (queueRec false) 2 0 ∧
    ((Dest.scal 62 (popRegs (queueRec false))).regs.any s.grp.isEmpty) = false := by decide +kernel

/-- A node of a timer in entry 256, in the last bytes that are mapped, so that no later entry can be read. -/
def loneRec : W256 := queueRec true ^^^ (6#256 <<< 117) ||| (1#256 <<< 129)
def lone : State :=
  { ((tabled (cells 0x3FFFFFE0 (toBytes 32 loneRec.toNat))).updCtx 1 fun c =>
      { c with rtBase := 0x3FFFFFE0, regions := [(0, 64)] }) with bank := [(8, 1)], time := 1000 }

theorem walk_lone (va : W64) (h : 2 ^ 30 ≤ va.toNat ∧ va.toNat < 2 ^ 31) : walk lone.mem [] va 4 0 = .invalid := by
  have e : ∀ a : BitVec 52, ∀ n, ofBytes (SMap.getRange lone.mem a.toNat 16) = n → BitVec.ofNat 128 (ofBytes (SMap.getRange lone.mem a.toNat 16)) = BitVec.ofNat 128 n :=
    fun a n h => by rw [h]
  have h0 := e 0 513 (by decide +kernel)
  have h1 := e 512 1025 (by decide +kernel)
  have h2 := e 1040 0 (by decide +kernel)
  have f : ∀ p, 31 ≤ p → (field va p 9 : BitVec 9).toNat = 0 := fun p hp => by
    have : va.toNat < 2 ^ p := Nat.lt_of_lt_of_le h.2 (Nat.pow_le_pow_right (by decide) hp)
    simp [field, Nat.shiftRight_eq_div_pow, Nat.div_eq_of_lt this]
  have i4 : walkIndex va 4 = 0 := f 48 (by decide)
  have i3 : walkIndex va 3 = 0 := f 39 (by decide)
  have i2 : walkIndex va 2 = 1 := by
    have : va.toNat / 2 ^ 30 = 1 := by omega
    show (field va 30 9 : BitVec 9).toNat = 1
    simp only [field, BitVec.extractLsb'_toNat, Nat.shiftRight_eq_div_pow, this]
  unfold walk
  simp only [i4, Nat.mul_zero]
  rw [show (0 : BitVec 52) + BitVec.ofNat 52 0 = 0 from rfl, h0]
  rw [show pteAddr (BitVec.ofNat 128 513) = 512 by decide]
  simp (decide := true) only [if_false]
  unfold walk
  simp only [i3, Nat.mul_zero]
  rw [show (512 : BitVec 52) + BitVec.ofNat 52 0 = 512 from rfl, h1]
  rw [show pteAddr (BitVec.ofNat 128 1025) = 1024 by decide]
  simp (decide := true) only [if_false]
  unfold walk
  simp only [i2]
  rw [show (1024 : BitVec 52) + BitVec.ofNat 52 (16 * 1) = 1040 from rfl, h2]
  simp (decide := true) only [if_false, if_true]

theorem timerTurn_lone : lone.timerTurn 1 256 loneRec = true := by
  unfold State.timerTurn
  rw [List.all_eq_true]
  intro m hm
  rw [List.mem_range] at hm
  by_cases h : m < 257
  · by_cases h6 : m = 256
    · subst h6; decide +kernel
    · have : (lone.nodeRecord 1 (BitVec.ofNat 10 m)).1 = none := by
        unfold State.nodeRecord
        rw [if_pos (by simp only [BitVec.toNat_ofNat]; omega)]
      rw [this]
  · have ha : (lone.ctx 1).entryAddr (BitVec.ofNat 10 m) = BitVec.ofNat 64 (0x3FFFFFE0 + 32 * (m - 256)) := by
      unfold Context.entryAddr
      rw [show (lone.ctx 1).rtBase = BitVec.ofNat 64 0x3FFFFFE0 by decide +kernel]
      apply BitVec.eq_of_toNat_eq
      simp only [BitVec.toNat_add, BitVec.toNat_ofNat]; omega
    have hw : lone.walkVa 1 none ((lone.ctx 1).entryAddr (BitVec.ofNat 10 m)) = .invalid := by
      unfold State.walkVa State.walkFrom
      refine (congrArg _ (show (lone.ctx 1).root = 0 by decide +kernel)).trans (walk_lone _ ?_)
      rw [ha, BitVec.toNat_ofNat]; omega
    have hf : (field ((lone.ctx 1).entryAddr (BitVec.ofNat 10 m)) 57 7 : BitVec 7) = 0 := by
      rw [ha]
      apply BitVec.eq_of_toNat_eq
      rw [field, BitVec.extractLsb'_toNat, BitVec.toNat_ofNat, Nat.shiftRight_eq_div_pow, Nat.div_eq_of_lt (by omega)]; rfl
    have : (lone.nodeRecord 1 (BitVec.ofNat 10 m)).1 = none := by
      unfold State.nodeRecord
      rw [if_neg (by simp only [BitVec.toNat_ofNat]; omega)]
      simp only [State.readVirt, State.translate, hf, ne_eq, not_true_eq_false, if_false, State.tlbFind, hw]
    rw [this]

/-- A node whose flush timer has run out, and that no other comes before; one that comes after another. -/
theorem wit_NodeTimers :
    ((lone.nodeRecord 1 256).1 = some loneRec ∧ lone.timerDue loneRec = true ∧ lone.nodeTurn 1 256 = true ∧ lone.timerTurn 1 256 loneRec = true) ∧
    (let s := due 1 []
     let r := s.record 256
     s.timerTurn 1 257 r = false ∧ (s.nodeRecord 1 256).1 = some r ∧ s.qDep (qCtl r) = 0 ∧ s.qWaiting (qCtl r) ≠ 0 ∧ s.timerDue r = true) :=
  ⟨⟨by decide +kernel, by decide +kernel, by decide +kernel, timerTurn_lone⟩, by decide +kernel⟩

/-- A split parked on its own fetch when its group trapped, and a page within which an access was refused. -/
theorem wit_ParkedBefore :
    let x : Split := { base.sp with st := .parked 0x20010 true }
    let s := { base with
      faults := [faultOf 0]
      grp := { base.grp with frame := { Frame.none with active := true, splits := { base.grp.splits with e1 := x } } } }
    s.grp.frame.active = true ∧ (s.grp.frame.splits.get 1).isFree = false ∧ (s.grp.frame.splits.get 1).st = .parked 0x20010 true ∧
    pageOf 0x20010 = (faultOf 0).va ∧ s.grp.killed = false ∧ s.peers = [] ∧ (s.ctx 1).stopped = false ∧ s.faultAt 0 0 = some (faultOf 0) := by
  decide +kernel

theorem wit_Uncorrectable :
    touched.uncorrectable = [] ∧
    (let s := { (exported true) with badBank := [1] }
     (∃ a, s.reach 5 0x40 8 false = some (.bank a) ∧ ∃ l ∈ s.badBank, lineMeets l.toNat a.toNat 8 = true) ∧ (exported true).badBank = []) ∧
    (exported true).badCtl 0 = false := by
  exact ⟨rfl, ⟨⟨0x40, by decide +kernel, 1, List.mem_singleton.mpr rfl, by decide⟩, rfl⟩, by decide +kernel⟩

/-- An operation that is unretired, and one that is not. -/
theorem wit_Unretired :
    (let s := flying (entry (.ld .plain))
     s.unretired (s.self, 0) = true ∧ s.focus s.self = some s) ∧ base.unretired (base.self, 0) = false ∧
    (∀ x ∈ base.grp :: base.peers, x.flight = [] ∧ x.behind = [] ∧ x.rq = [] ∧ x.rq.length ≤ 16) := by decide +kernel

end Sys2Proof.Tests
end

section
/-!
SUPPORT. Reading a range of a memory back, the bytes of a number, and the canonical form: what `Obligations.MemoryReads` rests on.
-/

namespace Sys2Proof.Machine

/-! ## Bytes of a number (00 R8) -/

@[simp] theorem length_toBytes (n x : Nat) : (toBytes n x).length = n := by
  induction n generalizing x with
  | zero => rfl
  | succ n ih => simp [toBytes, ih]

/-- Byte i of a number stored in n bytes, the byte of index 0 least significant (00 R8). -/
theorem toBytes_getElem? (n x i : Nat) (h : i < n) : (toBytes n x)[i]? = some (BitVec.ofNat 8 (x / 2 ^ (8 * i))) := by
  induction n generalizing x i with
  | zero => omega
  | succ n ih =>
    cases i with
    | zero => simp [toBytes]
    | succ i =>
      rw [toBytes, List.getElem?_cons_succ, ih _ _ (by omega), Nat.div_div_eq_div_mul, show 256 = 2 ^ 8 from rfl,
        ← Nat.pow_add, show 8 + 8 * i = 8 * (i + 1) by omega]

/-! ## Ranges -/

/-- A range reads back as the list written to it. -/
theorem SMap.getRange_setRange {w : Nat} (l : List (BitVec w)) (m : SMap w) (k : Nat) :
    SMap.getRange (SMap.setRange m k l) k l.length = l := by
  apply List.ext_getElem
  · simp [SMap.getRange]
  · intro i _ hi
    simp [SMap.getRange, SMap.get_setRange, hi]

/-- A key outside a range written reads as before. -/
theorem SMap.get_setRange_outside {w : Nat} (l : List (BitVec w)) (m : SMap w) (k j : Nat) (h : j < k ∨ k + l.length ≤ j) :
    SMap.get (SMap.setRange m k l) j = SMap.get m j := by
  rw [SMap.get_setRange, if_neg (by omega)]

/-! ## The canonical form -/

/-- A key below every listed one reads as zero. -/
theorem SMap.get_of_above {w : Nat} (m : SMap w) (k j : Nat) (h : SMap.above k m) (hj : j ≤ k) : SMap.get m j = 0 := by
  induction m with
  | nil => rfl
  | cons p t ih =>
    have hp : k < p.1 := h p (List.mem_cons_self ..)
    rw [SMap.get, if_neg (by omega)]
    exact ih fun q hq => h q (List.mem_cons_of_mem _ hq)

/-- The first key of a map in the canonical form is the least that does not read as zero, so it lies at or below the first key of
another that reads the same. -/
theorem SMap.first_le {w : Nat} (a b : Nat) (v x : BitVec w) (t u : SMap w) (ht : SMap.wf ((a, v) :: t) = true)
    (hu : SMap.wf ((b, x) :: u) = true) (h : ∀ k, SMap.get ((a, v) :: t) k = SMap.get ((b, x) :: u) k) : a ≤ b := by
  refine Nat.le_of_not_lt fun hlt => ?_
  obtain ⟨_, hat, _⟩ := (SMap.wf_cons a v t).1 ht
  obtain ⟨hx, _, _⟩ := (SMap.wf_cons b x u).1 hu
  have hb := h b
  rw [SMap.get, if_neg (by omega), SMap.get_of_above t a b hat (by omega), SMap.get, if_pos rfl] at hb
  exact hx hb.symm

/-- Two maps in the canonical form that read the same at every key are the same. -/
theorem SMap.eq_of_get_eq {w : Nat} (m n : SMap w) (hm : SMap.wf m = true) (hn : SMap.wf n = true)
    (h : ∀ k, SMap.get m k = SMap.get n k) : m = n := by
  induction m generalizing n with
  | nil =>
    cases n with
    | nil => rfl
    | cons q u =>
      obtain ⟨hx, _, _⟩ := (SMap.wf_cons q.1 q.2 u).1 hn
      have hq := h q.1
      rw [SMap.get, SMap.get, if_pos rfl] at hq
      exact absurd hq.symm hx
  | cons p t ih =>
    obtain ⟨a, v⟩ := p
    obtain ⟨hv, hat, htw⟩ := (SMap.wf_cons a v t).1 hm
    cases n with
    | nil =>
      have ha : v = 0 := by simpa [SMap.get] using h a
      exact absurd ha hv
    | cons q u =>
      obtain ⟨b, x⟩ := q
      obtain ⟨_, hbu, huw⟩ := (SMap.wf_cons b x u).1 hn
      obtain rfl : a = b := Nat.le_antisymm (SMap.first_le a b v x t u hm hn h)
        (SMap.first_le b a x v u t hn hm fun k => (h k).symm)
      have hvx : v = x := by simpa [SMap.get] using h a
      have htu : ∀ k, SMap.get t k = SMap.get u k := by
        intro k
        by_cases hk : k = a
        · rw [hk, SMap.get_of_above t a a hat (Nat.le_refl a), SMap.get_of_above u a a hbu (Nat.le_refl a)]
        · simpa [SMap.get, hk] using h k
      rw [hvx, ih u htw huw htu]

/-- Settles O8: a range written reads back (`SMap.getRange_setRange`), keys outside it read as before, and the canonical form is
unique (`SMap.eq_of_get_eq`). -/
theorem memoryReads : Obligations.MemoryReads := by
  unfold Obligations.MemoryReads
  refine ⟨fun s b => ⟨fun pa => ⟨?_, ?_, rfl⟩, fun a => ⟨?_, ?_, rfl⟩, ?_⟩, SMap.eq_of_get_eq⟩
  · exact SMap.getRange_setRange b s.mem pa.toNat
  · exact fun j hj => SMap.get_setRange_outside b s.mem pa.toNat j hj
  · exact SMap.getRange_setRange b s.bank a.toNat
  · exact fun j hj => SMap.get_setRange_outside b s.bank a.toNat j hj
  · intro pa n x i hi
    have hin : pa.toNat ≤ pa.toNat + i ∧ pa.toNat + i < pa.toNat + (toBytes n x).length := by
      rw [length_toBytes]; omega
    rw [State.writePhys, SMap.get_setRange, if_pos hin, Nat.add_sub_cancel_left, toBytes_getElem? n x i hi]
    rfl

end Sys2Proof.Machine
end

section
/-!
SUPPORT. The trap of a `bar.sync` whose mask differs from that of those arrived, and the state that refutes `Obligations.Barriers`.
-/

namespace Sys2Proof.Machine

/-- Two groups of a gang with a trap handler: group 1 has arrived at barrier 0 with a mask of itself alone, and the one split of
group 0 stands before a `bar.sync` whose mask, in s1, names group 0 alone. -/
def syncDisagreed : State :=
  let s := State.reset.startGroup.writeS 1 1
  { s with
    gang := { s.gang with tvec := 0x20000, barriers := [(0, { mask := 2, arrived := [(0, 1)], phase := 0 })] }
    peers := [{ s.grp with idx := 1 }] }

theorem syncDisagreed_ready : syncDisagreed.Ready { reads := [(.s 1, false)], ready := syncDisagreed.settled } := by
  unfold State.Ready
  decide +kernel

theorem syncDisagreed_noBand : syncDisagreed.myBand = none := rfl

/-- When the split saved in entry 0 of the frame last issued. -/
def savedIssue : Out → W64
  | .next t => t.grp.frame.splits.e0.issuedAt
  | _ => 0

/-- The split has joined, and so issued in this cycle, when its arrival traps. -/
theorem savedIssue_barSync : savedIssue (exec (.barSync 1 0 0) syncDisagreed) = 1 := by decide +kernel

/-- A trap taken before the instruction saves the split as it stood. -/
theorem savedIssue_trap : savedIssue (.next (syncDisagreed.trap cMASK_DISAGREE)) = 0 := by decide +kernel

/-- Refutes O32: an arrival whose mask differs traps after its split has joined (log 59), so the frame saves the split as having
issued in this cycle, where the statement has `s.trap cMASK_DISAGREE`, whose frame saves it as it stood: at `syncDisagreed` the two
frames save 1 and 0. -/
theorem not_barriers : ¬ Obligations.Barriers := by
  unfold Obligations.Barriers
  rintro ⟨-, hsync⟩
  obtain ⟨-, hinside, -⟩ := hsync syncDisagreed 1 0 syncDisagreed_ready rfl (by decide) (by decide) (by decide) (by decide) (by decide)
    (fun band hband => by simp [syncDisagreed_noBand] at hband)
  obtain ⟨hdisagree, -⟩ := hinside (by decide)
  have htrap := hdisagree (by decide) ⟨_, List.mem_cons_of_mem _ (List.mem_cons_self ..), by decide⟩
  have hcount := savedIssue_barSync
  rw [htrap, savedIssue_trap] at hcount
  exact absurd hcount (by decide)

end Sys2Proof.Machine
end

section
/-!
SUPPORT. Where a fetch parks its split, and the state that refutes `Obligations.FetchAndPower`.
-/

namespace Sys2Proof.Machine

/-- A fetch whose page is to be filled or moved parks the split at its whole PC, of which the page is only the upper part (18 R283). -/
theorem State.fetch_parks_at_pc (s t : State) (l : BitVec 3) (mot : Bool)
    (h : s.translate s.gang.vf s.coreId s.sp.pc .fetch = (.replay l mot, t)) :
    ∃ u, s.fetch = .stop u ∧ u.sp.st = .parked s.sp.pc true := by
  refine ⟨_, by rw [State.fetch, h], ?_⟩
  rw [State.updSp_sp]

/-- A group whose split stands at 0x1_0004, not at the start of its page, under a root table whose first entry the host may fill. -/
def fillableAt4 : State := { State.reset.startGroup.goto 0x10004 with mem := [(0, 4)] }

theorem fillableAt4_translate :
    fillableAt4.translate fillableAt4.gang.vf fillableAt4.coreId fillableAt4.sp.pc .fetch = (.replay 4 false, fillableAt4) := rfl

/-- Refutes O5: a split whose page is to be filled is parked on its PC, and not on the start of the page: at `fillableAt4`, whose PC is
0x1_0004, the fetch leaves `.parked 0x10004 true`, where the statement has `.parked 0x10000 true`. -/
theorem not_fetchAndPower : ¬ Obligations.FetchAndPower := by
  unfold Obligations.FetchAndPower
  rintro ⟨hfetch, -⟩
  obtain ⟨-, -, hreplay⟩ := hfetch fillableAt4 fillableAt4
  obtain ⟨u, hu, hst, -⟩ := hreplay 4 false fillableAt4_translate
  obtain ⟨v, hv, hpc⟩ := fillableAt4.fetch_parks_at_pc fillableAt4 4 false fillableAt4_translate
  obtain rfl : u = v := Fetched.stop.inj (hu.symm.trans hv)
  have hpage : fillableAt4.sp.pc = pageOf fillableAt4.sp.pc := (SplitState.parked.inj (hpc.symm.trans hst)).1
  exact absurd hpage (by decide)

end Sys2Proof.Machine
end

section
/-!
SUPPORT. Contexts after a change of one, memory and counters after a module reset, and the moves of firmware: what
`Obligations.PowerAndManagement` rests on.
-/

namespace Sys2Proof.Machine

/-! ## One context changed -/

/-- A context looked up after a change that keeps the number of every context. -/
theorem State.find_updCtx (s : State) (vf u : BitVec 7) (f : Context → Context) (hf : ∀ c, (f c).vf = c.vf) :
    (s.updCtx vf f).contexts.find? (fun c => c.vf == u) =
      (s.contexts.find? fun c => c.vf == u).map fun c => if c.vf == vf then f c else c := by
  have hp : ((fun c : Context => c.vf == u) ∘ fun c => if c.vf == vf then f c else c) = fun c => c.vf == u := by
    funext c
    by_cases h : c.vf = vf <;> simp [h, hf]
  rw [State.updCtx, List.find?_map, hp]

/-- Another context is as before. -/
theorem State.ctx_updCtx_ne (s : State) (vf u : BitVec 7) (f : Context → Context) (hf : ∀ c, (f c).vf = c.vf) (hu : u ≠ vf) :
    (s.updCtx vf f).ctx u = s.ctx u := by
  rw [State.ctx, State.find_updCtx s vf u f hf, State.ctx]
  cases h : s.contexts.find? fun c => c.vf == u with
  | none => rfl
  | some c =>
    have hc : c.vf = u := by simpa using List.find?_some h
    have hne : c.vf ≠ vf := hc ▸ hu
    simp [hne]

/-- The context named is changed, where there is one of its number. -/
theorem State.ctx_updCtx_same (s : State) (vf : BitVec 7) (f : Context → Context) (hf : ∀ c, (f c).vf = c.vf)
    (hvf : (s.contexts.any fun c => c.vf == vf) = true) : (s.updCtx vf f).ctx vf = f (s.ctx vf) := by
  rw [State.ctx, State.find_updCtx s vf vf f hf, State.ctx]
  cases h : s.contexts.find? fun c => c.vf == vf with
  | none =>
    obtain ⟨c, hc, hcv⟩ := List.any_eq_true.1 hvf
    exact absurd hcv (List.find?_eq_none.1 h c hc)
  | some c =>
    have hc : c.vf = vf := by simpa using List.find?_some h
    simp [hc]

/-! ## Memory and counters after a reset (04 R53, 23 R359) -/

/-- A key that a filter keeps, whatever its value, reads as before. -/
theorem SMap.get_filter_key {w : Nat} (m : SMap w) (p : Nat × BitVec w → Bool) (k : Nat) (h : ∀ v, p (k, v) = true) :
    SMap.get (m.filter p) k = SMap.get m k := by
  induction m with
  | nil => rfl
  | cons c t ih =>
    obtain ⟨a, v⟩ := c
    by_cases hk : k = a
    · subst hk; simp [h, SMap.get]
    · rw [List.filter_cons]
      split <;> simp [SMap.get, hk, ih]

/-- Bytes put into the tiers leave every other address as it was. -/
theorem get_putTiers (l : List (BitVec 52 × Byte)) (m : List Host.Cell) (a : BitVec 52) (ha : isTier a = false) :
    SMap.get (putTiers l m) a.toNat = SMap.get m a.toNat := by
  induction l generalizing m with
  | nil => rfl
  | cons c t ih =>
    rw [putTiers, ih]
    split
    · next hc =>
      have hne : a.toNat ≠ c.1.toNat := fun h => by
        rw [BitVec.eq_of_toNat_eq h, hc] at ha
        exact Bool.noConfusion ha
      rw [SMap.get_set, if_neg hne]
    · rfl

/-- A module reset leaves host memory as it was (23 R359). -/
theorem get_memoryAfterReset (i : Nat) (m : List Host.Cell) (a : BitVec 52) (ha : isTier a = false) :
    SMap.get (memoryAfterReset i m) a.toNat = SMap.get m a.toNat := by
  rw [memoryAfterReset, get_putTiers _ _ a ha]
  exact SMap.get_filter_key m _ a.toNat fun v => by simp [ha]

/-- One value written at every key of a list reads there, and nowhere else. -/
theorem SMap.get_foldl_set {w : Nat} (l : List Nat) (m : SMap w) (v : BitVec w) (k : Nat) :
    SMap.get (l.foldl (fun (m : SMap w) i => SMap.set m i v) m) k = if k ∈ l then v else SMap.get m k := by
  induction l generalizing m with
  | nil => simp
  | cons i t ih =>
    rw [List.foldl_cons, ih, SMap.get_set]
    by_cases hk : k = i <;> by_cases ht : k ∈ t <;> simp [hk, ht]

/-! ## Throttles and pages of a channel (23 R357, R361) -/

/-- Bit i of the word whose one bit is that of a die. -/
theorem getLsbD_dieBit (die : BitVec 3) (i : Nat) (hi : i < 8) :
    (BitVec.ofNat 8 (2 ^ die.toNat)).getLsbD i = (i == die.toNat) := by
  rw [BitVec.getLsbD_ofNat, Nat.testBit_two_pow, decide_eq_true hi, Bool.true_and, Bool.eq_iff_iff]
  rw [decide_eq_true_eq, beq_iff_eq]
  exact eq_comm

/-- Without a free frame of tier 1 no page is moved. -/
theorem State.evacuate_of_noFrame (l : List Leaf) (s : State) (h : s.tier1Free = []) : State.evacuate l s = s := by
  induction l with
  | nil => rfl
  | cons x t ih => simp [State.evacuate, h, ih]

/-! ## Power (23 R356 to R359) -/

theorem State.powered_iff (s : State) : s.powered = true ↔ s.power ≠ .off := by simp [State.powered]

theorem execPowerOn_off (s : State) (x : W64) (h : s.power = .off) :
    execPowerOn x s = .next { State.reset with
      time := x, slewedAt := x, firmware := s.firmware, inactive := s.inactive, agenda := s.agenda, tick := s.tick, free := s.free
      order := s.order } := by
  rw [execPowerOn, h]

theorem execPowerOn_powered (s : State) (x : W64) (h : s.power ≠ .off) : execPowerOn x s = .next s := by
  rw [execPowerOn]
  split
  · next hoff => exact absurd hoff h
  · rfl

theorem execPerst_off (s : State) (h : s.power = .off) : execPerst s = .next s := by simp [execPerst, State.powered, h]

theorem execPerst_powered (s : State) (h : s.power ≠ .off) : execPerst s = .next s.moduleReset := by
  rw [execPerst, if_pos (s.powered_iff.2 h)]

/-- The RESET command does what PERST# does. -/
theorem execModuleReset_eq (s : State) : execModuleReset s = execPerst s := rfl

/-- CYCLE counts from 0 again on every core (04 R53). -/
theorem State.moduleReset_coreStart (s : State) (i : Nat) (hi : i < 1024) : SMap.get s.moduleReset.coreStart i = s.cycles := by
  simp only [State.moduleReset, State.fresh]
  rw [SMap.get_foldl_set, if_pos (List.mem_range.2 hi)]

theorem State.moduleReset_hostMem (s : State) (a : BitVec 52) (ha : regionOf a = .host) :
    SMap.get s.moduleReset.mem a.toNat = SMap.get s.mem a.toNat :=
  get_memoryAfterReset s.free s.mem a (by simp [isTier, ha])

/-! ## The freeze (22 R354) -/

theorem State.freezeFor_on (s : State) (c : BitVec 2) (h : s.power = .on) : s.freezeFor c = { s with power := .frozen c } := by
  rw [State.freezeFor, if_pos h]

theorem State.freezeFor_notOn (s : State) (c : BitVec 2) (h : s.power ≠ .on) : s.freezeFor c = s := by
  rw [State.freezeFor, if_neg h]

theorem execThermalTrip_off (s : State) (h : s.power = .off) : execThermalTrip s = .next s := by
  simp [execThermalTrip, State.powered, h]

theorem execThermalTrip_powered (s : State) (h : s.power ≠ .off) :
    execThermalTrip s = .next { s.freezeFor 0 with agenda := .event .undervoltagePowerOff :: s.agenda } := by
  rw [execThermalTrip, if_pos (s.powered_iff.2 h)]

theorem execFreezeReadout_frozen (s : State) (c : BitVec 2) (h : s.power = .frozen c) :
    execFreezeReadout s = .next { s with replies := s.replies ++ [.frozen c s.readOut] } := by
  rw [execFreezeReadout]
  split
  · next d hd =>
    obtain rfl : c = d := Power.frozen.inj (h.symm.trans hd)
    rfl
  · next hn => exact absurd h (hn c)

theorem execFreezeReadout_notFrozen (s : State) (h : ∀ c, s.power ≠ .frozen c) : execFreezeReadout s = .next s := by
  rw [execFreezeReadout]
  split
  · next c hc => exact absurd hc (h c)
  · rfl

/-! ## Management (16 R270, 23 R357, R360, R361) -/

theorem execPowerCapThrottle_steps (s : State) :
    ∃ n : BitVec 8, execPowerCapThrottle s = .next { s with service := { s.service with clockSteps := n } } ∧
      n.toNat = min 255 (s.service.clockSteps.toNat + 1) := by
  refine ⟨_, rfl, ?_⟩
  have hlt : s.service.clockSteps.toNat < 256 := s.service.clockSteps.isLt
  split
  · next h => rw [h]; rfl
  · next h =>
    have hne : s.service.clockSteps.toNat ≠ 255 := fun hn => h (BitVec.eq_of_toNat_eq hn)
    rw [BitVec.toNat_add, show (1 : BitVec 8).toNat = 1 from rfl]
    omega

theorem execPowerCapSet_accepted (s : State) (watts : BitVec 16) (hl : 1500 ≤ watts.toNat) (hh : watts.toNat ≤ 4800) :
    execPowerCapSet watts s = .next { s with service := { s.service with powerCap := watts } } := by
  simp [execPowerCapSet, hl, hh]

theorem execPowerCapSet_refused (s : State) (watts : BitVec 16) (h : watts.toNat < 1500 ∨ 4800 < watts.toNat) :
    execPowerCapSet watts s = .next s := by
  have hn : ¬(1500 ≤ watts.toNat ∧ watts.toNat ≤ 4800) := by omega
  simp [execPowerCapSet, hn]

/-- A key granted to a context beside those that it holds. -/
def Context.grant (index : BitVec 13) (c : Context) : Context :=
  { c with keys := if c.keys.contains index then c.keys else index :: c.keys }

theorem Context.mem_grant (c : Context) (index i : BitVec 13) : i ∈ (c.grant index).keys ↔ i = index ∨ i ∈ c.keys := by
  rw [Context.grant]
  split
  · next h =>
    refine ⟨.inr, fun hi => hi.elim (fun he => ?_) id⟩
    simpa [he] using h
  · simp

/-- A key installed through a session: it replaces that of its index in the store, and the context is granted the index (16 R270). -/
theorem execKeyInstall_session (s : State) (vf : BitVec 7) (index : BitVec 13) (key : BitVec 512) :
    execKeyInstall vf index key true s = .next ((({ s with
      service := { s.service with keyStore := (index, key) :: s.service.keyStore.filter fun x => x.1 != index } }).updCtx vf
        (Context.grant index)).reply (.keyInstalled true)) := rfl

theorem execChannelRetrain_noPages (s : State) (channel : BitVec 16) (retire : Bool) (hc : channel.toNat < 96)
    (hp : s.channelPages channel = []) : execChannelRetrain false channel retire s =
      .next { s with service := { s.service with channels := (false, channel, retire) :: s.service.channels } } := by
  have hin : ¬ lpddrChannels ≤ channel.toNat := by simpa [lpddrChannels] using hc
  simp [execChannelRetrain, hin, hp, State.evacuate]

theorem execChannelRetrain_noFrame (s : State) (channel : BitVec 16) (retire : Bool) (hc : channel.toNat < 96)
    (hp : s.channelPages channel ≠ []) (hf : s.tier1Free = []) : execChannelRetrain false channel retire s = .next s := by
  have hin : ¬ lpddrChannels ≤ channel.toNat := by simpa [lpddrChannels] using hc
  simp [execChannelRetrain, hin, hp, State.evacuate_of_noFrame _ s hf]

theorem execChannelRetrain_noChannel (s : State) (channel : BitVec 16) (retire : Bool) (hc : 96 ≤ channel.toNat) :
    execChannelRetrain false channel retire s = .next s := by
  have hout : lpddrChannels ≤ channel.toNat := hc
  simp [execChannelRetrain, hout]

theorem execFabricLaneRetrain_port (s : State) (port : BitVec 4) (lane : BitVec 3) (b : Bool) (hp : port.toNat < 12) :
    execFabricLaneRetrain port lane b s = .next { s with service := { s.service with
      lanes := (if b then [] else [(port, lane)]) ++ s.service.lanes.filter fun x => x != (port, lane) } } := by
  have hin : ¬ fabricPorts ≤ port.toNat := by simpa [fabricPorts] using hp
  cases b <;> simp [execFabricLaneRetrain, hin]

theorem execFabricLaneRetrain_noPort (s : State) (port : BitVec 4) (lane : BitVec 3) (b : Bool) (hp : 12 ≤ port.toNat) :
    execFabricLaneRetrain port lane b s = .next s := by
  have hout : fabricPorts ≤ port.toNat := hp
  simp [execFabricLaneRetrain, hout]

/-- Settles O60: power, resets and the freeze from what their meanings do with power, without it and frozen; management from one lemma
for each command. -/
theorem powerAndManagement : Obligations.PowerAndManagement := by
  unfold Obligations.PowerAndManagement
  constructor
  · intro s x
    refine ⟨execPowerOn_off s x, execPowerOn_powered s x, fun h => ⟨execPerst_off s h, execPerst_off s h⟩, ?_, rfl,
      execThermalTrip_off s, ?_, ?_, ?_, execFreezeReadout_frozen s, execFreezeReadout_notFrozen s⟩
    · intro h
      exact ⟨s.moduleReset, execPerst_powered s h, execPerst_powered s h, rfl, rfl, rfl, rfl, rfl, rfl, rfl, rfl, rfl, rfl, rfl, rfl,
        rfl, rfl, rfl, rfl, rfl, rfl, rfl, s.moduleReset_coreStart, rfl, rfl, rfl, rfl, rfl, rfl,
        fun a ha _ => s.moduleReset_hostMem a ha⟩
    · intro h
      refine ⟨_, execThermalTrip_powered s h, ?_, ?_, rfl, ?_⟩
      · intro hon
        rw [s.freezeFor_on 0 hon]
      · intro hon
        rw [s.freezeFor_notOn 0 hon]
      · by_cases hon : s.power = .on
        · rw [s.freezeFor_on 0 hon]
        · rw [s.freezeFor_notOn 0 hon]
    · intro hon
      exact ⟨congrArg _ (s.freezeFor_on 1 hon), congrArg _ (s.freezeFor_on 2 hon)⟩
    · intro hon
      exact ⟨congrArg _ (s.freezeFor_notOn 1 hon), congrArg _ (s.freezeFor_notOn 2 hon)⟩
  · intro s die watts sensor image n vf index key stack port row spare hbm retire channel lane answered serviced v
    refine ⟨?_, ?_, ?_, execPowerCapSet_refused s watts, ⟨_, rfl⟩, rfl, rfl, ?_, ?_, rfl, rfl, rfl, rfl, ?_, ⟨_, rfl, rfl, rfl⟩, ?_, ?_,
      fun h b => execFabricLaneRetrain_noPort s port lane b h⟩
    · refine ⟨_, rfl, rfl, rfl, fun i hi => ?_⟩
      show (s.service.slowDies ||| BitVec.ofNat 8 (2 ^ die.toNat)).getLsbD i = _
      rw [BitVec.getLsbD_or, getLsbD_dieBit die i hi]
    · obtain ⟨k, hk, hn⟩ := execPowerCapThrottle_steps s
      exact ⟨_, hk, rfl, rfl, hn⟩
    · exact fun hl hh => ⟨_, execPowerCapSet_accepted s watts hl hh, rfl, rfl⟩
    · intro i hi
      show execFirmwareActivation s = _
      rw [execFirmwareActivation, hi]
    · intro hi
      show execFirmwareActivation s = _
      rw [execFirmwareActivation, hi]
    · refine ⟨_, execKeyInstall_session s vf index key, List.mem_cons_self .., ?_, ?_, ?_, ?_, rfl, rfl, rfl⟩
      · exact fun x hx hne => List.mem_cons_of_mem _ (List.mem_filter.2 ⟨hx, by simpa using hne⟩)
      · intro x hx he
        rcases List.mem_cons.1 hx with rfl | hx
        · rfl
        · exact absurd he (by simpa using (List.mem_filter.1 hx).2)
      · intro hvf
        have hc := State.ctx_updCtx_same { s with
          service := { s.service with keyStore := (index, key) :: s.service.keyStore.filter fun x => x.1 != index } } vf
          (Context.grant index) (fun _ => rfl) hvf
        refine ⟨hc ▸ (Context.mem_grant _ _ _).2 (.inl rfl), fun i hi => hc ▸ (Context.mem_grant _ _ _).2 (.inr hi)⟩
      · exact fun u hu => State.ctx_updCtx_ne _ vf u (Context.grant index) (fun _ => rfl) hu
    · refine ⟨?_, ?_, ?_, ?_⟩
      · rintro rfl
        exact ⟨_, rfl, rfl, rfl⟩
      · rintro rfl hc
        exact execChannelRetrain_noChannel s channel retire hc
      · rintro rfl hc hp
        exact ⟨_, execChannelRetrain_noPages s channel retire hc hp, rfl, rfl⟩
      · rintro rfl hc hp hf
        exact execChannelRetrain_noFrame s channel retire hc hp hf
    · intro hp
      exact ⟨⟨_, execFabricLaneRetrain_port s port lane true hp, rfl, rfl, by simp⟩,
        ⟨_, execFabricLaneRetrain_port s port lane false hp, rfl, rfl, by simp⟩⟩

end Sys2Proof.Machine
end
